-- ==== Sys2Proof/Word.lean ====
section
/-! DEFINITION. The byte, and the fixed sizes and ranges of the SV-4120 that the spec states as numbers. -/

namespace Sys2Proof

/-- One byte on the host link or on a branch line. -/
abbrev Byte := BitVec 8

/-- The last campus time: campus time counts seconds from 0 to 4,294,967,295 (R41). -/
abbrev maxCampus : Nat := 4294967295

/-- A day has 86,400 seconds (R48). -/
abbrev daySeconds : Nat := 86400

/-- The staleness timer's 8 days (R45, R47), in own-count seconds. -/
abbrev stalenessSeconds : Nat := 691200

/-- The band lifetime's 24 hours (R24), in own-count seconds. -/
abbrev bandLifeSeconds : Nat := 86400

/-- Record positions of the luminaire table (R1). -/
abbrev luminairePositions : Nat := 3072

/-- Group records of the group table (R27). -/
abbrev groupCount : Nat := 384

/-- Slots of the active test table (R85). -/
abbrev slotCount : Nat := 48

/-- Room of the result queue (R179). -/
abbrev resultRoom : Nat := 256

/-- Room of the notice outbox (R184). -/
abbrev outboxRoom : Nat := 32

/-- Places of a branch queue (R160). -/
abbrev queuePlaces : Nat := 24

/-- Members a group may have (R28). -/
abbrev groupRoom : Nat := 64

/-- The greatest body of a host frame (R192, R202). -/
abbrev maxBody : Nat := 248

end Sys2Proof
end

