-- ==== Sys2Proof/Config.lean ====
section
/-! DEFINITION. The free values: what the spec leaves open and the part nevertheless produces. Each is a constant with no
body, so nothing can be proved of its value, applied to the operands it depends on. -/

namespace Sys2Proof

/-- The campus time stored when the sum that a rule asks for (a due time, a hold-off until, a recharge until) falls
outside 0 to 4,294,967,295: the spec states no result there (assumption log 12). The operand is the exact sum. -/
opaque Config.campusSumOverflow : Nat → BitVec 32

/-- The elapsed minutes of a result (0 to 65,535, R180) when the exact figure is larger: the spec states no result
there (assumption log 13). The operand is the exact figure. -/
opaque Config.elapsedOverflow : Nat → BitVec 16

/-- The byte sent for a figure that does not fit a 1-byte reply field (R202): the spec states no value there
(assumption log 11). The operand is the exact figure. -/
opaque Config.overflow8 : Nat → BitVec 8

/-- The same for a 2-byte reply field (R202, assumption log 11). -/
opaque Config.overflow16 : Nat → BitVec 16

/-- The same for a 4-byte reply field (R202, assumption log 11). -/
opaque Config.overflow32 : Nat → BitVec 32

end Sys2Proof
end

