-- ==== Sys2Proof/Syntax.lean ====
section
/-! DEFINITION. The commands: one constructor for each row of spec/opcode_table.json, with the row's operands.
A host request carries its frame's tag and body bytes: its CRC matches and its kind byte is the row's code in the request
catalogue (10_the_host_link.md). Other operands are plain numbers: a luminaire, slot, branch or entry number. -/

namespace Sys2Proof

inductive Instr where
  /-- STATUS (R198). Host request returning scheduler, time, mode, EMG, slot, queue, store and branch status, then clearing notices-lost. -/
  | status (tag : Byte) (body : List Byte)
  /-- IDENT (R199). Host request returning vendor string, part string and silicon revision 3. -/
  | ident (tag : Byte) (body : List Byte)
  /-- SET_PARAM (R200). Host request that sets one parameter, writes it to the store and applies its consequences. -/
  | setParam (tag : Byte) (body : List Byte)
  /-- GET_PARAM (R201). Host request returning the value held by one parameter. -/
  | getParam (tag : Byte) (body : List Byte)
  /-- ENROL (R5). Host request creating a luminaire record at an unused number and adding it to its groups and, if in service, to the schedule list. -/
  | enrol (tag : Byte) (body : List Byte)
  /-- WITHDRAW (R7). Host request emptying a luminaire position, removing it from its groups and list and lowering dark counts if it was dark. -/
  | withdraw (tag : Byte) (body : List Byte)
  /-- AMEND (R10). Host request changing a luminaire's class, group list and/or branch and node, all checked before any part is applied. -/
  | amend (tag : Byte) (body : List Byte)
  /-- SET_DUE (R12). Host request replacing a luminaire's due time and re-deciding IDLE or DUE. -/
  | setDue (tag : Byte) (body : List Byte)
  /-- SET_OUT_OF_SERVICE (R13). Host request taking a luminaire out of service at once, or at release with a SERVICE recall if it holds a slot. -/
  | setOutOfService (tag : Byte) (body : List Byte)
  /-- RETURN_TO_SERVICE (R15). Host request returning an OUT-OF-SERVICE luminaire to IDLE or DUE. -/
  | returnToService (tag : Byte) (body : List Byte)
  /-- CLEAR_FAULTS (R22). Host request clearing NO-ANSWER, CHARGER and MAINS-LOST latches whose conditions the record shows absent. -/
  | clearFaults (tag : Byte) (body : List Byte)
  /-- READ_LUMINAIRE (R26). Host request returning a luminaire record, or the next used one. -/
  | readLuminaire (tag : Byte) (body : List Byte)
  /-- SET_CLASS (R17). Host request replacing a test class record whole. -/
  | setClass (tag : Byte) (body : List Byte)
  /-- READ_CLASS (R16). Host request returning a test class record. -/
  | readClass (tag : Byte) (body : List Byte)
  /-- DEFINE_GROUP (R30). Host request defining a group or replacing its cap. -/
  | defineGroup (tag : Byte) (body : List Byte)
  /-- DROP_GROUP (R32). Host request making an empty defined group undefined. -/
  | dropGroup (tag : Byte) (body : List Byte)
  /-- READ_GROUP (R33). Host request returning a group's cap, dark count and member list, or the next defined group. -/
  | readGroup (tag : Byte) (body : List Byte)
  /-- SET_TIME (R45). Host request setting campus time and time quality SET, resolving pending recharges and taking passed-over instants. -/
  | setTime (tag : Byte) (body : List Byte)
  /-- SET_WINDOW (R50). Host request making a window entry used with the given fields and re-evaluating the window state. -/
  | setWindow (tag : Byte) (body : List Byte)
  /-- CLEAR_WINDOW (R50). Host request making a window entry unused and re-evaluating the window state. -/
  | clearWindow (tag : Byte) (body : List Byte)
  /-- READ_WINDOW (R50). Host request returning a window entry. -/
  | readWindow (tag : Byte) (body : List Byte)
  /-- SET_BLACKOUT (R51). Host request setting a blackout entry and re-evaluating the window state. -/
  | setBlackout (tag : Byte) (body : List Byte)
  /-- CLEAR_BLACKOUT (R51). Host request making a blackout entry unused and re-evaluating the window state. -/
  | clearBlackout (tag : Byte) (body : List Byte)
  /-- READ_BLACKOUT (R51). Host request returning a blackout entry. -/
  | readBlackout (tag : Byte) (body : List Byte)
  /-- SET_MODE (R56). Host request putting a mode into effect at once, or staging it while ACTIVE in an open window. -/
  | setMode (tag : Byte) (body : List Byte)
  /-- READ_CALENDAR (R58). Host request returning campus time, quality, window quantities and modes. -/
  | readCalendar (tag : Byte) (body : List Byte)
  /-- READ_SLOT (R87). Host request returning a slot's status and test context, by slot or by luminaire. -/
  | readSlot (tag : Byte) (body : List Byte)
  /-- STOP_TEST (R118). Host request recalling a luminaire's test with reason HOST-STOP. -/
  | stopTest (tag : Byte) (body : List Byte)
  /-- CAMPAIGN_LOAD (R123). Host request loading or appending a chunk of campaign entries and putting the channel in LOADED. -/
  | campaignLoad (tag : Byte) (body : List Byte)
  /-- CAMPAIGN_START (R124). Host request starting a campaign at entry 0, or queuing a restart while it runs. -/
  | campaignStart (tag : Byte) (body : List Byte)
  /-- CAMPAIGN_PAUSE (R138). Host request pausing a RUNNING or HELD campaign. -/
  | campaignPause (tag : Byte) (body : List Byte)
  /-- CAMPAIGN_RESUME (R139). Host request resuming a PAUSED or HALTED campaign, optionally at an index or skipping the halted entry. -/
  | campaignResume (tag : Byte) (body : List Byte)
  /-- CAMPAIGN_STOP (R141). Host request returning a campaign to LOADED, raising its run number and optionally recalling its tests. -/
  | campaignStop (tag : Byte) (body : List Byte)
  /-- SET_STOP_POSITION (R135). Host request setting or clearing a campaign's stop position. -/
  | setStopPosition (tag : Byte) (body : List Byte)
  /-- CAMPAIGN_STATUS (R143). Host request returning a campaign channel's context and current candidate. -/
  | campaignStatus (tag : Byte) (body : List Byte)
  /-- SCHED_START (R146). Host request putting the scheduler in ACTIVE, or setting resume-to ACTIVE during an emergency. -/
  | schedStart (tag : Byte) (body : List Byte)
  /-- SCHED_SUSPEND (R147). Host request putting the scheduler in SUSPENDED, or setting resume-to SUSPENDED during an emergency. -/
  | schedSuspend (tag : Byte) (body : List Byte)
  /-- BRANCH_ENABLE (R172). Host request putting an OFF or FAULTED branch in READY with chatter count 0. -/
  | branchEnable (tag : Byte) (body : List Byte)
  /-- BRANCH_DISABLE (R171). Host request putting a branch in OFF, flushing its queue and releasing its slots. -/
  | branchDisable (tag : Byte) (body : List Byte)
  /-- BRANCH_DIRECT_ENTER (R173). Host request putting a READY branch without occupied slots in DIRECT. -/
  | branchDirectEnter (tag : Byte) (body : List Byte)
  /-- BRANCH_DIRECT_LEAVE (R176). Host request returning a DIRECT branch to READY. -/
  | branchDirectLeave (tag : Byte) (body : List Byte)
  /-- NODE_EXCHANGE (R174). Host request queuing a host-given node frame on a DIRECT branch and entering service until it ends. -/
  | nodeExchange (tag : Byte) (body : List Byte)
  /-- BRANCH_STATUS (R177). Host request returning a branch's state, queue, in-flight exchange, slots and chatter figures. -/
  | branchStatus (tag : Byte) (body : List Byte)
  /-- TAKE_RESULTS (R182). Host request removing and returning up to four result records from the queue head. -/
  | takeResults (tag : Byte) (body : List Byte)
  /-- TAKE_NOTICES (R189). Host request removing and returning up to eight notices from the outbox head. -/
  | takeNotices (tag : Byte) (body : List Byte)
  /-- SET_NOTICE_MASK (R187). Host request replacing the notice mask. -/
  | setNoticeMask (tag : Byte) (body : List Byte)
  /-- READ_NOTICE_MASK (R187). Host request returning the notice mask. -/
  | readNoticeMask (tag : Byte) (body : List Byte)
  /-- RESTART (R211). Host request answered DONE, then reloading the store image and rebuilding the part while keeping campus time. -/
  | restart (tag : Byte) (body : List Byte)
  /-- UNKNOWN_KIND (R194). A complete request frame whose kind byte is not in the catalogue is refused with UNKNOWN-KIND. The frame's CRC matches. -/
  | unknownKind (kind tag : Byte) (body : List Byte)
  /-- FRAME_DISCARDED (R192). A frame with a length byte above 248 or a mismatched CRC is discarded without reply. `bytes` are the bytes taken after the A5h. -/
  | frameDiscarded (bytes : List Byte)
  /-- FRAME_GAP_TIMEOUT (R192). 20 ms without a byte inside a host frame discards it and returns the receiver to HUNT. -/
  | frameGapTimeout
  /-- FRAME_HELD (R194). A request frame completing while a reply is being sent is held until the reply ends. The frame is given by its kind, tag and body bytes; its CRC matches. -/
  | frameHeld (kind tag : Byte) (body : List Byte)
  /-- REPLY_SENT (R196). The last byte of a reply frame leaves LINK-TX, freeing the transmitter for the next reply or held frame. -/
  | replySent
  /-- EMG_ASSERTION (R149). EMG line asserted: scheduler enters EMERGENCY and every occupied slot is recalled with reason EMERGENCY. -/
  | emgAssertion
  /-- EMG_RELEASE (R152). EMG line released in EMERGENCY: scheduler enters RECOVERY and starts the recovery hold-off timer. -/
  | emgRelease
  /-- RESET_ASSERTION (R208). RESET line asserted: every request, exchange and timer in progress is abandoned and the part waits. `cut` of the last event's store writes, counted from its end, were interrupted before they landed (R206). -/
  | resetAssertion (cut : Nat)
  /-- START_UP (R208). Power-on or RESET release: image loaded and checked, volatile state set, open markers recalled and tables rebuilt. -/
  | startUp
  /-- POWER_LOSS (R206). Supply lost: volatile state is lost and an interrupted store write leaves its item whole, old or new. `cut` of the last event's store writes, counted from its end, were interrupted before they landed (R206). -/
  | powerLoss (cut : Nat)
  /-- STALENESS_EXPIRY (R47). The 8-day staleness timer expires: time quality goes STALE and TIME-STALE is raised. -/
  | stalenessExpiry
  /-- RECOVERY_HOLD_OFF_EXPIRY (R153). Recovery hold-off timer expires: scheduler leaves RECOVERY for resume-to and EMERGENCY-CLEARED is raised. -/
  | recoveryHoldOffExpiry
  /-- BAND_LIFETIME_EXPIRY (R24). 24 hours without a band reading: the luminaire's band becomes UNKNOWN. -/
  | bandLifetimeExpiry (luminaire : Nat)
  /-- SUPERVISION_TIMER_EXPIRY (R93). A RUNNING slot's supervision timer expires: a READ is queued if possible and the timer restarts. -/
  | supervisionTimerExpiry (slot : Nat)
  /-- END_TIMER_EXPIRY (R100). A RUNNING slot's end timer expires: slot goes CLOSING and queues its first STOP. -/
  | endTimerExpiry (slot : Nat)
  /-- ANSWER_TIMEOUT (R164). No answer byte within the answer timeout: the exchange is resent, or ends unanswered after three sends. -/
  | answerTimeout (branch : Nat)
  /-- NODE_FRAME_BYTE_GAP (R163). An answer's bytes stop for 10 ms before it is complete: it is abandoned as a bad frame. -/
  | nodeFrameByteGap (branch : Nat)
  /-- CHATTER_EVENT (R166). Unsolicited bytes ended by 10 ms quiet raise the branch's chatter count. -/
  | chatterEvent (branch : Nat)
  /-- DUE_TIME_ARRIVAL (R61). Campus time reaches an IDLE luminaire's due time: it becomes DUE and a placement pass is made. -/
  | dueTimeArrival (luminaire : Nat)
  /-- OVERDUE_THRESHOLD_ARRIVAL (R63). An armed overdue threshold arrives: OVERDUE is raised and overdue reported set, or held back. -/
  | overdueThresholdArrival (luminaire : Nat)
  /-- HOLD_OFF_END (R64). A hold-off until arrives: the field becomes absent and a placement pass is made. -/
  | holdOffEnd (luminaire : Nat)
  /-- RECHARGE_UNTIL_ARRIVAL (R114). A recharge until arrives: the luminaire leaves RECHARGING for IDLE or DUE and dark counts may fall. -/
  | rechargeUntilArrival (luminaire : Nat)
  /-- WINDOW_BOUNDARY_ARRIVAL (R54). A window entry's start or end arrives and the window state is evaluated afresh. -/
  | windowBoundaryArrival (entry : Nat)
  /-- BLACKOUT_BOUNDARY_ARRIVAL (R54). A blackout's start or end arrives and the window state is evaluated afresh. -/
  | blackoutBoundaryArrival (entry : Nat)
  /-- EXCHANGE_SEND (R162). A READY or DIRECT branch with nothing in flight sends the oldest STOP-class, else oldest ordinary, exchange. -/
  | exchangeSend (branch : Nat)
  /-- NODE_ANSWER_FRAME (R163). A complete node answer frame arrives and is taken as a matching answer or a bad frame. `bytes` is the whole frame as received. -/
  | nodeAnswerFrame (branch : Nat) (bytes : List Byte)
  /-- START_OF_FRAME (R192). In HUNT a byte of value A5h starts a frame and puts the host receiver in FRAME, where the 20 ms gap watch begins. -/
  | startOfFrame (byte : Byte)
  /-- ANSWER_FIRST_BYTE (R163). The first byte of a node answer arrives inside the answer timeout; from then on the controller receives the frame to completion and the timeout no longer applies. -/
  | answerFirstByte (branch : Nat)
deriving DecidableEq, Repr

end Sys2Proof
end

