-- ==== Sys2Proof/Decode.lean ====
section
/-! DEFINITION. `decodeTableWord` over the rows that give bits (spec/opcode_table.json gives none), and the byte-level
helpers of 10_the_host_link.md 10.6: number fields, CRC-16, the request catalogue's kind codes. -/

namespace Sys2Proof

/-- No row of spec/opcode_table.json gives bits, so no word spells a command. -/
def decodeTableWord (_nbits _w : Nat) : Option Instr := none

/-! ### Numbers on the wire, most significant byte first (R202) -/

/-- A 2-byte unsigned number. -/
def be2 (a b : Byte) : Nat := a.toNat * 256 + b.toNat

/-- A 4-byte unsigned number. -/
def be4 (a b c d : Byte) : Nat := ((a.toNat * 256 + b.toNat) * 256 + c.toNat) * 256 + d.toNat

/-- A 2-byte two's complement number (a parameter value, R202). -/
def beInt2 (a b : Byte) : Int := (BitVec.ofNat 16 (be2 a b)).toInt

/-- The two bytes of a 16-bit word, the more significant first. -/
def bytes2 (w : BitVec 16) : List Byte := [w.extractLsb' 8 8, w.extractLsb' 0 8]

/-- The four bytes of a 32-bit word, the most significant first. -/
def bytes4 (w : BitVec 32) : List Byte :=
  [w.extractLsb' 24 8, w.extractLsb' 16 8, w.extractLsb' 8 8, w.extractLsb' 0 8]

/-- A 1-byte unsigned field; a figure above 255 gives a free value (R202, assumption log 11). -/
def u8 (n : Nat) : List Byte := [if n < 256 then BitVec.ofNat 8 n else Config.overflow8 n]

/-- A 2-byte unsigned field; a figure above 65,535 gives a free value (R202, assumption log 11). -/
def u16 (n : Nat) : List Byte := bytes2 (if n < 65536 then BitVec.ofNat 16 n else Config.overflow16 n)

/-- A 4-byte unsigned field; a larger figure gives a free value (R202, assumption log 11). -/
def u32 (n : Nat) : List Byte := bytes4 (if n < 4294967296 then BitVec.ofNat 32 n else Config.overflow32 n)

/-- A 2-byte signed field (a parameter value). -/
def s16 (i : Int) : List Byte := bytes2 (BitVec.ofInt 16 i)

/-- A 1-byte signed field (a temperature). -/
def s8 (i : Int) : List Byte := [BitVec.ofInt 8 i]

/-- A yes/no flag: 0 = no, 1 = yes. -/
def flag (b : Bool) : List Byte := [if b then 1 else 0]

/-- An optional field of `width` bytes: presence 1 and the field, or presence 0 and zero bytes. -/
def opt (width : Nat) : Option (List Byte) → List Byte
  | some bs => 1 :: bs
  | none => 0 :: List.replicate width 0

/-- A list: a count byte, then the elements. -/
def listOf (elems : List (List Byte)) : List Byte := u8 elems.length ++ elems.flatten

/-- The 2-byte numbers that a list of bytes spells, pair by pair. -/
def numbers2 : List Byte → List Nat
  | a :: b :: rest => be2 a b :: numbers2 rest
  | _ => []

/-! ### CRC-16 (R202): polynomial 1021h, initial value FFFFh, most significant bit first -/

/-- One bit of the division. -/
def crcShift (c : BitVec 16) : BitVec 16 := if c.msb then (c <<< 1) ^^^ 0x1021#16 else c <<< 1

/-- One byte of the division. -/
def crcByte (c : BitVec 16) (b : Byte) : BitVec 16 :=
  crcShift (crcShift (crcShift (crcShift (crcShift (crcShift (crcShift (crcShift
    (c ^^^ (b.setWidth 16 <<< 8)))))))))

/-- The CRC-16 of a list of bytes. -/
def crc16 (bs : List Byte) : BitVec 16 := bs.foldl crcByte 0xFFFF#16

/-- A frame whose length byte is above 248, which is discarded at that byte, or whose CRC does not match, which is discarded
at its last (R192). `bytes` are the bytes that the receiver takes after the A5h: length, kind, tag, body, two CRC bytes; a
byte after them is no part of the discarded frame. -/
def discardable (bytes : List Byte) : Bool :=
  match bytes with
  | [] => false
  | len :: rest =>
    if maxBody < len.toNat then rest.isEmpty
    else rest.length == len.toNat + 4 &&
      (rest.drop (len.toNat + 2) != bytes2 (crc16 (len :: rest.take (len.toNat + 2))))

/-- The kind codes of the request catalogue (10_the_host_link.md). -/
def catalogue : List Byte :=
  [0x01, 0x02, 0x03, 0x04, 0x10, 0x11, 0x12, 0x13, 0x14, 0x15, 0x16, 0x17, 0x18, 0x19, 0x20, 0x21, 0x22,
   0x30, 0x31, 0x32, 0x33, 0x34, 0x35, 0x36, 0x37, 0x38, 0x40, 0x41, 0x50, 0x51, 0x52, 0x53, 0x54, 0x55, 0x56] ++
  [0x60, 0x61, 0x70, 0x71, 0x72, 0x73, 0x74, 0x75, 0x80, 0x81, 0x82, 0x83, 0x90]

end Sys2Proof
end

