-- ==== Sys2Proof/Machine/Table.lean ====
section
/-! DEFINITION. A sparse table: the positions in use, each a number with what it holds, numbers strictly rising. It is the
one canonical form of the luminaire table, the group table, the calendar's entries, the slots and the store's items. -/

namespace Sys2Proof.Machine

/-- The positions in use, in ascending number. -/
abbrev Table (α : Type) := List (Nat × α)

namespace Table

variable {α β : Type}

/-- What position `k` holds, if it is in use. -/
def get : Table α → Nat → Option α
  | [], _ => none
  | (j, a) :: rest, k => if j = k then some a else get rest k

/-- Position `k` is in use. -/
def has (t : Table α) (k : Nat) : Bool := (t.get k).isSome

/-- Position `k` comes to hold `a`. -/
def put : Table α → Nat → α → Table α
  | [], k, a => [(k, a)]
  | (j, b) :: rest, k, a =>
    if k < j then (k, a) :: (j, b) :: rest
    else if k = j then (k, a) :: rest
    else (j, b) :: put rest k a

/-- Position `k` becomes unused. -/
def drop : Table α → Nat → Table α
  | [], _ => []
  | (j, b) :: rest, k => if j = k then rest else (j, b) :: drop rest k

/-- Position `k` comes to hold what `a?` says. -/
def set (t : Table α) (k : Nat) (a? : Option α) : Table α :=
  match a? with
  | some a => t.put k a
  | none => t.drop k

/-- The numbers in use. -/
def keys (t : Table α) : List Nat := t.map Prod.fst

/-- The canonical form: numbers strictly rising. -/
abbrev Rising (t : Table α) : Prop := t.keys.Pairwise (· < ·)

/-- Every position's content changed by `f`, which sees the number. -/
def mapValues (f : Nat → α → β) (t : Table α) : Table β := t.map fun p => (p.1, f p.1 p.2)

/-- The lowest number at or above `k` in use. -/
def atOrAbove (t : Table α) (k : Nat) : Option (Nat × α) := t.find? fun p => decide (k ≤ p.1)

/-- The lowest number below `n` that is not in use. -/
def lowestFree (t : Table α) (n : Nat) : Option Nat := (List.range n).find? fun k => !t.has k

end Table

end Sys2Proof.Machine
end

