-- ==== Sys2Proof/Machine/State.lean ====
section
/-! DEFINITION. The state of the SV-4120 as plain data: every table, collection, timer, flag and pin the spec names, the
store image beside the live fields, the queue of waiting commands, and the machine right after reset. -/

namespace Sys2Proof.Machine

/-! ### Named sets of values (10_the_host_link.md, the enumeration table of R202) -/

/-- Is the part operating, waiting with RESET asserted, or without supply (R206, R208)? -/
inductive Phase where
  | operating | inReset | unpowered
deriving DecidableEq, Repr

/-- The seven luminaire states (R3). -/
inductive LumState where
  | idle | due | starting | testing | stopping | recharging | outOfService
deriving DecidableEq, Repr

/-- The temperature bands, from UNKNOWN up to HOT (R1). -/
inductive Band where
  | unknown | cold | normal | warm | hot
deriving DecidableEq, Repr

/-- The five latches (R1). -/
inductive Latch where
  | noAnswer | charger | mainsLost | lamp | durationShort
deriving DecidableEq, Repr

/-- The eight outcomes of a test (R105, R180). -/
inductive TestOutcome where
  | pass | failShort | failLamp | failVoltage | interrupted | abortedThermal | cancelled | lost
deriving DecidableEq, Repr

/-- Why a pass passed a luminaire over (R67, R72), with the group for GROUP. -/
inductive BlockedBy where
  | group (number : Nat)
  | window | guard | branch | branchLimit | slots | share | results | band | holdOff | latch | checkPending | scheduler | time
deriving DecidableEq, Repr

/-- The reasons of a recall (R105). -/
inductive RecallReason where
  | emergency | thermal | hostStop | campaignRecall | service
deriving DecidableEq, Repr

/-- The status of an occupied slot (R85); FREE is the absence of an entry. -/
inductive SlotStatus where
  | reserved | running | closing
deriving DecidableEq, Repr

/-- The scheduler states (R144). -/
inductive SchedState where
  | suspended | active | emergency | recovery
deriving DecidableEq, Repr

/-- Time quality (R43). -/
inductive TimeQuality where
  | unset | set | stale
deriving DecidableEq, Repr

/-- The campus mode (R56). -/
inductive Mode where
  | term | exam | vacation
deriving DecidableEq, Repr

/-- How the last exchange to a node ended (R1). -/
inductive LastExchange where
  | answered | unanswered
deriving DecidableEq, Repr

/-- The kinds of exchange (R159). -/
inductive ExchangeKind where
  | start | read | check | stop | direct
deriving DecidableEq, Repr

/-- The branch states (R158). -/
inductive BranchState where
  | off | ready | direct | faulted
deriving DecidableEq, Repr

/-- The campaign states (R122). -/
inductive CampaignState where
  | empty | loaded | running | held | paused | halted | draining | done
deriving DecidableEq, Repr

/-- The start codes of a START answer (R202). -/
inductive StartCode where
  | accepted | notCharged | noMains | alreadyTesting | nodeFault
deriving DecidableEq, Repr

/-- The store state (R207). -/
inductive StoreState where
  | ok | blank | fault
deriving DecidableEq, Repr

/-- The receiver of the host link (R192). -/
inductive Receiver where
  | hunt | frame
deriving DecidableEq, Repr

/-- The reasons of a refused request (R197). -/
inductive Reason where
  | unknownKind | badLength | outOfRange | noSuchRecord | exists_ | state | full | notEmpty | linkBusy | storeFault
deriving DecidableEq, Repr

/-! ### The luminaire table (01_the_luminaire_table.md) -/

/-- A node state record (R203). -/
structure NodeRecord where
  mains : Bool
  testing : Bool
  lamp : Bool
  chargerOk : Bool
  batteryFull : Bool
  millivolts : Nat
  temperature : Int
  elapsed : Nat
deriving DecidableEq, Repr

/-- The last report: the node state record with the campus time of its arrival, and the start code when the answer
carried one (R18, R89). -/
structure Report where
  record : NodeRecord
  time : Nat
  startCode : Option StartCode
deriving DecidableEq, Repr

/-- The last result (R1, R111). -/
structure LastResult where
  outcome : TestOutcome
  completion : Nat
  elapsed : Nat
  endVoltage : Option Nat
deriving DecidableEq, Repr

/-- A recharge until: a campus time, or pending (R44). -/
inductive Recharge where
  | until (time : Nat)
  | pending
deriving DecidableEq, Repr

/-- The set of latches held (R1). -/
structure Latches where
  noAnswer : Bool := false
  charger : Bool := false
  mainsLost : Bool := false
  lamp : Bool := false
  durationShort : Bool := false
deriving DecidableEq, Repr

/-- A luminaire record (R1), with its band lifetime (R24) and its overdue watch (R62). Its number is its position. -/
structure Luminaire where
  branch : Fin 8
  node : Nat
  cls : Fin 8
  groups : List Nat
  state : LumState
  due : Nat
  holdOff : Option Nat := none
  recharge : Option Recharge := none
  band : Band := .unknown
  bandTime : Option Nat := none
  bandLife : Option Nat := none
  latches : Latches := {}
  lastReport : Option Report := none
  lastExchange : Option LastExchange := none
  lastResult : Option LastResult := none
  overdueReported : Bool := false
  openMarker : Bool := false
  blockedBy : Option BlockedBy := none
  cancelPending : Option RecallReason := none
  outAtRelease : Bool := false
  watchArmed : Bool := true
deriving DecidableEq, Repr

/-- A test class record (R16), at its blank-image values by default. -/
structure TestClass where
  rated : Nat := 180
  period : Nat := 365
  retest : Nat := 14
  normalMin : Nat := 3300
  warmMin : Nat := 3250
deriving DecidableEq, Repr

/-- A defined route group (R27); an undefined group has no entry in the group table. -/
structure Group where
  cap : Nat
  members : List Nat
  dark : Nat
deriving DecidableEq, Repr

/-! ### The calendar (03_campus_time_and_the_test_calendar.md) -/

/-- A used window entry (R49). Weekday bit 0 is Monday; mode bit 0 is TERM (R202). -/
structure WindowEntry where
  days : BitVec 7
  start : Nat
  stop : Nat
  modes : BitVec 3
deriving DecidableEq, Repr

/-- A used blackout entry (R51): in force from `start` up to but not including `stop`. -/
structure Blackout where
  start : Nat
  stop : Nat
deriving DecidableEq, Repr

/-! ### The active test table (05_test_supervision_and_outcomes.md) -/

/-- Where a test came from (R85, R121, R180); UNKNOWN stands only in records of the start-up recall. -/
inductive Origin where
  | periodic
  | campaign (channel : Fin 4) (entry : Nat) (run : Nat)
  | unknown
deriving DecidableEq, Repr

/-- An occupied slot (R85). `elapsedMinutes` and `endVoltage` are the figures R104 and R98 have the slot keep for the
result record (assumption log 39). -/
structure Slot where
  status : SlotStatus
  luminaire : Nat
  branch : Fin 8
  origin : Origin
  rated : Nat
  normalMin : Nat
  warmMin : Nat
  bandAtStart : Band
  campusStart : Option Nat := none
  elapsedRef : Option Nat := none
  supervision : Option Nat := none
  endTimer : Option Nat := none
  missedPolls : Nat := 0
  nodeElapsed : Option Nat := none
  lowest : Option Nat := none
  outcome : Option TestOutcome := none
  elapsedMinutes : Option Nat := none
  endVoltage : Option Nat := none
  stopAttempts : Nat := 0
deriving DecidableEq, Repr

/-! ### Campaigns (06_campaigns.md) -/

/-- What a campaign entry names (R120). -/
inductive EntryKind where
  | test (luminaire : Nat)
  | groupTest (group : Nat)
  | mark
deriving DecidableEq, Repr

/-- A campaign entry (R120). -/
structure Entry where
  kind : EntryKind
  hold : Bool
  last : Bool
deriving DecidableEq, Repr

/-- Why a campaign is HALTED, with the number concerned (R119). -/
inductive HaltReason where
  | luminaireMissing (number : Nat)
  | luminaireOutOfService (number : Nat)
  | groupUndefined (number : Nat)
deriving DecidableEq, Repr

/-- A campaign channel: its list and its context (R119). The loaded length is the list's length, the in-flight count the
in-flight list's. -/
structure Channel where
  entries : List Entry := []
  state : CampaignState := .empty
  cursor : Nat := 0
  takenUp : Bool := false
  member : Nat := 0
  snapshot : List Nat := []
  stopPosition : Option Nat := none
  atPosition : Bool := false
  finishWatch : List Nat := []
  restartQueued : Bool := false
  restartBypass : Bool := false
  bypass : Bool := false
  run : Nat := 0
  inFlight : List (Nat × Nat) := []
  skipped : Nat := 0
  unstarted : Nat := 0
  haltReason : Option HaltReason := none
  heldEntry : Option Nat := none
deriving DecidableEq, Repr

/-! ### Branch lines (08_branch_lines.md) -/

/-- Who asked for an exchange (R159). -/
inductive Issuer where
  | slot (slot luminaire : Nat)
  | placement
  | stray
  | recall
  | host
deriving DecidableEq, Repr

/-- An exchange (R159). Its class is STOP exactly when its kind is STOP. -/
structure Exchange where
  kind : ExchangeKind
  node : Nat
  frameKind : Byte
  body : List Byte
  luminaire : Option Nat
  issuer : Issuer
  reserved : Bool
deriving DecidableEq, Repr

/-- The exchange in flight (R161, R162): sends made, the answer timeout in ms that its present send started with, and
whether the first byte of an answer has arrived (R163). -/
structure InFlight where
  exchange : Exchange
  sends : Nat
  timeout : Nat
  receiving : Bool
deriving DecidableEq, Repr

/-- A branch controller (R157), with the host's last OFF or READY setting. -/
structure Branch where
  state : BranchState := .ready
  queue : List Exchange := []
  inFlight : Option InFlight := none
  chatter : Nat := 0
  hostOff : Bool := false
deriving DecidableEq, Repr

/-! ### Results and notices (09_results_and_notices.md) -/

/-- A result record (R180). -/
structure ResultRecord where
  number : Nat
  luminaire : Nat
  branch : Nat
  node : Nat
  origin : Origin
  outcome : TestOutcome
  startTime : Option Nat
  endTime : Option Nat
  elapsed : Nat
  endVoltage : Option Nat
  bandAtStart : Band
deriving DecidableEq, Repr

/-- The items of the store image (R206). -/
inductive Item where
  | luminaire (number : Nat)
  | cls (number : Nat)
  | group (number : Nat)
  | window (number : Nat)
  | blackout (number : Nat)
  | mode
  | params
  | mask
  | branch (number : Nat)
  | results
deriving DecidableEq, Repr

/-- What a notice of each kind carries besides its raising time (R186), in kind-number order. -/
inductive NoticeBody where
  | faultLatched (luminaire : Nat) (latch : Latch)
  | overdue (luminaire due : Nat) (blocked : Option BlockedBy)
  | strayTest (luminaire : Nat) (branch : Fin 8) (node : Nat) (found : LumState) (elapsed : Nat)
  | timeStep (old new : Nat)
  | timeStale
  | windowOpen (mode : Mode) (intervalEnd : Option Nat)
  | windowClose (mode : Mode)
  | modeChanged (old new : Mode) (staged : Bool)
  | markReached (channel : Fin 4) (entry : Nat)
  | halted (channel : Fin 4) (entry : Nat) (reason : HaltReason)
  | holdReleased (channel : Fin 4) (entry : Nat)
  | positionReached (channel : Fin 4) (entry : Nat)
  | positionFinished (channel : Fin 4) (entry : Nat)
  | done (channel : Fin 4) (run skipped unstarted : Nat)
  | restarted (channel : Fin 4) (run : Nat)
  | emergencyEntered (resumeTo : SchedState) (occupied : Nat) (reasserted : Bool)
  | emergencyCleared (entered : SchedState)
  | chatter (branch : Fin 8) (count : Nat) (autoDisable : Bool)
  | storeFault (item : Item)
deriving DecidableEq, Repr

/-- A notice: its raising time, absent while time quality is UNSET, and what its kind carries (R186). -/
structure Notice where
  time : Option Nat
  body : NoticeBody
deriving DecidableEq, Repr

/-! ### Parameters (R200) -/

/-- The fourteen parameters, at their blank-image defaults. -/
structure Params where
  supervisionInterval : Nat := 120
  answerTimeout : Nat := 60
  rechargePeriod : Nat := 24
  startHoldOff : Nat := 6
  guardMargin : Nat := 15
  overdueGrace : Nat := 30
  campaignShare : Nat := 24
  concurrency : Vector Nat 8 := Vector.replicate 8 6
  autoDisable : Vector Bool 8 := Vector.replicate 8 false
  coldNormal : Int := 5
  normalWarm : Int := 30
  warmHot : Int := 40
  hysteresis : Int := 2
  recoveryHoldOff : Nat := 30
deriving DecidableEq, Repr

/-! ### The host link (10_the_host_link.md) -/

/-- A complete request frame: kind, tag and body (R192). -/
structure Frame where
  kind : Byte
  tag : Byte
  body : List Byte
deriving DecidableEq, Repr

/-- A reply: DONE or REFUSED, the request's tag, the body (R196, R197). -/
structure Reply where
  refused : Bool
  tag : Byte
  body : List Byte
deriving DecidableEq, Repr

/-- The NODE-EXCHANGE in service (R195): its tag, and the branch its exchange is on. -/
structure Service where
  tag : Byte
  branch : Fin 8
deriving DecidableEq, Repr

/-! ### The store image (11_persistent_store_and_start_up.md) -/

/-- The service condition of a stored luminaire (R206). -/
inductive ServiceCondition where
  | inService | outOfService | recharging
deriving DecidableEq, Repr

/-- A used luminaire item (R206). Its fields are plain numbers, so that the image check (R208) has something to check. -/
structure StoredLuminaire where
  branch : Nat
  node : Nat
  cls : Nat
  groups : List Nat
  due : Nat
  holdOff : Option Nat
  recharge : Option Recharge
  latches : Latches
  lastResult : Option LastResult
  overdueReported : Bool
  service : ServiceCondition
  openMarker : Bool
  storedStart : Option Nat
deriving DecidableEq, Repr

/-- The store image (R206), at its blank values by default, and the items whose own integrity check fails (R208). -/
structure Image where
  luminaires : Table StoredLuminaire := []
  classes : Vector TestClass 8 := Vector.replicate 8 {}
  groups : Table Nat := []
  windows : Table WindowEntry := []
  blackouts : Table Blackout := []
  mode : Mode := .term
  params : Params := {}
  mask : BitVec 24 := 0
  branchOff : Vector Bool 8 := Vector.replicate 8 false
  results : List ResultRecord := []
  counter : Nat := 0
  damaged : List Item := []
deriving DecidableEq, Repr

/-! ### The whole part -/

/-- The state of the part. Fields without a rule in their comment are the model's own (INVENTORY.md says which). -/
@[ext]
structure State where
  /-- Commands that wait, first in, first out (the model's own). -/
  pending : List Instr := []
  /-- R206, R208. -/
  phase : Phase := .operating
  /-- The level of the RESET line (R208). -/
  resetLine : Bool := false
  /-- The level of the EMG line (R148). -/
  emgLine : Bool := false
  /-- The own count, in seconds (R41). -/
  ownCount : Nat := 0
  /-- The luminaire table (R1). -/
  luminaires : Table Luminaire := []
  /-- The test class table (R16). -/
  classes : Vector TestClass 8 := Vector.replicate 8 {}
  /-- The defined groups (R27). -/
  groups : Table Group := []
  /-- Campus time (R41). -/
  campus : Nat := 0
  /-- Time quality (R43). -/
  quality : TimeQuality := .unset
  /-- The staleness timer's remaining seconds, or stopped (R47). -/
  staleness : Option Nat := none
  /-- The used window entries (R49). -/
  windows : Table WindowEntry := []
  /-- The used blackout entries (R51). -/
  blackouts : Table Blackout := []
  /-- The current mode (R56). -/
  mode : Mode := .term
  /-- The staged mode (R56). -/
  staged : Option Mode := none
  /-- The window state: open? (R54). -/
  windowOpen : Bool := false
  /-- The schedule list (R59). -/
  schedule : List Nat := []
  /-- The check-pending set (R74), in the order its members joined. -/
  checkPending : List Nat := []
  /-- The arbiter's last-served channel (R70). -/
  lastServed : Fin 4 := 3
  /-- The occupied slots (R85). -/
  slots : Table Slot := []
  /-- The campaign channels (R119). -/
  channels : Vector Channel 4 := Vector.replicate 4 {}
  /-- The scheduler state (R144). -/
  sched : SchedState := .suspended
  /-- The resume-to state (R144). -/
  resumeTo : SchedState := .suspended
  /-- The recovery hold-off timer's remaining seconds, or stopped (R144). -/
  recovery : Option Nat := none
  /-- The kept EMG level: asserted? (R144, R148). -/
  emgKept : Bool := false
  /-- The branch controllers (R157). -/
  branches : Vector Branch 8 := Vector.replicate 8 {}
  /-- The result queue, oldest first (R179). -/
  results : List ResultRecord := []
  /-- The next result number (R181). -/
  resultCounter : Nat := 0
  /-- The notice outbox, oldest first (R184). -/
  outbox : List Notice := []
  /-- Notices-lost (R188). -/
  noticesLost : Bool := false
  /-- The notice mask: bit n for kind n (R187, R202). -/
  mask : BitVec 24 := 0
  /-- The ATTN line: asserted? (R190). -/
  attn : Bool := false
  /-- The parameters (R200). -/
  params : Params := {}
  /-- The receiver (R192). -/
  receiver : Receiver := .hunt
  /-- The complete frame that is held (R194). -/
  held : Option Frame := none
  /-- The NODE-EXCHANGE in service (R195). -/
  service : Option Service := none
  /-- The reply being sent (R196). -/
  sending : Option Reply := none
  /-- Replies that are ready and wait for the transmitter (R195, R196). -/
  ready : List Reply := []
  /-- A RESTART has been answered and waits for its reply to be sent (R205, R211). -/
  restartWaiting : Bool := false
  /-- The store image (R206). -/
  image : Image := {}
  /-- The store state (R207). -/
  storeState : StoreState := .blank
  /-- The fates of the coming store writes, true for a write that fails; none listed: they succeed (the model's own). -/
  writeFates : List Bool := []
  /-- The images before each store write of the last event, newest first (the model's own, R206). -/
  lastWrites : List Image := []
  /-- A placement trigger was made in the present event (the model's own, R66). -/
  trigger : Bool := false
  /-- A store write failed in the present event (the model's own, R207). -/
  writeFailed : Bool := false
deriving DecidableEq, Repr

/-- The machine right after reset: the part when a start-up has just found no usable image and taken the blank-image
values (R208, R209), with EMG and RESET released (assumption log 5), and no command waiting. -/
def State.reset : State := {}

/-! ### How a step can stop -/

/-- Nothing in the spec stops the part: no fault. -/
inductive Fault where
deriving DecidableEq, Repr

/-- The interface's one refusal. -/
inductive Refusal where
  /-- Raised by a refused arm of exec for a command that has no meaning yet; no arm of this model uses it. Safe. -/
  | notModelled (mnemonic : String)
deriving DecidableEq, Repr

/-- The outcome of a step of the part. -/
abbrev Step := Host.Outcome State Fault Refusal

end Sys2Proof.Machine
end

