-- ==== Sys2Proof/Machine/Flags.lean ====
section
/-! DEFINITION. Flags: the latches and darkness of a luminaire, the notice kinds and the outbox with its lost flag and ATTN,
the store's fault flag and its writes, the placement trigger. -/

namespace Sys2Proof.Machine

/-! ### Latches and darkness -/

/-- Latch `k` is held. -/
def Latches.has (l : Latches) : Latch → Bool
  | .noAnswer => l.noAnswer
  | .charger => l.charger
  | .mainsLost => l.mainsLost
  | .lamp => l.lamp
  | .durationShort => l.durationShort

/-- Latch `k` becomes set or clear. -/
def Latches.put (l : Latches) (b : Bool) : Latch → Latches
  | .noAnswer => { l with noAnswer := b }
  | .charger => { l with charger := b }
  | .mainsLost => { l with mainsLost := b }
  | .lamp => { l with lamp := b }
  | .durationShort => { l with durationShort := b }

/-- The state is one of the schedule list's: IDLE or DUE (R3, R59). -/
def LumState.waits : LumState → Bool
  | .idle | .due => true
  | _ => false

/-- The state is that of a luminaire that holds a slot: STARTING, TESTING or STOPPING (R86). -/
def LumState.holdsSlot : LumState → Bool
  | .starting | .testing | .stopping => true
  | _ => false

/-- Dark by latch: LAMP or DURATION-SHORT is held (R34). -/
def Luminaire.darkByLatch (l : Luminaire) : Bool := l.latches.lamp || l.latches.durationShort

/-- The luminaire is dark (R34). -/
def Luminaire.dark (l : Luminaire) : Bool := !l.state.waits || l.darkByLatch

/-! ### Triggers -/

/-- The event is a placement trigger when `b` holds (R66). -/
def triggerIf (b : Bool) (s : State) : State := { s with trigger := s.trigger || b }

/-- The event is a placement trigger (R66). -/
def triggerPass (s : State) : State := triggerIf true s

/-! ### Notices -/

/-- The kind number of a notice (R186). -/
def NoticeBody.kind : NoticeBody → Nat
  | .faultLatched .. => 0
  | .overdue .. => 1
  | .strayTest .. => 2
  | .timeStep .. => 3
  | .timeStale => 4
  | .windowOpen .. => 5
  | .windowClose .. => 6
  | .modeChanged .. => 7
  | .markReached .. => 8
  | .halted .. => 9
  | .holdReleased .. => 10
  | .positionReached .. => 11
  | .positionFinished .. => 12
  | .done .. => 13
  | .restarted .. => 14
  | .emergencyEntered .. => 15
  | .emergencyCleared .. => 16
  | .chatter .. => 17
  | .storeFault .. => 18

/-- The campus time, absent while time quality is UNSET (R186, R198). -/
def knownTime (s : State) : Option Nat := if s.quality = .unset then none else some s.campus

/-- The level that ATTN has while the part operates (R190). -/
def attnLevel (s : State) : Bool := !s.results.isEmpty || !s.outbox.isEmpty

/-- ATTN follows the two collections (R190). -/
def followAttn (s : State) : State := { s with attn := attnLevel s }

/-- A notice is raised: masked, discarded, or queued at the tail (R185). -/
def raise (b : NoticeBody) (s : State) : State :=
  if s.mask.getLsbD b.kind then s
  else if outboxRoom ≤ s.outbox.length then { s with noticesLost := true }
  else followAttn { s with outbox := s.outbox ++ [⟨knownTime s, b⟩] }

/-! ### Store writes -/

/-- The service condition a luminaire is stored with (R206). -/
def LumState.service : LumState → ServiceCondition
  | .outOfService => .outOfService
  | .recharging => .recharging
  | _ => .inService

/-- The slot a luminaire holds (R86). -/
def slotOf (s : State) (n : Nat) : Option (Nat × Slot) := s.slots.find? fun p => p.2.luminaire == n

/-- The used luminaire item for record `l` (R206). The stored start time is the campus start time of the slot it holds. -/
def storedLuminaire (s : State) (n : Nat) (l : Luminaire) : StoredLuminaire where
  branch := l.branch
  node := l.node
  cls := l.cls
  groups := l.groups
  due := l.due
  holdOff := l.holdOff
  recharge := l.recharge
  latches := l.latches
  lastResult := l.lastResult
  overdueReported := l.overdueReported
  service := l.state.service
  openMarker := l.openMarker
  storedStart := if l.openMarker then (slotOf s n).bind fun p => p.2.campusStart else none

/-- The image after item `i` is written from the part's own fields (R206); an item just written passes its integrity
check. -/
def storeItem (s : State) (i : Item) (m : Image) : Image :=
  let m := { m with damaged := m.damaged.filter (· != i) }
  match i with
  | .luminaire n => { m with luminaires := m.luminaires.set n ((s.luminaires.get n).map (storedLuminaire s n)) }
  | .cls n => { m with classes := m.classes.setIfInBounds n (s.classes[n]?.getD {}) }
  | .group n => { m with groups := m.groups.set n ((s.groups.get n).map Group.cap) }
  | .window n => { m with windows := m.windows.set n (s.windows.get n) }
  | .blackout n => { m with blackouts := m.blackouts.set n (s.blackouts.get n) }
  | .mode => { m with mode := s.mode }
  | .params => { m with params := s.params }
  | .mask => { m with mask := s.mask }
  | .branch n => { m with branchOff := m.branchOff.setIfInBounds n ((s.branches[n]?.map Branch.hostOff).getD false) }
  | .results => { m with results := s.results, counter := s.resultCounter }

/-- An attempt to write item `i` fails: the item keeps its content, the store state becomes FAULT, STORE-FAULT is raised
(R207). -/
def failWrite (i : Item) (s : State) : State :=
  raise (.storeFault i) { s with writeFates := s.writeFates.tail, storeState := .fault, writeFailed := true }

/-- An attempt to write item `i` succeeds (R206). -/
def landWrite (i : Item) (s : State) : State :=
  { s with writeFates := s.writeFates.tail, lastWrites := s.image :: s.lastWrites, image := storeItem s i s.image }

/-- Item `i` is written to the store (R206, R207); the fate of the write is the next of `writeFates`. -/
def writeItem (i : Item) (s : State) : State :=
  if s.writeFates.head? = some true then failWrite i s else landWrite i s

/-- Several items are written, in order. -/
def writeItems (is : List Item) (s : State) : State := is.foldl (fun t i => writeItem i t) s

end Sys2Proof.Machine
end

