-- ==== Sys2Proof/Machine/Ops.lean ====
section
/-! DEFINITION. The operations that every meaning shares: changing a luminaire record together with its groups and the
schedule list, sums of campus times, hold-offs, overdue notices, slots, branch queues, and the frame of one event. -/

namespace Sys2Proof.Machine

/-! ### One event -/

/-- An event begins: no trigger, no failed write, no write yet. -/
def begin (s : State) : State := { s with trigger := false, writeFailed := false, lastWrites := [] }

/-- An event ends: its scratch flags are cleared. -/
def finish (s : State) : State := { s with trigger := false, writeFailed := false }

/-! ### Updates of the fixed-size tables -/

/-- Branch `b` changes. -/
def modBranch (b : Fin 8) (f : Branch → Branch) (s : State) : State :=
  { s with branches := s.branches.set b (f s.branches[b]) }

/-- Channel `c` changes. -/
def modChan (c : Fin 4) (f : Channel → Channel) (s : State) : State :=
  { s with channels := s.channels.set c (f s.channels[c]) }

/-- Slot `k`, if occupied, changes. -/
def modSlot (k : Nat) (f : Slot → Slot) (s : State) : State :=
  match s.slots.get k with
  | some sl => { s with slots := s.slots.put k (f sl) }
  | none => s

/-! ### A luminaire record, its groups and the schedule list -/

/-- `n` placed in a list of ascending numbers (R28). -/
def insertNumber (n : Nat) : List Nat → List Nat
  | [] => [n]
  | m :: rest => if n < m then n :: m :: rest else if n = m then m :: rest else m :: insertNumber n rest

/-- The record's group list names group `g`. -/
def inGroup (l? : Option Luminaire) (g : Nat) : Bool := l?.any fun l => l.groups.contains g

/-- The record's dark contribution to group `g` (R34). -/
def darkIn (l? : Option Luminaire) (g : Nat) : Bool := l?.any fun l => l.groups.contains g && l.dark

/-- Group `g`'s record when luminaire `n`'s record goes from `old` to `new` (R28, R35, R36). -/
def regroupOne (n : Nat) (old new : Option Luminaire) (g : Nat) (r : Group) : Group where
  cap := r.cap
  members :=
    if inGroup new g then insertNumber n r.members
    else if inGroup old g then r.members.erase n
    else r.members
  dark := r.dark + (darkIn new g).toNat - (darkIn old g).toNat

/-- The group table when luminaire `n`'s record goes from `old` to `new`; each fall of a dark count is a trigger (R37). -/
def regroup (n : Nat) (old new : Option Luminaire) (s : State) : State :=
  { s with
    groups := s.groups.mapValues (regroupOne n old new)
    trigger := s.trigger || s.groups.any fun p => darkIn old p.1 && !darkIn new p.1 }

/-- The due time by which the record stands in the schedule list; none outside the list (R59). -/
def listKey (l? : Option Luminaire) : Option Nat := l?.bind fun l => if l.state.waits then some l.due else none

/-- Luminaire `m`'s due time, for its place in the list. -/
def dueOf (t : Table Luminaire) (m : Nat) : Nat := ((t.get m).map Luminaire.due).getD 0

/-- `n`, due at `d`, stands before `m`, due at `e`: ascending due time, ties in ascending number (R59). -/
def standsBefore (d n e m : Nat) : Bool := d < e || (d == e && n < m)

/-- `n`, due at `d`, placed in the schedule list (R59). -/
def insertDue (t : Table Luminaire) (d n : Nat) : List Nat → List Nat
  | [] => [n]
  | m :: rest => if standsBefore d n (dueOf t m) m then n :: m :: rest else m :: insertDue t d n rest

/-- The schedule list when luminaire `n`'s record goes from `old` to `new` (R60). -/
def relist (n : Nat) (old new : Option Luminaire) (s : State) : State :=
  if listKey old = listKey new then s
  else
    match listKey new with
    | none => { s with schedule := s.schedule.erase n }
    | some d => { s with schedule := insertDue s.luminaires d n (s.schedule.erase n) }

/-- The record goes to DUE from another state, or is enrolled into it (R66). -/
def entersDue (old new : Option Luminaire) : Bool :=
  (new.any fun l => l.state == .due) && !(old.any fun l => l.state == .due)

/-- Luminaire `n`'s record becomes `new` (none: the position becomes unused), with its groups, the schedule list and the
triggers that follow (R3, R28, R35, R37, R60, R66). -/
def putLum (n : Nat) (new : Option Luminaire) (s : State) : State :=
  let old := s.luminaires.get n
  triggerIf (entersDue old new)
    (relist n old new (regroup n old new { s with luminaires := s.luminaires.set n new }))

/-- Luminaire `n`'s record, if used, changes by `f`. -/
def modLum (n : Nat) (f : Luminaire → Luminaire) (s : State) : State :=
  match s.luminaires.get n with
  | some l => putLum n (some (f l)) s
  | none => s

/-- The record with state `st`. Blocked by is cleared when the luminaire leaves the schedule list and when it enters
IDLE (R73). -/
def Luminaire.enter (l : Luminaire) (st : LumState) : Luminaire :=
  if st = l.state then l
  else { l with state := st, blockedBy := if st = .due then l.blockedBy else none }

/-- IDLE or DUE by a due time (R6). -/
def waitState (s : State) (due : Nat) : LumState :=
  if s.quality ≠ .unset ∧ due ≤ s.campus then .due else .idle

/-- No two records share a branch and node: another record than `n` holds the pair (R5, R11). -/
def addressTaken (s : State) (n : Nat) (b : Fin 8) (node : Nat) : Bool :=
  s.luminaires.any fun p => p.1 != n && p.2.branch == b && p.2.node == node

/-- The luminaire enrolled with a branch and node (R159, R174). -/
def enrolledAt (s : State) (b : Fin 8) (node : Nat) : Option Nat :=
  (s.luminaires.find? fun p => p.2.branch == b && p.2.node == node).map Prod.fst

/-! ### Instants -/

/-- A stored instant `d` seconds after `t`; past the campus time format the spec states no result (assumption log 12). -/
def campusSum (t d : Nat) : Nat :=
  if t + d ≤ maxCampus then t + d else (Config.campusSumOverflow (t + d)).toNat

/-- A hold-off is in force (R64). -/
def Luminaire.heldOff (l : Luminaire) (s : State) : Bool := l.holdOff.any fun t => s.campus < t

/-- A hold-off is set; the later of two in force is kept (R64). -/
def Luminaire.withHoldOff (l : Luminaire) (s : State) : Luminaire :=
  let t := campusSum s.campus (s.params.startHoldOff * 3600)
  { l with holdOff := some (if l.heldOff s then max t (l.holdOff.getD t) else t) }

/-- The recharge until that is set at this moment (R113, R44). -/
def rechargeFromNow (s : State) : Recharge :=
  if s.quality = .unset then .pending else .until (campusSum s.campus (s.params.rechargePeriod * 3600))

/-- The record enters RECHARGING, or stays in it with its lockout set afresh (R113, R116). -/
def Luminaire.toRecharging (l : Luminaire) (s : State) : Luminaire :=
  { l.enter .recharging with recharge := some (rechargeFromNow s) }

/-- The overdue threshold has been reached (R62, R63), judged by the present campus time: a threshold that a backward step or a
longer grace has put ahead again has not (the model's choice, assumption log 48). -/
def overdueReached (s : State) (l : Luminaire) : Bool :=
  decide (s.quality ≠ .unset) && decide (l.due + s.params.overdueGrace * daySeconds ≤ s.campus)

/-- The states in which a reached threshold raises its notice (R63). -/
def LumState.reportsOverdue (st : LumState) : Bool := st.waits || st == .recharging

/-- The OVERDUE notice is raised if the watch is armed, the threshold reached and the state admits it (R63). -/
def checkOverdue (n : Nat) (s : State) : State :=
  match s.luminaires.get n with
  | some l =>
    if l.watchArmed && l.state.reportsOverdue && overdueReached s l then
      writeItem (.luminaire n)
        (putLum n (some { l with overdueReported := true, watchArmed := false })
          (raise (.overdue n l.due l.blockedBy) s))
    else s
  | none => s

/-- A latch of luminaire `n` is set; going from clear to set raises FAULT-LATCHED (R19, R20, R21). The caller writes the
item. -/
def setLatch (n : Nat) (k : Latch) (s : State) : State :=
  match s.luminaires.get n with
  | some l =>
    if l.latches.has k then s
    else raise (.faultLatched n k) (putLum n (some { l with latches := l.latches.put true k }) s)
  | none => s

/-! ### Slots and branch places -/

/-- Occupied slots. -/
def occupied (s : State) : Nat := s.slots.length

/-- Occupied slots on a branch. -/
def occupiedOn (s : State) (b : Fin 8) : Nat := (s.slots.filter fun p => p.2.branch == b).length

/-- Campaign-origin slots (R71). -/
def campaignSlots (s : State) : Nat :=
  (s.slots.filter fun p => match p.2.origin with | .campaign .. => true | _ => false).length

/-- The branch sends and listens (R158). -/
def BranchState.works : BranchState → Bool
  | .ready | .direct => true
  | _ => false

/-- The unreserved places free on a branch (R160). -/
def unreservedFree (s : State) (b : Fin 8) : Nat :=
  queuePlaces - occupiedOn s b - (s.branches[b].queue.filter fun e => !e.reserved).length

/-- An exchange is put at the tail of a branch's queue; a branch that is OFF or FAULTED takes nothing (R160). -/
def enqueue (b : Fin 8) (e : Exchange) (s : State) : State :=
  if s.branches[b].state.works then modBranch b (fun br => { br with queue := br.queue ++ [e] }) s else s

/-- An exchange that needs an unreserved place is offered; with none free it is not queued (R160). -/
def offer (b : Fin 8) (e : Exchange) (s : State) : State :=
  if 0 < unreservedFree s b then enqueue b e s else s

/-- Pending exchanges that satisfy `p` are removed from a branch's queue (R161). -/
def unqueue (b : Fin 8) (p : Exchange → Bool) (s : State) : State :=
  modBranch b (fun br => { br with queue := br.queue.filter fun e => !p e }) s

/-- A READ frame's exchange (R203). -/
def readExchange (kind : ExchangeKind) (node n : Nat) (issuer : Issuer) : Exchange :=
  ⟨kind, node, 0x01, [], some n, issuer, false⟩

/-- A STOP exchange (R203); a slot's STOP stands in its slot's reserved place. -/
def stopExchange (node n : Nat) (issuer : Issuer) (reserved : Bool) : Exchange :=
  ⟨.stop, node, 0x03, [], some n, issuer, reserved⟩

/-- A START exchange: test length and self-end time in minutes (R81, R203). -/
def startExchange (node n k rated : Nat) : Exchange :=
  ⟨.start, node, 0x02, bytes2 (BitVec.ofNat 16 rated) ++ bytes2 (BitVec.ofNat 16 (rated + 30)), some n, .slot k n, false⟩

/-- The exchange is a READ of slot `k`'s present test. -/
def isReadOf (k n : Nat) (e : Exchange) : Bool := e.kind == .read && e.issuer == .slot k n

/-- The exchange is a CHECK for luminaire `n`. -/
def isCheckOf (n : Nat) (e : Exchange) : Bool := e.kind == .check && e.luminaire == some n

/-- The exchange is a STOP of the stray rule or of the start-up recall for luminaire `n` (R116). -/
def isStrayStopOf (n : Nat) (e : Exchange) : Bool :=
  (e.issuer == .stray || e.issuer == .recall) && e.luminaire == some n

/-- Such a STOP is queued or in flight on some branch (R116). -/
def strayStopWaits (s : State) (n : Nat) : Bool :=
  s.branches.toList.any fun br =>
    br.queue.any (isStrayStopOf n) || (br.inFlight.any fun f => isStrayStopOf n f.exchange)

/-- CHECK exchanges still queued for luminaire `n` on a branch are removed, and it leaves the check-pending set without a
trigger when one was (R7, R11, R75). -/
def dropChecks (b : Fin 8) (n : Nat) (s : State) : State :=
  if s.branches[b].queue.any (isCheckOf n) then
    unqueue b (isCheckOf n) { s with checkPending := s.checkPending.erase n }
  else s

/-! ### The host link's transmitter -/

/-- A reply becomes ready: it goes out at once if the transmitter is free, else after those before it (R195, R196). -/
def reply (r : Reply) (s : State) : State :=
  if s.sending.isNone then { s with sending := some r } else { s with ready := s.ready ++ [r] }

/-- The code of a refusal's reason (R197). -/
def Reason.code : Reason → Byte
  | .unknownKind => 1
  | .badLength => 2
  | .outOfRange => 3
  | .noSuchRecord => 4
  | .exists_ => 5
  | .state => 6
  | .full => 7
  | .notEmpty => 8
  | .linkBusy => 9
  | .storeFault => 10

/-- What a request's owner answers: DONE with a body, a refusal, or (NODE-EXCHANGE) a reply that comes later (R195,
R197). -/
inductive Answer where
  | done (body : List Byte)
  | refused (reason : Reason)
  | later
deriving DecidableEq, Repr

/-- The reply to an answered request: DONE, or REFUSED with the reason byte; a request whose store write failed is
REFUSED with STORE-FAULT and the DONE body as detail (R197, R207). -/
def answer (tag : Byte) (p : State × Answer) : State :=
  match p.2 with
  | .later => p.1
  | .refused r => reply ⟨true, tag, [r.code]⟩ p.1
  | .done body =>
    if p.1.writeFailed then reply ⟨true, tag, Reason.storeFault.code :: body⟩ p.1 else reply ⟨false, tag, body⟩ p.1

end Sys2Proof.Machine
end

