-- ==== Sys2Proof/Machine/Operands.lean ====
section
/-! DEFINITION. Operand forms: the enumeration codes, the layouts of request bodies and of reply bodies, the result record
and the notice record (10_the_host_link.md 10.6). -/

namespace Sys2Proof.Machine

/-! ### Enumeration codes (R202) -/

/-- Code of a luminaire state. -/
def LumState.code : LumState → Byte
  | .idle => 0 | .due => 1 | .starting => 2 | .testing => 3 | .stopping => 4 | .recharging => 5 | .outOfService => 6

/-- Code of a band. -/
def Band.code : Band → Byte
  | .unknown => 0 | .cold => 1 | .normal => 2 | .warm => 3 | .hot => 4

/-- Code of one latch. -/
def Latch.code : Latch → Byte
  | .noAnswer => 0 | .charger => 1 | .mainsLost => 2 | .lamp => 3 | .durationShort => 4

/-- A latch set: bit n for latch n. -/
def Latches.code (l : Latches) : Byte :=
  BitVec.ofNat 8 (l.noAnswer.toNat + 2 * l.charger.toNat + 4 * l.mainsLost.toNat + 8 * l.lamp.toNat
    + 16 * l.durationShort.toNat)

/-- Code of an outcome. -/
def TestOutcome.code : TestOutcome → Byte
  | .pass => 0 | .failShort => 1 | .failLamp => 2 | .failVoltage => 3 | .interrupted => 4 | .abortedThermal => 5
  | .cancelled => 6 | .lost => 7

/-- Blocked by: its code and the group number, 0 unless GROUP. -/
def BlockedBy.bytes : BlockedBy → List Byte
  | .group g => 0 :: u16 g
  | .window => [1, 0, 0]
  | .guard => [2, 0, 0]
  | .branch => [3, 0, 0]
  | .branchLimit => [4, 0, 0]
  | .slots => [5, 0, 0]
  | .share => [6, 0, 0]
  | .results => [7, 0, 0]
  | .band => [8, 0, 0]
  | .holdOff => [9, 0, 0]
  | .latch => [10, 0, 0]
  | .checkPending => [11, 0, 0]
  | .scheduler => [12, 0, 0]
  | .time => [13, 0, 0]

/-- Code of a recall reason. -/
def RecallReason.code : RecallReason → Byte
  | .emergency => 0 | .thermal => 1 | .hostStop => 2 | .campaignRecall => 3 | .service => 4

/-- Code of an occupied slot's status; FREE is 0. -/
def SlotStatus.code : SlotStatus → Byte
  | .reserved => 1 | .running => 2 | .closing => 3

/-- Code of a scheduler state. -/
def SchedState.code : SchedState → Byte
  | .suspended => 0 | .active => 1 | .emergency => 2 | .recovery => 3

/-- Code of a time quality. -/
def TimeQuality.code : TimeQuality → Byte
  | .unset => 0 | .set => 1 | .stale => 2

/-- Code of a mode; also its bit in a mode set. -/
def Mode.index : Mode → Nat
  | .term => 0 | .exam => 1 | .vacation => 2

/-- Code of a mode. -/
def Mode.code (m : Mode) : Byte := BitVec.ofNat 8 m.index

/-- The mode of a code. -/
def modeOf : Byte → Option Mode
  | 0 => some .term | 1 => some .exam | 2 => some .vacation | _ => none

/-- Code of a last exchange. -/
def LastExchange.code : LastExchange → Byte
  | .answered => 0 | .unanswered => 1

/-- Code of an exchange kind. -/
def ExchangeKind.code : ExchangeKind → Byte
  | .start => 0 | .read => 1 | .check => 2 | .stop => 3 | .direct => 4

/-- Code of a branch state. -/
def BranchState.code : BranchState → Byte
  | .off => 0 | .ready => 1 | .direct => 2 | .faulted => 3

/-- Code of a campaign state. -/
def CampaignState.code : CampaignState → Byte
  | .empty => 0 | .loaded => 1 | .running => 2 | .held => 3 | .paused => 4 | .halted => 5 | .draining => 6 | .done => 7

/-- A halt reason: its code and the number concerned. -/
def HaltReason.bytes : HaltReason → List Byte
  | .luminaireMissing n => 0 :: u16 n
  | .luminaireOutOfService n => 1 :: u16 n
  | .groupUndefined n => 2 :: u16 n

/-- Code of an origin. -/
def Origin.code : Origin → Byte
  | .periodic => 0 | .campaign .. => 1 | .unknown => 2

/-- Channel and entry index of an origin, 0 unless it is a campaign. -/
def Origin.place : Origin → List Byte
  | .campaign c e _ => u8 c ++ u8 e
  | _ => [0, 0]

/-- Run number of an origin, 0 unless it is a campaign. -/
def Origin.runNumber : Origin → Nat
  | .campaign _ _ r => r
  | _ => 0

/-- Code of a start code. -/
def StartCode.code : StartCode → Byte
  | .accepted => 0 | .notCharged => 1 | .noMains => 2 | .alreadyTesting => 3 | .nodeFault => 4

/-- The start code of a byte. -/
def startCodeOf : Byte → Option StartCode
  | 0 => some .accepted | 1 => some .notCharged | 2 => some .noMains | 3 => some .alreadyTesting | 4 => some .nodeFault
  | _ => none

/-- Code of a store state (R207). -/
def StoreState.code : StoreState → Byte
  | .ok => 0 | .blank => 1 | .fault => 2

/-- Item kind of a STORE-FAULT notice, in the order of R186's list (R204). -/
def Item.code : Item → Byte
  | .luminaire _ => 0 | .cls _ => 1 | .group _ => 2 | .window _ => 3 | .blackout _ => 4 | .mode => 5 | .params => 6
  | .mask => 7 | .branch _ => 8 | .results => 9

/-- Item number of a STORE-FAULT notice, or absent (R186). -/
def Item.number : Item → Option Nat
  | .luminaire n | .cls n | .group n | .window n | .blackout n | .branch n => some n
  | _ => none

/-- A yes/no flag in a request body; another byte is out of range (R202). -/
def flagOf : Byte → Option Bool
  | 0 => some false | 1 => some true | _ => none

/-- A presence byte with its field in a request body; a presence byte above 1 is out of range (R202). -/
def optOf {α : Type} (presence : Byte) (field : α) : Option (Option α) :=
  (flagOf presence).map fun p => if p then some field else none

/-! ### Node state records (R203) -/

/-- The six bytes of a node state record. -/
def NodeRecord.bytes (r : NodeRecord) : List Byte :=
  [BitVec.ofNat 8 (r.mains.toNat + 2 * r.testing.toNat + 4 * r.lamp.toNat + 8 * r.chargerOk.toNat
      + 16 * r.batteryFull.toNat)] ++ u16 r.millivolts ++ s8 r.temperature ++ u16 r.elapsed

/-- The node state record of six bytes; none where a field is of a form that does not suit. -/
def nodeRecordOf : List Byte → Option NodeRecord
  | [flags, v1, v0, t, e1, e0] =>
    if flags.toNat < 32 ∧ be2 v1 v0 ≤ 20000 ∧ -40 ≤ t.toInt ∧ t.toInt ≤ 100 then
      some {
        mains := flags.getLsbD 0
        testing := flags.getLsbD 1
        lamp := flags.getLsbD 2
        chargerOk := flags.getLsbD 3
        batteryFull := flags.getLsbD 4
        millivolts := be2 v1 v0
        temperature := t.toInt
        elapsed := be2 e1 e0 }
    else none
  | _ => none

/-! ### Request bodies with lists -/

/-- ENROL's body (R5). -/
structure EnrolBody where
  number : Nat
  branch : Nat
  node : Nat
  cls : Nat
  groups : List Nat
  due : Nat
  inService : Byte
deriving DecidableEq, Repr

/-- Reading ENROL's body; none where its length is wrong. -/
def enrolBody : List Byte → Option EnrolBody
  | n1 :: n0 :: b :: a1 :: a0 :: c :: count :: rest =>
    match rest.drop (2 * count.toNat) with
    | [d3, d2, d1, d0, f] =>
      some ⟨be2 n1 n0, b.toNat, be2 a1 a0, c.toNat, numbers2 (rest.take (2 * count.toNat)), be4 d3 d2 d1 d0, f⟩
    | _ => none
  | _ => none

/-- AMEND's body: each part with its presence byte (R9, R10, R11; assumption log 10). -/
structure AmendBody where
  number : Nat
  clsPresent : Byte
  cls : Nat
  groupsPresent : Byte
  groups : List Nat
  addressPresent : Byte
  branch : Nat
  node : Nat
deriving DecidableEq, Repr

/-- Reading AMEND's body; none where its length is wrong. -/
def amendBody : List Byte → Option AmendBody
  | n1 :: n0 :: cp :: c :: gp :: count :: rest =>
    match rest.drop (2 * count.toNat) with
    | [ap, b, a1, a0] =>
      some ⟨be2 n1 n0, cp, c.toNat, gp, numbers2 (rest.take (2 * count.toNat)), ap, b.toNat, be2 a1 a0⟩
    | _ => none
  | _ => none

/-- A campaign entry's four bytes: kind, number, flags (R202). -/
def entryBytes : List Byte → List (Byte × Nat × Byte)
  | k :: n1 :: n0 :: f :: rest => (k, be2 n1 n0, f) :: entryBytes rest
  | _ => []

/-- A campaign entry within range (R120). -/
def entryOf (e : Byte × Nat × Byte) : Option Entry :=
  let (k, n, f) := e
  if 4 ≤ f.toNat then none
  else
    match k with
    | 0 => if n < luminairePositions then some ⟨.test n, f.getLsbD 0, f.getLsbD 1⟩ else none
    | 1 => if n < groupCount then some ⟨.groupTest n, f.getLsbD 0, f.getLsbD 1⟩ else none
    | 2 => if n = 0 then some ⟨.mark, f.getLsbD 0, f.getLsbD 1⟩ else none
    | _ => none

/-- The entries of a chunk, if all are within range (R120). -/
def entriesOf : List (Byte × Nat × Byte) → Option (List Entry)
  | [] => some []
  | e :: rest =>
    match entryOf e, entriesOf rest with
    | some a, some as => some (a :: as)
    | _, _ => none

/-! ### Result and notice records (R204) -/

/-- A result record's 32 bytes. -/
def ResultRecord.bytes (r : ResultRecord) : List Byte :=
  u16 r.number ++ u16 r.luminaire ++ u8 r.branch ++ u16 r.node
    ++ [BitVec.ofNat 8 (r.startTime.isSome.toNat + 2 * r.endTime.isSome.toNat + 4 * r.endVoltage.isSome.toNat)]
    ++ [r.origin.code] ++ r.origin.place ++ [r.outcome.code] ++ u32 r.origin.runNumber
    ++ u32 (r.startTime.getD 0) ++ u32 (r.endTime.getD 0) ++ u16 r.elapsed ++ u16 (r.endVoltage.getD 0)
    ++ [r.bandAtStart.code, 0, 0, 0]

/-- The optional field of a notice's kind is present (R204). -/
def NoticeBody.optional : NoticeBody → Bool
  | .overdue _ _ blocked => blocked.isSome
  | .windowOpen _ intervalEnd => intervalEnd.isSome
  | .storeFault item => item.number.isSome
  | _ => false

/-- A notice's fields in the order of R186. STORE-FAULT's item number takes 2 bytes for every kind of item (the model's choice,
assumption log 8). -/
def NoticeBody.bytes : NoticeBody → List Byte
  | .faultLatched n k => u16 n ++ [k.code]
  | .overdue n due blocked => u16 n ++ u32 due ++ (blocked.map BlockedBy.bytes).getD [0, 0, 0]
  | .strayTest n b node found elapsed => u16 n ++ u8 b ++ u16 node ++ [found.code] ++ u16 elapsed
  | .timeStep old new => u32 old ++ u32 new
  | .timeStale => []
  | .windowOpen m intervalEnd => [m.code] ++ u32 (intervalEnd.getD 0)
  | .windowClose m => [m.code]
  | .modeChanged old new staged => [old.code, new.code] ++ flag staged
  | .markReached c e | .holdReleased c e | .positionReached c e | .positionFinished c e => u8 c ++ u8 e
  | .halted c e r => u8 c ++ u8 e ++ r.bytes
  | .done c run skipped unstarted => u8 c ++ u32 run ++ u8 skipped ++ u8 unstarted
  | .restarted c run => u8 c ++ u32 run
  | .emergencyEntered resume n again => [resume.code] ++ u8 n ++ flag again
  | .emergencyCleared st => [st.code]
  | .chatter b n auto => u8 b ++ u8 n ++ flag auto
  | .storeFault item => [item.code] ++ u16 (item.number.getD 0)

/-- A list of bytes brought to `n` bytes with zeros. -/
def padTo (n : Nat) (bs : List Byte) : List Byte := bs ++ List.replicate (n - bs.length) 0

/-- A notice record's 24 bytes. -/
def Notice.bytes (x : Notice) : List Byte :=
  [BitVec.ofNat 8 x.body.kind, BitVec.ofNat 8 (x.time.isSome.toNat + 2 * x.body.optional.toNat)]
    ++ u32 (x.time.getD 0) ++ padTo 18 x.body.bytes

/-! ### Reply bodies -/

/-- An optional campus time. -/
def optTime (t : Option Nat) : List Byte := opt 4 (t.map u32)

/-- An optional byte code. -/
def optByte (b : Option Byte) : List Byte := opt 1 (b.map fun x => [x])

/-- Recharge until: absent, present, or pending (R202). -/
def optRecharge : Option Recharge → List Byte
  | none => [0, 0, 0, 0, 0]
  | some .pending => [2, 0, 0, 0, 0]
  | some (.until t) => 1 :: u32 t

/-- A last report: the node state record, its campus time, the start code (assumption log 8). -/
def Report.bytes (r : Report) : List Byte :=
  r.record.bytes ++ u32 r.time ++ optByte (r.startCode.map StartCode.code)

/-- A last result (R1). -/
def LastResult.bytes (r : LastResult) : List Byte :=
  [r.outcome.code] ++ u32 r.completion ++ u16 r.elapsed ++ opt 2 (r.endVoltage.map u16)

/-- READ-LUMINAIRE's reply: every field of R1 in its order (R26). -/
def luminaireBytes (n : Nat) (l : Luminaire) : List Byte :=
  u16 n ++ u8 l.branch ++ u16 l.node ++ u8 l.cls ++ listOf (l.groups.map u16) ++ [l.state.code] ++ u32 l.due
    ++ optTime l.holdOff ++ optRecharge l.recharge ++ [l.band.code] ++ optTime l.bandTime ++ [l.latches.code]
    ++ opt 12 (l.lastReport.map Report.bytes) ++ optByte (l.lastExchange.map LastExchange.code)
    ++ opt 10 (l.lastResult.map LastResult.bytes) ++ flag l.overdueReported ++ flag l.openMarker
    ++ opt 3 (l.blockedBy.map BlockedBy.bytes) ++ optByte (l.cancelPending.map RecallReason.code)
    ++ flag l.outAtRelease

/-- READ-CLASS's reply: the five fields (R16; widths: assumption log 8). -/
def TestClass.bytes (c : TestClass) : List Byte :=
  u16 c.rated ++ u16 c.period ++ u16 c.retest ++ u16 c.normalMin ++ u16 c.warmMin

/-- READ-GROUP's reply (R33). -/
def groupBytes (g : Nat) (r : Group) : List Byte :=
  u16 g ++ u8 r.cap ++ u8 r.dark ++ listOf (r.members.map u16)

/-- READ-WINDOW's reply (R50): used or unused, and the four fields, whose width an unused entry keeps with zero bytes
(R202; assumption log 9). -/
def windowBytes (e? : Option WindowEntry) : List Byte :=
  opt 6 (e?.map fun e => [e.days.setWidth 8] ++ u16 e.start ++ u16 e.stop ++ [e.modes.setWidth 8])

/-- READ-BLACKOUT's reply (R51): used or unused, start and end, whose width an unused entry keeps with zero bytes (R202;
assumption log 9). -/
def blackoutBytes (e? : Option Blackout) : List Byte := opt 8 (e?.map fun e => u32 e.start ++ u32 e.stop)

/-- A slot in READ-SLOT's reply (R87): the status and every field of R85, whose width a FREE slot keeps with zero bytes
(R202; assumption log 9). -/
def slotBytes : Option Slot → List Byte
  | none => 0 :: List.replicate 47 0
  | some sl =>
    [sl.status.code] ++ u16 sl.luminaire ++ u8 sl.branch ++ [sl.origin.code] ++ sl.origin.place
      ++ u32 sl.origin.runNumber ++ u16 sl.rated ++ u16 sl.normalMin ++ u16 sl.warmMin ++ [sl.bandAtStart.code]
      ++ optTime sl.campusStart ++ optTime sl.elapsedRef ++ optTime sl.supervision ++ optTime sl.endTimer
      ++ u8 sl.missedPolls ++ opt 2 (sl.nodeElapsed.map u16) ++ opt 2 (sl.lowest.map u16)
      ++ optByte (sl.outcome.map TestOutcome.code) ++ u8 sl.stopAttempts

/-- The luminaire a channel would present now, without re-examining its entry (R143). -/
def currentCandidate (ch : Channel) : Option Nat :=
  if ch.state = .running ∧ ch.takenUp then
    match (ch.entries[ch.cursor]?).map Entry.kind with
    | some (.test n) => some n
    | some (.groupTest _) => ch.snapshot[ch.member]?
    | _ => none
  else none

/-- CAMPAIGN-STATUS's reply: every field of R119 in its order, then the current candidate (R143). That the finish watch, a set
of entry indices, is sent as a list, ascending, is the model's choice (assumption log 8). -/
def channelBytes (ch : Channel) : List Byte :=
  [ch.state.code] ++ u8 ch.entries.length ++ u8 ch.cursor ++ flag ch.takenUp ++ u8 ch.member
    ++ listOf (ch.snapshot.map u16) ++ opt 1 (ch.stopPosition.map u8) ++ flag ch.atPosition
    ++ listOf (ch.finishWatch.map u8) ++ flag ch.restartQueued ++ flag ch.restartBypass ++ flag ch.bypass ++ u32 ch.run
    ++ listOf (ch.inFlight.map fun p => u8 p.1 ++ u8 p.2) ++ u8 ch.inFlight.length ++ u8 ch.skipped ++ u8 ch.unstarted
    ++ opt 3 (ch.haltReason.map HaltReason.bytes) ++ opt 1 (ch.heldEntry.map u8) ++ opt 2 ((currentCandidate ch).map u16)

/-- STATUS's reply: the list of R198 and nothing beyond it (assumption log 45). -/
def statusBytes (s : State) : List Byte :=
  [s.sched.code, s.resumeTo.code, s.quality.code] ++ optTime (knownTime s) ++ [s.mode.code]
    ++ optByte (s.staged.map Mode.code) ++ flag s.emgKept ++ u8 (occupied s) ++ u8 s.results.length
    ++ u8 s.outbox.length ++ flag s.noticesLost ++ [s.storeState.code] ++ s.branches.toList.map fun br => br.state.code

/-- BRANCH-STATUS's reply (R177). -/
def branchBytes (s : State) (b : Fin 8) : List Byte :=
  let br := s.branches[b]
  [br.state.code] ++ u8 br.queue.length ++ u8 (br.queue.filter fun e => e.kind == .stop).length
    ++ opt 4 (br.inFlight.map fun f => [f.exchange.kind.code] ++ u16 f.exchange.node ++ u8 f.sends)
    ++ u8 (occupiedOn s b) ++ u8 (unreservedFree s b) ++ u8 s.params.concurrency[b] ++ u8 br.chatter
    ++ flag s.params.autoDisable[b]

/-- A count byte and the records: TAKE-RESULTS and TAKE-NOTICES; an empty body where there is none (R182, R189). -/
def recordsBody (records : List (List Byte)) : List Byte := if records.isEmpty then [] else listOf records

/-! ### Lines -/

/-- The bytes on LINK-TX for a reply (R202). -/
def Reply.frame (r : Reply) : List Byte :=
  let inner := BitVec.ofNat 8 r.body.length :: flag r.refused ++ r.tag :: r.body
  0x5A :: inner ++ bytes2 (crc16 inner)

/-- The bytes on BRn-TX for a send of an exchange (R203). -/
def Exchange.frame (e : Exchange) : List Byte :=
  let inner := bytes2 (BitVec.ofNat 16 e.node) ++ [e.frameKind, BitVec.ofNat 8 e.body.length] ++ e.body
  0x96 :: inner ++ bytes2 (crc16 inner)

/-- A node's answer: address, frame kind, body. -/
structure NodeFrame where
  node : Nat
  kind : Byte
  body : List Byte
deriving DecidableEq, Repr

/-- The well-formed answer frame that bytes spell: start byte 69h, a body length of 0 to 32 that matches, a correct CRC
(R203). -/
def nodeFrameOf : List Byte → Option NodeFrame
  | 0x69 :: a1 :: a0 :: kind :: len :: rest =>
    let body := rest.take len.toNat
    if len.toNat ≤ 32 ∧ rest.length = len.toNat + 2
        ∧ rest.drop len.toNat = bytes2 (crc16 (a1 :: a0 :: kind :: len :: body)) then
      some ⟨be2 a1 a0, kind, body⟩
    else none
  | _ => none

/-- The node state record an answer frame carries, with its start code when it is a start answer (R203). -/
def NodeFrame.record (f : NodeFrame) : Option (NodeRecord × Option StartCode) :=
  match f.kind, f.body with
  | 0x81, body => (nodeRecordOf body).map fun r => (r, none)
  | 0x82, code :: body =>
    match startCodeOf code, nodeRecordOf body with
    | some c, some r => some (r, some c)
    | _, _ => none
  | _, _ => none

/-- The answer suits the exchange: right node, right form (R163, R203). -/
def NodeFrame.suits (f : NodeFrame) (e : Exchange) : Bool :=
  f.node == e.node &&
    match e.kind with
    | .direct => true
    | .start => f.kind == 0x82 && f.record.isSome
    | _ => f.kind == 0x81 && f.record.isSome

end Sys2Proof.Machine
end

