-- ==== Sys2Proof/Machine/Calendar.lean ====
section
/-! DEFINITION. The calendar: coverage, open intervals and blackouts, window events, modes, the arrivals that SET-TIME and
RESTART take, and the calendar's requests (03_campus_time_and_the_test_calendar.md). -/

namespace Sys2Proof.Machine

/-! ### Coverage -/

/-- The weekday of a campus time: 0 Monday to 6 Sunday (R48). -/
def weekday (t : Nat) : Nat := (t / daySeconds + 5) % 7

/-- The second of day of a campus time (R48). -/
def secondOfDay (t : Nat) : Nat := t % daySeconds

/-- A used entry covers an instant (R49). The part of an entry that runs past midnight belongs to the day before. -/
def WindowEntry.covers (e : WindowEntry) (t : Nat) : Bool :=
  let started := e.days.getLsbD (weekday t) && e.start * 60 ≤ secondOfDay t
  if e.start < e.stop then started && secondOfDay t < e.stop * 60
  else started || (e.days.getLsbD ((weekday t + 6) % 7) && secondOfDay t < e.stop * 60)

/-- An entry is enabled while the mode is in its mode set (R49). -/
def WindowEntry.enabled (e : WindowEntry) (m : Mode) : Bool := e.modes.getLsbD m.index

/-- Some enabled entry covers the instant (R52). -/
def coveredAt (s : State) (t : Nat) : Bool := s.windows.any fun p => p.2.enabled s.mode && p.2.covers t

/-- A blackout is in force at the instant (R51). -/
def blackoutAt (s : State) (t : Nat) : Bool := s.blackouts.any fun p => p.2.start ≤ t && t < p.2.stop

/-- The window is open at present (R52). -/
def openNow (s : State) : Bool :=
  decide (s.quality ≠ .unset) && coveredAt s s.campus && !blackoutAt s s.campus

/-- The least of a list. -/
def least : List Nat → Option Nat
  | [] => none
  | n :: rest => some ((least rest).elim n (min n))

/-- Blackout starts that lie after an instant. -/
def laterBlackouts (s : State) (t : Nat) : List Nat :=
  (s.blackouts.map fun p => p.2.start).filter fun b => t < b

/-- Ends of window entries on the days around an instant: coverage, which repeats every week, can break at no other. -/
def entryEnds (s : State) (t : Nat) : List Nat :=
  s.windows.flatMap fun p => (List.range 9).map fun j => (t / daySeconds + j) * daySeconds + p.2.stop * 60

/-- The first instant after `t` at which no enabled entry covers, if coverage breaks at all (R52). -/
def coverageEnd (s : State) (t : Nat) : Option Nat :=
  least ((entryEnds s t).filter fun e => t < e && !coveredAt s e)

/-- The open interval's end: the first instant after the present one at which coverage breaks or a blackout begins; none:
unbounded (R52). -/
def openIntervalEnd (s : State) : Option Nat :=
  least ((coverageEnd s s.campus).toList ++ laterBlackouts s s.campus)

/-- The next blackout start: the present instant if one is in force; none: none lies ahead (R53). -/
def nextBlackout (s : State) : Option Nat :=
  if blackoutAt s s.campus then some s.campus else least (laterBlackouts s s.campus)

/-! ### Window events and modes -/

/-- The window state is compared with the calendar; a window-open event raises its notice and is a trigger, a window-close
event raises its notice (R54). -/
def windowEvent (s : State) : State :=
  if openNow s = s.windowOpen then s
  else if openNow s then triggerPass (raise (.windowOpen s.mode (openIntervalEnd s)) { s with windowOpen := true })
  else raise (.windowClose s.mode) { s with windowOpen := false }

/-- A mode takes effect (R57). -/
def modeTakesEffect (m : Mode) (wasStaged : Bool) (s : State) : State :=
  if m = s.mode then s
  else
    windowEvent (triggerPass (raise (.modeChanged s.mode m wasStaged) (writeItem .mode { s with mode := m })))

/-- The window state is evaluated afresh; a window-close event puts a staged mode into effect (R54, R57). -/
def evaluateWindow (s : State) : State :=
  let t := windowEvent s
  match s.windowOpen && !t.windowOpen, t.staged with
  | true, some m => modeTakesEffect m true { t with staged := none }
  | _, _ => t

/-! ### Arrivals -/

/-- The luminaire's hold-off until arrives (R64). -/
def holdOffArrives (n : Nat) (s : State) : State :=
  match s.luminaires.get n with
  | some l =>
    if s.quality ≠ .unset ∧ (l.holdOff.any fun t => t ≤ s.campus) then
      triggerPass (writeItem (.luminaire n) (putLum n (some { l with holdOff := none }) s))
    else s
  | none => s

/-- A recharge until is a time that campus time has reached. -/
def Recharge.reached (r : Recharge) (s : State) : Bool :=
  match r with
  | .until t => t ≤ s.campus
  | .pending => false

/-- The luminaire's recharge until arrives: IDLE or DUE by its due time, and an overdue threshold already reached raises
its notice (R114), after the record's own write (the model's choice, assumption log 26). -/
def rechargeArrives (n : Nat) (s : State) : State :=
  match s.luminaires.get n with
  | some l =>
    if s.quality ≠ .unset ∧ l.state = .recharging ∧ (l.recharge.any fun r => r.reached s) then
      let l' := { l.enter (waitState s l.due) with recharge := none }
      checkOverdue n (triggerPass (writeItem (.luminaire n) (putLum n (some l') s)))
    else s
  | none => s

/-- The IDLE luminaire's due time arrives: it becomes DUE (R61). -/
def dueArrives (n : Nat) (s : State) : State :=
  match s.luminaires.get n with
  | some l =>
    if l.state = .idle ∧ waitState s l.due = .due then putLum n (some (l.enter .due)) s else s
  | none => s

/-- Every stored instant of a luminaire that campus time has reached arrives (R42). -/
def instantsArrive (n : Nat) (s : State) : State :=
  checkOverdue n (dueArrives n (rechargeArrives n (holdOffArrives n s)))

/-- Every luminaire's reached instants arrive, in ascending number (R42, R45, R211). -/
def allInstantsArrive (s : State) : State := s.luminaires.keys.foldl (fun t n => instantsArrive n t) s

/-- A pending recharge until becomes campus time plus the recharge period (R44, R45, R211). -/
def resolvePending (n : Nat) (s : State) : State :=
  match s.luminaires.get n with
  | some l =>
    if l.recharge = some .pending then
      writeItem (.luminaire n) (putLum n (some { l with recharge := some (rechargeFromNow s) }) s)
    else s
  | none => s

/-- Every pending recharge until is resolved (R45, R211), luminaires in ascending number (the model's choice, assumption
log 3). -/
def resolveAllPending (s : State) : State := s.luminaires.keys.foldl (fun t n => resolvePending n t) s

/-! ### Events of the calendar -/

/-- The staleness timer expires (R47). -/
def stalenessExpires (s : State) : State :=
  if s.staleness = some 0 then raise .timeStale { s with quality := .stale, staleness := none } else s

/-- A boundary of window entry `e` is the present instant (R42, R54). -/
def windowBoundaryNow (s : State) (e : Nat) : Bool :=
  decide (s.quality ≠ .unset) &&
    (s.windows.get e).any fun w => secondOfDay s.campus == w.start * 60 || secondOfDay s.campus == w.stop * 60

/-- A boundary of blackout entry `e` is the present instant (R42, R54). -/
def blackoutBoundaryNow (s : State) (e : Nat) : Bool :=
  decide (s.quality ≠ .unset) && (s.blackouts.get e).any fun b => s.campus == b.start || s.campus == b.stop

/-- A start or end of a window entry arrives (R54). -/
def windowBoundaryArrives (e : Nat) (s : State) : State :=
  if windowBoundaryNow s e then evaluateWindow s else s

/-- A start or end of a blackout arrives (R54). -/
def blackoutBoundaryArrives (e : Nat) (s : State) : State :=
  if blackoutBoundaryNow s e then evaluateWindow s else s

/-! ### Requests -/

/-- Campus time becomes `t` and time quality SET; the staleness timer restarts (R45); a step of trusted time by more than
900 s raises TIME-STEP (R46). That it is the first notice of its SET-TIME and is stamped with the new time is the model's
choice (assumption log 26). -/
def clockSet (t : Nat) (s : State) : State :=
  let s' := { s with campus := t, quality := .set, staleness := some stalenessSeconds }
  if s.quality ≠ .unset ∧ (s.campus + 900 < t ∨ t + 900 < s.campus) then raise (.timeStep s.campus t) s' else s'

/-- SET-TIME (R45). It never meets a store fault (assumption log 14). -/
def setTime (body : List Byte) (s : State) : State × Answer :=
  match body with
  | [a, b, c, d] =>
    let s1 := clockSet (be4 a b c d) s
    let s2 := if s.quality = .unset then resolveAllPending s1 else s1
    let s3 := triggerIf (decide (s.quality ≠ .set)) (evaluateWindow (allInstantsArrive s2))
    ({ s3 with writeFailed := false }, .done (optTime (knownTime s) ++ [s.quality.code]))
  | _ => (s, .refused .badLength)

/-- SET-WINDOW (R50). -/
def setWindow (body : List Byte) (s : State) : State × Answer :=
  match body with
  | [i, days, a1, a0, b1, b0, modes] =>
    if 32 ≤ i.toNat ∨ days = 0 ∨ 128 ≤ days.toNat ∨ 1440 ≤ be2 a1 a0 ∨ 1440 ≤ be2 b1 b0 ∨ modes = 0 ∨ 8 ≤ modes.toNat
    then (s, .refused .outOfRange)
    else
      let e : WindowEntry := ⟨days.setWidth 7, be2 a1 a0, be2 b1 b0, modes.setWidth 3⟩
      (evaluateWindow (writeItem (.window i.toNat) { s with windows := s.windows.put i.toNat e }), .done [])
  | _ => (s, .refused .badLength)

/-- CLEAR-WINDOW (R50). -/
def clearWindow (body : List Byte) (s : State) : State × Answer :=
  match body with
  | [i] =>
    if 32 ≤ i.toNat then (s, .refused .outOfRange)
    else if s.windows.has i.toNat then
      (evaluateWindow (writeItem (.window i.toNat) { s with windows := s.windows.drop i.toNat }), .done [])
    else (s, .done [])
  | _ => (s, .refused .badLength)

/-- READ-WINDOW (R50). -/
def readWindow (body : List Byte) (s : State) : State × Answer :=
  match body with
  | [i] => if 32 ≤ i.toNat then (s, .refused .outOfRange) else (s, .done (windowBytes (s.windows.get i.toNat)))
  | _ => (s, .refused .badLength)

/-- SET-BLACKOUT (R51). -/
def setBlackout (body : List Byte) (s : State) : State × Answer :=
  match body with
  | [i, a3, a2, a1, a0, b3, b2, b1, b0] =>
    if 24 ≤ i.toNat ∨ be4 b3 b2 b1 b0 ≤ be4 a3 a2 a1 a0 then (s, .refused .outOfRange)
    else
      let e : Blackout := ⟨be4 a3 a2 a1 a0, be4 b3 b2 b1 b0⟩
      (evaluateWindow (writeItem (.blackout i.toNat) { s with blackouts := s.blackouts.put i.toNat e }), .done [])
  | _ => (s, .refused .badLength)

/-- CLEAR-BLACKOUT (R51). -/
def clearBlackout (body : List Byte) (s : State) : State × Answer :=
  match body with
  | [i] =>
    if 24 ≤ i.toNat then (s, .refused .outOfRange)
    else if s.blackouts.has i.toNat then
      (evaluateWindow (writeItem (.blackout i.toNat) { s with blackouts := s.blackouts.drop i.toNat }), .done [])
    else (s, .done [])
  | _ => (s, .refused .badLength)

/-- READ-BLACKOUT (R51). -/
def readBlackout (body : List Byte) (s : State) : State × Answer :=
  match body with
  | [i] => if 24 ≤ i.toNat then (s, .refused .outOfRange) else (s, .done (blackoutBytes (s.blackouts.get i.toNat)))
  | _ => (s, .refused .badLength)

/-- The reply of SET-MODE: the current and the staged mode (R56). -/
def modeReply (s : State) : Answer := .done ([s.mode.code] ++ optByte (s.staged.map Mode.code))

/-- SET-MODE (R56). A mode that takes effect at once clears the staged mode first, so that a window-close event of its own
finds none; R56 does not say which comes first (the model's choice, assumption log 47). -/
def setMode (body : List Byte) (s : State) : State × Answer :=
  match body with
  | [code] =>
    match modeOf code with
    | none => (s, .refused .outOfRange)
    | some m =>
      let t :=
        if m = s.mode then { s with staged := none }
        else if s.sched = .active ∧ openNow s then { s with staged := some m }
        else modeTakesEffect m false { s with staged := none }
      (t, modeReply t)
  | _ => (s, .refused .badLength)

/-- The reply of READ-CALENDAR (R58; encoding: assumption log 30). -/
def calendarBytes (s : State) : List Byte :=
  u32 s.campus ++ [s.quality.code] ++ flag (openNow s)
    ++ optTime (if openNow s then openIntervalEnd s else none) ++ flag (blackoutAt s s.campus)
    ++ optTime (nextBlackout s) ++ [s.mode.code] ++ optByte (s.staged.map Mode.code) ++ optTime s.staleness

/-- READ-CALENDAR (R58). -/
def readCalendar (body : List Byte) (s : State) : State × Answer :=
  match body with
  | [] => (s, .done (calendarBytes s))
  | _ => (s, .refused .badLength)

end Sys2Proof.Machine
end

