-- ==== Sys2Proof/Machine/Campaign.lean ====
section
/-! DEFINITION. Campaigns: taking up entries, presenting candidates, reservations, releases, the end of a list, and the
campaign requests but for CAMPAIGN-STOP (06_campaigns.md). -/

namespace Sys2Proof.Machine

/-! ### The context -/

/-- The entry at the cursor. -/
def Channel.current (ch : Channel) : Option Entry := ch.entries[ch.cursor]?

/-- The in-flight list holds a test of entry `e` (R133). -/
def Channel.holdsTestOf (ch : Channel) (e : Nat) : Bool := ch.inFlight.any fun p => p.2 == e

/-- A count that rises to 255 and stays there (R119). -/
def saturate (n : Nat) : Nat := min n 255

/-- The context at entry 0 with counts cleared (R124). -/
def Channel.started (ch : Channel) (bypass : Bool) : Channel :=
  { ch with
    state := .running, bypass := bypass, cursor := 0, member := 0, takenUp := false, atPosition := false
    skipped := 0, unstarted := 0, haltReason := none, heldEntry := none, finishWatch := [], restartQueued := false }

/-! ### The finish watch, the end of a list -/

/-- POSITION-FINISHED is raised for each watched entry that has no test in flight, and its watch ends (R135). -/
def checkWatch (c : Fin 4) (s : State) : State :=
  let ch := s.channels[c]
  let ended := ch.finishWatch.filter fun e => !ch.holdsTestOf e
  ended.foldl (fun t e => raise (.positionFinished c e) t)
    (modChan c (fun ch => { ch with finishWatch := ch.finishWatch.filter ch.holdsTestOf }) s)

/-- The campaign goes DONE; a queued restart is taken (R137). The restarted list's first entry is still to be taken up, so
RESTARTED comes before any notice of that take-up (the model's choice, assumption log 26). -/
def campaignDone (c : Fin 4) (s : State) : State :=
  let ch := s.channels[c]
  let t := raise (.done c ch.run ch.skipped ch.unstarted) (modChan c (fun ch => { ch with state := .done }) s)
  if ch.restartQueued then
    triggerPass (raise (.restarted c ch.run) (modChan c (fun ch => ch.started ch.restartBypass) t))
  else t

/-- A DRAINING campaign with an empty in-flight list goes DONE (R136, R137). -/
def drainedDone (c : Fin 4) (s : State) : State :=
  let ch := s.channels[c]
  if ch.state = .draining ∧ ch.inFlight = [] then campaignDone c s else s

/-- The end of the list is reached: entry `last` ended it, and the cursor goes to `cursor` (R137). -/
def endOfList (c : Fin 4) (last cursor : Nat) (s : State) : State :=
  drainedDone c (checkWatch c (modChan c (fun ch =>
    { ch with
      state := .draining, cursor := cursor, takenUp := false, atPosition := false
      finishWatch := if ch.atPosition then insertNumber last ch.finishWatch else ch.finishWatch }) s))

/-! ### Drawing an entry -/

/-- The entry at the cursor has finished drawing: the end of the list, PAUSED, HELD, or on to the next entry, which is
still to be taken up (R133). -/
def finishEntry (c : Fin 4) (s : State) : State :=
  let ch := s.channels[c]
  let e := ch.cursor
  let lastFlag := ch.current.any Entry.last
  if lastFlag ∨ 63 ≤ e ∨ ch.entries.length ≤ e + 1 then endOfList c e (e + 1) s
  else
    let holds := ch.current.any Entry.hold && ch.holdsTestOf e
    let next := { ch with cursor := e + 1, takenUp := false }
    if ch.atPosition then
      checkWatch c (modChan c (fun _ =>
        { next with
          state := .paused, atPosition := false, finishWatch := insertNumber e ch.finishWatch
          heldEntry := if holds then some e else ch.heldEntry }) s)
    else if holds then modChan c (fun _ => { next with state := .held, heldEntry := some e }) s
    else modChan c (fun _ => next) s

/-- The campaign halts on its current entry (R140). -/
def halt (c : Fin 4) (r : HaltReason) (s : State) : State :=
  raise (.halted c s.channels[c].cursor r) (modChan c (fun ch =>
    { ch with state := .halted, haltReason := some r, takenUp := false, atPosition := false }) s)

/-- A GROUP-TEST skips this member: its position is unused, or it is OUT-OF-SERVICE (R129). -/
def skips (s : State) (n : Nat) : Bool := !((s.luminaires.get n).any fun l => l.state != .outOfService)

/-- The GROUP-TEST at the cursor reaches its next member, skipping as R129 lays down; past the last it has finished
drawing. -/
def reachMember (c : Fin 4) (s : State) : State :=
  let ch := s.channels[c]
  let k := ((ch.snapshot.drop ch.member).takeWhile (skips s)).length
  let t := modChan c (fun ch => { ch with member := ch.member + k, skipped := saturate (ch.skipped + k) }) s
  if ch.snapshot.length ≤ ch.member + k then finishEntry c t else t

/-- A TEST entry examines its luminaire (R127). -/
def examineTest (c : Fin 4) (n : Nat) (s : State) : State :=
  match s.luminaires.get n with
  | none => halt c (.luminaireMissing n) s
  | some l => if l.state = .outOfService then halt c (.luminaireOutOfService n) s else s

/-- The entry at the cursor becomes taken up, POSITION-REACHED first if it is the stop position (R126). -/
def markTakenUp (c : Fin 4) (s : State) : State :=
  let ch := s.channels[c]
  let reached := ch.stopPosition = some ch.cursor
  let t := modChan c (fun ch => { ch with takenUp := true, atPosition := ch.atPosition || decide reached }) s
  if reached then raise (.positionReached c ch.cursor) t else t

/-- One entry is taken up (R126 to R130). -/
def takeUpOne (c : Fin 4) (s : State) : State :=
  let ch := s.channels[c]
  match ch.current with
  | none => endOfList c ch.cursor ch.entries.length s
  | some e =>
    let t := markTakenUp c s
    match e.kind with
    | .test n => examineTest c n t
    | .groupTest g =>
      match t.groups.get g with
      | none => halt c (.groupUndefined g) t
      | some r => reachMember c (modChan c (fun ch => { ch with snapshot := r.members, member := 0 }) t)
    | .mark => finishEntry c (raise (.markReached c ch.cursor) t)

/-- While the campaign is RUNNING with its entry not taken up, entries are taken up (R126). One run of the list takes up at
most 65, and a restart can follow once. -/
def takeUpAll : Nat → Fin 4 → State → State
  | 0, _, s => s
  | fuel + 1, c, s =>
    if s.channels[c].state = .running ∧ s.channels[c].takenUp = false then takeUpAll fuel c (takeUpOne c s) else s

/-- Taking up, as far as it goes. -/
def takeUp (c : Fin 4) (s : State) : State := takeUpAll 140 c s

/-! ### Between the campaign and placement -/

/-- The campaign re-examines its current entry (R127, R129, R131). -/
def reexamine (c : Fin 4) (s : State) : State :=
  let ch := s.channels[c]
  if ch.state = .running ∧ ch.takenUp then
    match ch.current.map Entry.kind with
    | some (.test n) => examineTest c n s
    | some (.groupTest _) => takeUp c (reachMember c s)
    | _ => s
  else s

/-- The campaign presents its candidate or none; one that the examination carried past its last entry presents none, even
where a queued restart was taken (R131; assumption log 27). -/
def present (c : Fin 4) (s : State) : State × Option Nat :=
  let t := reexamine c s
  let restarted := s.channels[c].restartQueued && !t.channels[c].restartQueued
  (t, if restarted then none else currentCandidate t.channels[c])

/-- The placement unit reports a reservation in slot `k` (R132). -/
def campaignReserved (c : Fin 4) (k : Nat) (s : State) : State :=
  let ch := s.channels[c]
  let t := modChan c (fun ch => { ch with inFlight := ch.inFlight ++ [(k, ch.cursor)] }) s
  match ch.current.map Entry.kind with
  | some (.groupTest _) => takeUp c (reachMember c (modChan c (fun ch => { ch with member := ch.member + 1 }) t))
  | _ => takeUp c (finishEntry c t)

/-- The hold ends when no test of the held entry remains: a HELD campaign returns to RUNNING (R134, R136). -/
def endHold (c : Fin 4) (s : State) : State :=
  let ch := s.channels[c]
  match ch.heldEntry with
  | none => s
  | some e =>
    if ch.holdsTestOf e then s
    else if ch.state = .held then
      takeUp c (triggerPass (raise (.holdReleased c e)
        (modChan c (fun ch => { ch with state := .running, heldEntry := none }) s)))
    else modChan c (fun ch => { ch with heldEntry := none }) s

/-- The placement unit reports the release of slot `k`, with or without a result (R136). -/
def campaignReleased (c : Fin 4) (k : Nat) (hasResult : Bool) (s : State) : State :=
  if s.channels[c].inFlight.any fun p => p.1 == k then
    let t := modChan c (fun ch =>
      { ch with
        inFlight := ch.inFlight.filter fun p => p.1 != k
        unstarted := if hasResult then ch.unstarted else saturate (ch.unstarted + 1) }) s
    takeUp c (drainedDone c (checkWatch c (endHold c t)))
  else s

/-- The campaign of an origin, if any, is told of the release of slot `k` (R82). -/
def tellReleased (o : Origin) (k : Nat) (hasResult : Bool) (s : State) : State :=
  match o with
  | .campaign c _ _ => campaignReleased c k hasResult s
  | _ => s

/-! ### Requests -/

/-- A channel number within range (R122). -/
def channelOf (b : Byte) : Option (Fin 4) := if h : b.toNat < 4 then some ⟨b.toNat, h⟩ else none

/-- CAMPAIGN-LOAD's body: the channel, the new-list flag, the count, the entries' bytes; none where its length is wrong. -/
def loadBody : List Byte → Option (Byte × Byte × Nat × List (Byte × Nat × Byte))
  | c :: new :: count :: rest =>
    if rest.length = 4 * count.toNat then some (c, new, count.toNat, entryBytes rest) else none
  | _ => none

/-- The context after a load of `entries` (R123). -/
def Channel.loaded (ch : Channel) (entries : List Entry) : Channel :=
  { ch with
    entries := entries, state := .loaded, cursor := 0, member := 0, takenUp := false, atPosition := false, snapshot := []
    finishWatch := [], haltReason := none, heldEntry := none, skipped := 0, unstarted := 0 }

/-- CAMPAIGN-LOAD (R123). -/
def campaignLoad (body : List Byte) (s : State) : State × Answer :=
  match loadBody body with
  | none => (s, .refused .badLength)
  | some (cb, newb, count, raw) =>
    match channelOf cb, flagOf newb, entriesOf raw with
    | some c, some new, some chunk =>
      let ch := s.channels[c]
      let entries := if new then chunk else ch.entries ++ chunk
      if 32 < count then (s, .refused .outOfRange)
      else if ch.state ≠ .empty ∧ ch.state ≠ .loaded ∧ ch.state ≠ .done then (s, .refused .state)
      else if 64 < entries.length then (s, .refused .full)
      else (modChan c (fun ch => ch.loaded entries) s, .done (u8 entries.length))
    | _, _, _ => (s, .refused .outOfRange)

/-- The reply of CAMPAIGN-START: the state and restart queued (R125; in LOADED and DONE: assumption log 17). -/
def startReply (c : Fin 4) (s : State) : Answer :=
  .done ([s.channels[c].state.code] ++ flag s.channels[c].restartQueued)

/-- CAMPAIGN-START (R124, R125). -/
def campaignStart (body : List Byte) (s : State) : State × Answer :=
  match body with
  | [cb, fb] =>
    match channelOf cb, flagOf fb with
    | some c, some bypass =>
      match s.channels[c].state with
      | .empty | .halted => (s, .refused .state)
      | .loaded | .done =>
        let t := takeUp c (triggerPass (modChan c (fun ch => ch.started bypass) s))
        (t, startReply c t)
      | _ =>
        let t := modChan c (fun ch => { ch with restartQueued := true, restartBypass := bypass }) s
        (t, startReply c t)
    | _, _ => (s, .refused .outOfRange)
  | _ => (s, .refused .badLength)

/-- CAMPAIGN-PAUSE (R138). From HELD it is a placement trigger: the campaign leaves HELD (R66, assumption log 42). -/
def campaignPause (body : List Byte) (s : State) : State × Answer :=
  match body with
  | [cb] =>
    match channelOf cb with
    | some c =>
      match s.channels[c].state with
      | .running => (modChan c (fun ch => { ch with state := .paused }) s, .done [])
      | .held => (triggerPass (modChan c (fun ch => { ch with state := .paused }) s), .done [])
      | .paused => (s, .done [])
      | _ => (s, .refused .state)
    | none => (s, .refused .outOfRange)
  | _ => (s, .refused .badLength)

/-- The campaign goes RUNNING with the cursor at entry `e`, which is then taken up (R139, R140). That the member cursor
becomes 0 is R139's for PAUSED and the model's choice for HALTED (assumption log 44). -/
def resumeAt (c : Fin 4) (e : Nat) (s : State) : State :=
  takeUp c (triggerPass (modChan c (fun ch =>
    { ch with
      state := .running, haltReason := none, heldEntry := none, atPosition := false, cursor := e, member := 0
      takenUp := false }) s))

/-- A PAUSED campaign resumed without an index goes HELD or RUNNING (R139). -/
def resumePaused (c : Fin 4) (s : State) : State :=
  if s.channels[c].heldEntry.isSome then modChan c (fun ch => { ch with state := .held }) s
  else takeUp c (triggerPass (modChan c (fun ch => { ch with state := .running }) s))

/-- A HALTED campaign resumed without an index takes up the halted entry again, or with the skip flag the one after it
(R140). The rule does not name the member cursor: with the skip flag it becomes 0, else it is kept (the model's choice,
assumption log 44). -/
def resumeHalted (c : Fin 4) (skip : Bool) (s : State) : State :=
  takeUp c (triggerPass (modChan c (fun ch =>
    { ch with
      state := .running, haltReason := none, takenUp := false
      cursor := if skip then ch.cursor + 1 else ch.cursor
      member := if skip then 0 else ch.member }) s))

/-- CAMPAIGN-RESUME (R139, R140). An index above 63, or an index together with the skip flag, is out of range in every
state, before the state is looked at (R122). -/
def campaignResume (body : List Byte) (s : State) : State × Answer :=
  match body with
  | [cb, pb, ib, kb] =>
    match channelOf cb, optOf pb ib.toNat, flagOf kb with
    | some c, some index, some skip =>
      if index.any fun i => decide (63 < i) || skip then (s, .refused .outOfRange)
      else
        match s.channels[c].state, index with
        | .paused, none => if skip then (s, .refused .state) else (resumePaused c s, .done [])
        | .halted, none => (resumeHalted c skip s, .done [])
        | .paused, some i | .halted, some i => (resumeAt c i s, .done [])
        | _, _ => (s, .refused .state)
    | _, _, _ => (s, .refused .outOfRange)
  | _ => (s, .refused .badLength)

/-- The stop position is replaced; at position is decided again, and the entry being drawn may be reached now (R135). -/
def stopPositionSet (c : Fin 4) (p : Option Nat) (s : State) : State :=
  let ch := s.channels[c]
  let here := p = some ch.cursor
  let reached := (ch.state = .running ∨ ch.state = .paused) ∧ ch.takenUp = true ∧ ch.atPosition = false ∧ here
  let t := modChan c (fun ch =>
    { ch with stopPosition := p, atPosition := (ch.atPosition && decide here) || decide reached }) s
  if reached then raise (.positionReached c ch.cursor) t else t

/-- SET-STOP-POSITION (R135). -/
def setStopPosition (body : List Byte) (s : State) : State × Answer :=
  match body with
  | [cb, pb, ib] =>
    match channelOf cb, optOf pb ib.toNat with
    | some c, some p => if p.any fun i => 63 < i then (s, .refused .outOfRange) else (stopPositionSet c p s, .done [])
    | _, _ => (s, .refused .outOfRange)
  | _ => (s, .refused .badLength)

/-- CAMPAIGN-STATUS (R143). -/
def campaignStatus (body : List Byte) (s : State) : State × Answer :=
  match body with
  | [cb] =>
    match channelOf cb with
    | some c => (s, .done (channelBytes s.channels[c]))
    | none => (s, .refused .outOfRange)
  | _ => (s, .refused .badLength)

end Sys2Proof.Machine
end

