-- ==== Sys2Proof/Machine/Slots.lean ====
section
/-! DEFINITION. The active test table: recalls, supervision, judgement, releases with and without a result, the stray rule,
READ-SLOT, STOP-TEST and CAMPAIGN-STOP (05_test_supervision_and_outcomes.md, R141, R142). -/

namespace Sys2Proof.Machine

/-! ### Outcomes -/

/-- The outcome a recall reason fixes (R105). -/
def RecallReason.outcome : RecallReason → TestOutcome
  | .emergency => .interrupted
  | .thermal => .abortedThermal
  | _ => .cancelled

/-- Elapsed minutes from the elapsed reference to now, in whole minutes (R104); past 65,535 the spec states no result
(assumption log 13). -/
def elapsedNow (s : State) (sl : Slot) : Nat :=
  let m := (s.ownCount - sl.elapsedRef.getD s.ownCount) / 60
  if m < 65536 then m else (Config.elapsedOverflow m).toNat

/-- An outcome is fixed, with its elapsed minutes; one fixed already stands (R104, R109). -/
def Slot.fix (sl : Slot) (o : TestOutcome) (minutes : Nat) : Slot :=
  if sl.outcome.isSome then sl else { sl with outcome := some o, elapsedMinutes := some minutes }

/-- The end minimum for a band (R103). -/
def Slot.endMinimum (sl : Slot) : Band → Nat
  | .warm | .hot => sl.warmMin
  | _ => sl.normalMin

/-- Lowest voltage seen after a reading (R94, R98). -/
def Slot.see (sl : Slot) (mv : Nat) : Slot := { sl with lowest := some ((sl.lowest.map fun v => min v mv).getD mv) }

/-- The outcome a STOP answer judges (R102). -/
def judge (lamp : Bool) (atOrAbove : Bool) : TestOutcome :=
  match lamp, atOrAbove with
  | true, true => .pass
  | true, false => .failVoltage
  | false, true => .failLamp
  | false, false => .failShort

/-- The band held by a luminaire; UNKNOWN for an unused position. -/
def bandOf (s : State) (n : Nat) : Band := ((s.luminaires.get n).map Luminaire.band).getD .unknown

/-! ### Going CLOSING, recalls -/

/-- A slot's STOP attempt is queued in its reserved place (R95, R100, R101, R106). -/
def queueStop (k : Nat) (sl : Slot) (s : State) : State :=
  match s.luminaires.get sl.luminaire with
  | some l => enqueue sl.branch (stopExchange l.node sl.luminaire (.slot k sl.luminaire) true) s
  | none => s

/-- Slot `k`, whose contents are now `sl`, goes CLOSING: timers stop, a queued READ is removed, the luminaire goes STOPPING,
the first STOP is queued (R95, R100, R106). -/
def close (k : Nat) (sl : Slot) (s : State) : State :=
  let sl' := { sl with status := .closing, supervision := none, endTimer := none, stopAttempts := 1 }
  queueStop k sl'
    (modLum sl.luminaire (fun l => l.enter .stopping)
      (unqueue sl.branch (isReadOf k sl.luminaire) { s with slots := s.slots.put k sl' }))

/-- A recall reaches slot `k` (R106, R107, R108). -/
def recallSlot (r : RecallReason) (k : Nat) (s : State) : State :=
  match s.slots.get k with
  | none => s
  | some sl =>
    match sl.status with
    | .reserved => modLum sl.luminaire (fun l => { l with cancelPending := some (l.cancelPending.getD r) }) s
    | .running => close k (sl.fix r.outcome (elapsedNow s sl)) s
    | .closing => s

/-- A recall reaches the slots of a list, in order. -/
def recallAll (r : RecallReason) (ks : List Nat) (s : State) : State := ks.foldl (fun t k => recallSlot r k t) s

/-! ### Releases -/

/-- Slot `k` becomes FREE; a READ it still has queued is removed (R92, R112). -/
def freeSlot (k : Nat) (sl : Slot) (s : State) : State :=
  unqueue sl.branch (isReadOf k sl.luminaire) { s with slots := s.slots.drop k }

/-- Where a release without a result leaves the luminaire (R92). -/
def Luminaire.releasedWithout (l : Luminaire) (s : State) : Luminaire :=
  { l.enter (if l.outAtRelease then .outOfService else waitState s l.due) with
    openMarker := false, cancelPending := none, outAtRelease := false }

/-- A release without a result (R92). -/
def releaseWithout (k : Nat) (s : State) : State :=
  match s.slots.get k with
  | none => s
  | some sl =>
    let n := sl.luminaire
    let t := modLum n (fun l => l.releasedWithout s) (freeSlot k sl s)
    triggerPass (tellReleased sl.origin k false (checkOverdue n (writeItem (.luminaire n) t)))

/-- A hold-off is set and cancel pending cleared, then a release without a result (R89, R90, R170). -/
def releaseHeldOff (k : Nat) (s : State) : State :=
  match s.slots.get k with
  | none => s
  | some sl => releaseWithout k (modLum sl.luminaire (fun l => { l.withHoldOff s with cancelPending := none }) s)

/-- The due time after an outcome (R111). -/
def dueAfter (s : State) (l : Luminaire) (o : TestOutcome) : Nat :=
  match o with
  | .pass => campusSum s.campus (s.classes[l.cls].period * daySeconds)
  | .failShort | .failVoltage | .failLamp => campusSum s.campus (s.classes[l.cls].retest * daySeconds)
  | _ => l.due

/-- The latch an outcome sets (R21, R111). -/
def TestOutcome.latch : TestOutcome → Option Latch
  | .failShort | .failVoltage => some .durationShort
  | .failLamp => some .lamp
  | _ => none

/-- The outcome sets a new due time (R111). -/
def TestOutcome.moves : TestOutcome → Bool
  | .pass | .failShort | .failVoltage | .failLamp => true
  | _ => false

/-- The latches after an outcome (R111). -/
def latchesAfter (l : Latches) (o : TestOutcome) : Latches :=
  match o, o.latch with
  | .pass, _ => { l with lamp := false, durationShort := false }
  | _, some k => l.put true k
  | _, none => l

/-- The result record of a release (R110); its number is the counter's value (R181). -/
def releaseRecord (s : State) (sl : Slot) (l : Luminaire) (o : TestOutcome) : ResultRecord where
  number := s.resultCounter
  luminaire := sl.luminaire
  branch := l.branch
  node := l.node
  origin := sl.origin
  outcome := o
  startTime := sl.campusStart
  endTime := some s.campus
  elapsed := sl.elapsedMinutes.getD 0
  endVoltage := sl.endVoltage
  bandAtStart := sl.bandAtStart

/-- A result record joins the queue at the tail, the counter rises by one (from 65,535 back to 0), and both are written to
the store at once (R181). -/
def addResult (r : ResultRecord) (s : State) : State :=
  writeItem .results
    (followAttn { s with results := s.results ++ [r], resultCounter := (s.resultCounter + 1) % 65536 })

/-- The luminaire record after a release with outcome `o` (R111, R112, R113). -/
def Luminaire.released (l : Luminaire) (s : State) (sl : Slot) (o : TestOutcome) : Luminaire :=
  let l1 := if l.outAtRelease then { l.enter .outOfService with recharge := none } else l.toRecharging s
  { l1 with
    due := dueAfter s l o, latches := latchesAfter l.latches o
    lastResult := some ⟨o, s.campus, sl.elapsedMinutes.getD 0, sl.endVoltage⟩
    overdueReported := if o.moves then false else l.overdueReported
    watchArmed := if o.moves then true else l.watchArmed
    openMarker := false, cancelPending := none, outAtRelease := false }

/-- FAULT-LATCHED for the latch an outcome newly sets (R111). -/
def raiseOutcomeLatch (n : Nat) (l : Luminaire) (o : TestOutcome) (s : State) : State :=
  match o.latch with
  | some k => if l.latches.has k then s else raise (.faultLatched n k) s
  | none => s

/-- A release with a result: LOST unless an outcome is fixed (R110, R111, R112, R169). The record, the luminaire with its
notice, the slot, the campaign, the trigger, in this order (assumption log 26). -/
def releaseResult (k : Nat) (s : State) : State :=
  match s.slots.get k with
  | none => s
  | some sl0 =>
    let sl := sl0.fix .lost (elapsedNow s sl0)
    let n := sl.luminaire
    let o := sl.outcome.getD .lost
    match s.luminaires.get n with
    | none => freeSlot k sl s
    | some l =>
      let s1 := addResult (releaseRecord s sl l o) s
      let s2 := freeSlot k sl (putLum n (some (l.released s sl o)) s1)
      let s3 := checkOverdue n (raiseOutcomeLatch n l o (writeItem (.luminaire n) s2))
      triggerPass (tellReleased sl.origin k true s3)

/-! ### The stray rule -/

/-- The stray rule acts on luminaire `n` with the record that shows its test running (R116, R117). -/
def stray (n : Nat) (r : NodeRecord) (s : State) : State :=
  match s.luminaires.get n with
  | none => s
  | some l =>
    let s1 := if strayStopWaits s n then s else offer l.branch (stopExchange l.node n .stray false) s
    let s2 := writeItem (.luminaire n) (putLum n (some (l.toRecharging s)) s1)
    let s3 := raise (.strayTest n l.branch l.node l.state r.elapsed) s2
    if l.state = .recharging then s3 else checkOverdue n s3

/-! ### The ends of a slot's exchanges -/

/-- A START answered ACCEPTED (R88). A recall made at once by cancel pending or a HOT band fixes CANCELLED or HOT, and the end
voltage stays absent until a later answer comes: this answer's voltage is not taken for it (the model's choice within R104,
assumption log 52). -/
def startAccepted (k : Nat) (sl : Slot) (r : NodeRecord) (s : State) : State :=
  let sl' := { sl with
    status := .running, campusStart := some s.campus, elapsedRef := some s.ownCount
    supervision := some s.params.supervisionInterval, endTimer := some (sl.rated * 60)
    nodeElapsed := some 0, lowest := some r.millivolts }
  let n := sl.luminaire
  match s.luminaires.get n with
  | none => s
  | some l =>
    let l' := { l.enter .testing with watchArmed := false, cancelPending := none }
    let t := writeItem (.luminaire n) (putLum n (some l') { s with slots := s.slots.put k sl' })
    match l.cancelPending with
    | some reason => recallSlot reason k t
    | none => if l.band = .hot then recallSlot .thermal k t else t

/-- A START answer reaches a RESERVED slot (R88, R89, R91). After ALREADY-TESTING the stray rule acts on the luminaire as the
release has left it, so STRAY-TEST's state found is IDLE, DUE or OUT-OF-SERVICE (the model's choice, assumption log 43). -/
def startAnswered (k : Nat) (sl : Slot) (r : NodeRecord) (code : StartCode) (s : State) : State :=
  match code with
  | .accepted => startAccepted k sl r s
  | .alreadyTesting => stray sl.luminaire r (releaseWithout k s)
  | _ => releaseHeldOff k s

/-- A READ answer reaches a RUNNING slot (R94, R95, R96). Where its band makes the THERMAL recall, the end voltage stays absent
until a later answer comes (the model's choice within R104, assumption log 52). -/
def readAnswered (k : Nat) (sl : Slot) (r : NodeRecord) (s : State) : State :=
  let sl1 := { sl.see r.millivolts with missedPolls := 0 }
  let sl2 := if r.testing then { sl1 with nodeElapsed := some r.elapsed } else sl1
  let band := bandOf s sl.luminaire
  if r.testing = false then
    let sl3 := { sl2.fix .failShort (sl2.nodeElapsed.getD 0 / 60) with endVoltage := some r.millivolts }
    releaseResult k { s with slots := s.slots.put k sl3 }
  else if r.lamp = false then
    let o := if sl.endMinimum band ≤ r.millivolts then .failLamp else .failShort
    close k { sl2.fix o (elapsedNow s sl2) with endVoltage := some r.millivolts } s
  else if band = .hot then recallSlot .thermal k { s with slots := s.slots.put k sl2 }
  else { s with slots := s.slots.put k sl2 }

/-- An answer reaches a CLOSING slot and is recorded; its voltage is the end voltage once an outcome is fixed (R98, R104). Last
node elapsed stays as it was even where the answer shows test running = yes: R98 says that this changes nothing in the slot,
R85's table sets the field from each such answer, and following R98 is the model's choice (assumption log 50). -/
def recordClosing (sl : Slot) (r : NodeRecord) : Slot :=
  { sl.see r.millivolts with endVoltage := if sl.outcome.isSome then some r.millivolts else sl.endVoltage }

/-- A STOP answer reaches a CLOSING slot: judged or recorded, and released (R102). -/
def stopAnswered (k : Nat) (sl : Slot) (r : NodeRecord) (s : State) : State :=
  let o := judge r.lamp (sl.endMinimum (bandOf s sl.luminaire) ≤ r.millivolts)
  releaseResult k { s with slots := s.slots.put k (recordClosing (sl.fix o (elapsedNow s sl)) r) }

/-- An answered exchange of slot `k` for luminaire `n` reaches the slot, unless it has been released or holds another test
(R86, R165). -/
def slotAnswered (k n : Nat) (kind : ExchangeKind) (r : NodeRecord) (code : Option StartCode) (s : State) : State :=
  match s.slots.get k with
  | none => s
  | some sl =>
    if sl.luminaire ≠ n then s
    else
      match kind, sl.status, code with
      | .start, .reserved, some c => startAnswered k sl r c s
      | .read, .running, _ => readAnswered k sl r s
      | .read, .closing, _ => { s with slots := s.slots.put k (recordClosing sl r) }
      | .stop, .closing, _ => stopAnswered k sl r s
      | _, _, _ => s

/-- An unanswered READ reaches a RUNNING slot (R97). -/
def readMissed (k : Nat) (sl : Slot) (s : State) : State :=
  let t := { s with slots := s.slots.put k { sl with missedPolls := sl.missedPolls + 1 } }
  if sl.missedPolls + 1 < 3 then t else releaseResult k t

/-- An unanswered STOP reaches a CLOSING slot (R101). -/
def stopMissed (k : Nat) (sl : Slot) (s : State) : State :=
  if sl.stopAttempts < 3 then
    { s with slots := s.slots.put k { sl with supervision := some s.params.supervisionInterval } }
  else releaseResult k s

/-- An unanswered exchange of slot `k` for luminaire `n` reaches the slot (R90, R97, R98, R101). -/
def slotUnanswered (k n : Nat) (kind : ExchangeKind) (s : State) : State :=
  match s.slots.get k with
  | none => s
  | some sl =>
    if sl.luminaire ≠ n then s
    else
      match kind, sl.status with
      | .start, .reserved => releaseHeldOff k s
      | .read, .running => readMissed k sl s
      | .stop, .closing => stopMissed k sl s
      | _, _ => s

/-! ### Timers -/

/-- A READ of slot `k`'s present test is queued or in flight (R93). -/
def readWaits (k : Nat) (sl : Slot) (s : State) : Bool :=
  let br := s.branches[sl.branch]
  br.queue.any (isReadOf k sl.luminaire) || (br.inFlight.any fun f => isReadOf k sl.luminaire f.exchange)

/-- The supervision timer of slot `k` expires: a READ while RUNNING (R93), the next STOP attempt while CLOSING (R101). -/
def supervisionExpires (k : Nat) (s : State) : State :=
  match s.slots.get k with
  | none => s
  | some sl =>
    if sl.supervision ≠ some 0 then s
    else
      match sl.status with
      | .running =>
        let t := { s with slots := s.slots.put k { sl with supervision := some s.params.supervisionInterval } }
        match readWaits k sl s, s.luminaires.get sl.luminaire with
        | false, some l => offer sl.branch (readExchange .read l.node sl.luminaire (.slot k sl.luminaire)) t
        | _, _ => t
      | .closing =>
        let sl' := { sl with supervision := none, stopAttempts := sl.stopAttempts + 1 }
        queueStop k sl' { s with slots := s.slots.put k sl' }
      | .reserved => s

/-- The end timer of slot `k` expires (R100). -/
def endExpires (k : Nat) (s : State) : State :=
  match s.slots.get k with
  | none => s
  | some sl => if sl.status = .running ∧ sl.endTimer = some 0 then close k sl s else s

/-! ### Requests -/

/-- READ-SLOT (R87): slot number, luminaire number, by-luminaire flag; the number that the flag does not choose is ignored
(body layouts: assumption log 9). -/
def readSlot (body : List Byte) (s : State) : State × Answer :=
  match body with
  | [k, n1, n0, f] =>
    let n := be2 n1 n0
    match flagOf f with
    | none => (s, .refused .outOfRange)
    | some false =>
      if slotCount ≤ k.toNat then (s, .refused .outOfRange)
      else (s, .done (slotBytes (s.slots.get k.toNat) ++ optByte none))
    | some true =>
      if luminairePositions ≤ n then (s, .refused .outOfRange)
      else if !s.luminaires.has n then (s, .refused .noSuchRecord)
      else
        match slotOf s n with
        | none => (s, .refused .state)
        | some (k, sl) => (s, .done (slotBytes (some sl) ++ opt 1 (some (u8 k))))
  | _ => (s, .refused .badLength)

/-- STOP-TEST's reply: slot, status, fixed outcome or absent, and the cancel pending, absent unless the slot is RESERVED
(R118, R202; assumption log 9). -/
def stopTestBytes (k n : Nat) (s : State) : List Byte :=
  match s.slots.get k with
  | none => []
  | some sl =>
    let cancel := if sl.status = .reserved then (s.luminaires.get n).bind Luminaire.cancelPending else none
    u8 k ++ [sl.status.code] ++ optByte (sl.outcome.map TestOutcome.code) ++ optByte (cancel.map RecallReason.code)

/-- STOP-TEST (R118). -/
def stopTest (body : List Byte) (s : State) : State × Answer :=
  match body with
  | [n1, n0] =>
    let n := be2 n1 n0
    if luminairePositions ≤ n then (s, .refused .outOfRange)
    else
      match s.luminaires.get n, slotOf s n with
      | none, _ => (s, .refused .noSuchRecord)
      | some l, some (k, _) =>
        if l.state.holdsSlot then
          let t := recallSlot .hostStop k s
          (t, .done (stopTestBytes k n t))
        else (s, .refused .state)
      | some _, none => (s, .refused .state)
  | _ => (s, .refused .badLength)

/-- The context after CAMPAIGN-STOP (R141). -/
def Channel.stopped (ch : Channel) : Channel :=
  { ch with
    state := .loaded, cursor := 0, member := 0, takenUp := false, atPosition := false, snapshot := [], heldEntry := none
    haltReason := none, finishWatch := [], restartQueued := false, inFlight := [], run := (ch.run + 1) % 4294967296 }

/-- CAMPAIGN-STOP (R141, R142; reply with the recall flag: assumption log 18). -/
def campaignStop (body : List Byte) (s : State) : State × Answer :=
  match body with
  | [cb, fb] =>
    match channelOf cb, flagOf fb with
    | some c, some recalls =>
      let ch := s.channels[c]
      if ch.state = .empty then (s, .refused .state)
      else
        let t := if recalls then recallAll .campaignRecall (ch.inFlight.map Prod.fst) s else s
        let run := u32 ch.stopped.run
        (modChan c Channel.stopped t, .done (if recalls then run ++ u8 ch.inFlight.length else run))
    | _, _ => (s, .refused .outOfRange)
  | _ => (s, .refused .badLength)

end Sys2Proof.Machine
end

