-- ==== Sys2Proof/Machine/Branch.lean ====
section
/-! DEFINITION. Branch lines: what the luminaire table takes from an exchange's end, the end's way to its issuer, sends and
resends, chatter, the flush, and the branch requests (R18 to R24, 08_branch_lines.md). -/

namespace Sys2Proof.Machine

/-! ### The luminaire table takes an exchange's end -/

/-- The highest band whose lower threshold the reading reaches (R23). -/
def thresholdBand (p : Params) (t : Int) : Band :=
  if p.warmHot ≤ t then .hot else if p.normalWarm ≤ t then .warm else if p.coldNormal ≤ t then .normal else .cold

/-- A band's lower threshold; COLD and UNKNOWN have none (R23). -/
def lowerThreshold (p : Params) : Band → Option Int
  | .normal => some p.coldNormal
  | .warm => some p.normalWarm
  | .hot => some p.warmHot
  | _ => none

/-- The bands in order, UNKNOWN below all. -/
def Band.rank : Band → Nat
  | .unknown => 0 | .cold => 1 | .normal => 2 | .warm => 3 | .hot => 4

/-- The band after a reading (R23). -/
def bandAfter (p : Params) (present : Band) (t : Int) : Band :=
  let b := thresholdBand p t
  if present = .unknown ∨ present.rank < b.rank then b
  else if b.rank < present.rank ∧ (lowerThreshold p present).any (fun low => t < low - p.hysteresis) then b
  else present

/-- The record after a node state record: last report, band and its lifetime (R18, R23, R24). -/
def Luminaire.reported (l : Luminaire) (s : State) (r : NodeRecord) (code : Option StartCode) : Luminaire :=
  { l with
    lastReport := some ⟨r, s.campus, code⟩, band := bandAfter s.params l.band r.temperature
    bandTime := some s.campus, bandLife := some bandLifeSeconds }

/-- A fault latch is set and written when the report calls for it and it was clear (R20). -/
def latchFault (n : Nat) (k : Latch) (calls : Bool) (s : State) : State :=
  if calls ∧ ((s.luminaires.get n).any fun l => !l.latches.has k) then writeItem (.luminaire n) (setLatch n k s) else s

/-- The table takes a node state record, in the order of R18. Where one report sets CHARGER and MAINS-LOST together, R18 and
R20 give no order of their notices, and the model raises CHARGER's first (assumption log 26). -/
def takeRecord (n : Nat) (r : NodeRecord) (code : Option StartCode) (s : State) : State :=
  let isDue := (s.luminaires.get n).any fun l => l.state == .due
  let s1 := triggerIf isDue (modLum n (fun l => l.reported s r code) s)
  let s2 := latchFault n .mainsLost (!r.mains && !r.testing) (latchFault n .charger (!r.chargerOk) s1)
  let free := (s2.luminaires.get n).any fun l => !l.state.holdsSlot
  if r.testing ∧ free then stray n r s2 else s2

/-- The luminaire whose record still has the address the exchange went to (R18). -/
def tableTakes (b : Fin 8) (e : Exchange) (s : State) : Option Nat :=
  e.luminaire.bind fun n =>
    if (s.luminaires.get n).any fun l => l.branch == b && l.node == e.node then some n else none

/-- The luminaire table takes an answered exchange (R18). -/
def tableAnswered (b : Fin 8) (e : Exchange) (rec? : Option (NodeRecord × Option StartCode)) (s : State) : State :=
  match tableTakes b e s with
  | none => s
  | some n =>
    let t := modLum n (fun l => { l with lastExchange := some .answered }) s
    match rec? with
    | some (r, code) => takeRecord n r code t
    | none => t

/-- The luminaire table takes an unanswered exchange (R19). -/
def tableUnanswered (b : Fin 8) (e : Exchange) (s : State) : State :=
  match tableTakes b e s with
  | none => s
  | some n =>
    latchFault n .noAnswer true (modLum n (fun l => { l with lastExchange := some .unanswered }) s)

/-! ### The end reaches the issuer -/

/-- The NODE-EXCHANGE leaves service and its reply is ready (R175, R195). A store write that failed as its exchange ended does
not make the reply STORE-FAULT (the model's choice, assumption log 53). -/
def endService (refused : Bool) (body : List Byte) (s : State) : State :=
  match s.service with
  | some sv => reply ⟨refused, sv.tag, body⟩ { s with service := none }
  | none => s

/-- A CHECK ends: its luminaire leaves the check-pending set, and the end is a trigger (R75). -/
def checkEnds (e : Exchange) (s : State) : State :=
  match e.luminaire with
  | some n => triggerPass { s with checkPending := s.checkPending.erase n }
  | none => s

/-- An unanswered CHECK also sets a hold-off on its luminaire (R75). -/
def checkUnanswered (e : Exchange) (s : State) : State :=
  match e.luminaire.filter s.luminaires.has with
  | some n => writeItem (.luminaire n) (modLum n (fun l => l.withHoldOff s) (checkEnds e s))
  | none => checkEnds e s

/-- An answered exchange reaches its issuer (R165). -/
def issuerAnswered (e : Exchange) (sends : Nat) (f : NodeFrame) (s : State) : State :=
  match e.issuer, f.record with
  | .slot k n, some (r, code) => slotAnswered k n e.kind r code s
  | .slot _ _, none => s
  | .placement, _ => checkEnds e s
  | .stray, _ => s
  | .recall, _ => s
  | .host, _ => endService false (flag true ++ u8 sends ++ [f.kind] ++ listOf (f.body.map fun x => [x])) s

/-- An unanswered exchange reaches its issuer (R165). -/
def issuerUnanswered (e : Exchange) (s : State) : State :=
  match e.issuer with
  | .slot k n => slotUnanswered k n e.kind s
  | .placement => checkUnanswered e s
  | .stray => s
  | .recall => s
  | .host => endService false (flag false ++ u8 3) s

/-- An exchange ends answered: nothing is in flight, a clean one sets the chatter count to 0, the table takes the end before
the issuer (R165, R166). -/
def endAnswered (b : Fin 8) (f : InFlight) (a : NodeFrame) (s : State) : State :=
  let s1 := modBranch b (fun br => { br with inFlight := none, chatter := if f.sends = 1 then 0 else br.chatter }) s
  issuerAnswered f.exchange f.sends a (tableAnswered b f.exchange a.record s1)

/-- An exchange ends unanswered (R164, R165). -/
def endUnanswered (b : Fin 8) (f : InFlight) (s : State) : State :=
  issuerUnanswered f.exchange
    (tableUnanswered b f.exchange (modBranch b (fun br => { br with inFlight := none }) s))

/-! ### Sending -/

/-- The exchange that is sent next: the oldest STOP, else the oldest (R162). -/
def nextToSend (q : List Exchange) : Option Exchange := (q.find? fun e => e.kind == .stop).or q.head?

/-- The branch sends, when it has nothing in flight (R162). -/
def sendNext (b : Fin 8) (s : State) : State :=
  let br := s.branches[b]
  match br.inFlight, nextToSend br.queue with
  | none, some e =>
    if br.state.works then
      modBranch b (fun br =>
        { br with queue := br.queue.erase e, inFlight := some ⟨e, 1, s.params.answerTimeout, false⟩ }) s
    else s
  | _, _ => s

/-- A send goes without a matching answer: the frame is sent again, or at the third the exchange ends unanswered (R164). -/
def sendFails (b : Fin 8) (f : InFlight) (s : State) : State :=
  if f.sends < 3 then
    modBranch b (fun br =>
      { br with inFlight := some { f with sends := f.sends + 1, timeout := s.params.answerTimeout, receiving := false } }) s
  else endUnanswered b f s

/-- The answer timeout expires with no byte of an answer received (R164). -/
def answerTimesOut (b : Fin 8) (s : State) : State :=
  match s.branches[b].inFlight with
  | some f => if f.receiving then s else sendFails b f s
  | none => s

/-- An answer's bytes stop before it is complete: a bad frame (R163). -/
def answerBreaksOff (b : Fin 8) (s : State) : State :=
  match s.branches[b].inFlight with
  | some f => sendFails b f s
  | none => s

/-- The first byte of an answer arrives (R163). -/
def answerBegins (b : Fin 8) (s : State) : State :=
  modBranch b (fun br => { br with inFlight := br.inFlight.map fun f => { f with receiving := true } }) s

/-- A complete node answer frame arrives: a matching answer or a bad frame (R163). -/
def answerArrives (b : Fin 8) (bytes : List Byte) (s : State) : State :=
  match s.branches[b].inFlight with
  | none => s
  | some f =>
    match nodeFrameOf bytes with
    | some a => if a.suits f.exchange then endAnswered b f a s else sendFails b f s
    | none => sendFails b f s

/-! ### Leaving READY or DIRECT -/

/-- A removed exchange reaches its issuer (R165, R168). -/
def issuerRemoved (code : Byte) (e : Exchange) (s : State) : State :=
  match e.issuer, e.luminaire with
  | .placement, some n => { s with checkPending := s.checkPending.erase n }
  | .host, _ => endService true [Reason.state.code, code] s
  | _, _ => s

/-- The flush: every pending exchange and the in-flight one end as removed (R168). -/
def flush (b : Fin 8) (s : State) : State :=
  let br := s.branches[b]
  (br.queue ++ (br.inFlight.map InFlight.exchange).toList).foldl (fun t e => issuerRemoved br.state.code e t)
    (modBranch b (fun br => { br with queue := [], inFlight := none }) s)

/-- An occupied slot on a branch that has left READY is released by its status (R169, R170). -/
def releaseLost (k : Nat) (s : State) : State :=
  match s.slots.get k with
  | none => s
  | some sl => if sl.status = .reserved then releaseHeldOff k s else releaseResult k s

/-- The occupied slots on a branch, ascending. -/
def slotsOn (s : State) (b : Fin 8) : List Nat := (s.slots.filter fun p => p.2.branch == b).map Prod.fst

/-- The branch leaves READY or DIRECT for `st`: the state first, then the flush, then the slots (R168), these in ascending
number, which fixes their result numbers and the order of their notices (the model's choice, assumption log 26). -/
def leaveReady (b : Fin 8) (st : BranchState) (s : State) : State :=
  let t := flush b (modBranch b (fun br => { br with state := st }) s)
  (slotsOn t b).foldl (fun u k => releaseLost k u) t

/-! ### Chatter -/

/-- A chatter event (R166, R167). The notice is raised whenever the count comes to 8, also after BRANCH-ENABLE in READY set it
to 0 (R172), which R167 does not name (the model's choice, assumption log 46). -/
def chatterHappens (b : Fin 8) (s : State) : State :=
  let br := s.branches[b]
  if br.state.works then
    let count := saturate (br.chatter + 1)
    let auto := s.params.autoDisable[b]
    let s1 := modBranch b (fun br => { br with chatter := count }) s
    let s2 := if br.chatter + 1 = 8 then raise (.chatter b count auto) s1 else s1
    if 8 ≤ count ∧ auto then leaveReady b .faulted s2 else s2
  else s

/-! ### Requests -/

/-- A branch number within range. -/
def branchOf (n : Nat) : Option (Fin 8) := if h : n < 8 then some ⟨n, h⟩ else none

/-- The branch is recorded as OFF or READY in the store (R171, R172). -/
def recordOff (b : Fin 8) (off : Bool) (s : State) : State :=
  writeItem (.branch b) (modBranch b (fun br => { br with hostOff := off }) s)

/-- BRANCH-ENABLE (R172). -/
def branchEnable (body : List Byte) (s : State) : State × Answer :=
  match body with
  | [x] =>
    match branchOf x.toNat with
    | none => (s, .refused .outOfRange)
    | some b =>
      match s.branches[b].state with
      | .direct => (s, .refused .state)
      | .ready => (recordOff b false (modBranch b (fun br => { br with chatter := 0 }) s), .done [])
      | _ =>
        (triggerPass (recordOff b false (modBranch b (fun br => { br with state := .ready, chatter := 0 }) s)), .done [])
  | _ => (s, .refused .badLength)

/-- How many occupied slots on a branch are RUNNING or CLOSING, and how many RESERVED (R171). -/
def slotCounts (s : State) (b : Fin 8) : Nat × Nat :=
  let here := s.slots.filter fun p => p.2.branch == b
  ((here.filter fun p => p.2.status != .reserved).length, (here.filter fun p => p.2.status == .reserved).length)

/-- BRANCH-DISABLE (R171). The branch setting is written after the slots are released (the model's choice, assumption
log 26). -/
def branchDisable (body : List Byte) (s : State) : State × Answer :=
  match body with
  | [x] =>
    match branchOf x.toNat with
    | none => (s, .refused .outOfRange)
    | some b =>
      match s.branches[b].state with
      | .ready | .direct =>
        let (a, z) := slotCounts s b
        (recordOff b true (leaveReady b .off s), .done (u8 a ++ u8 z))
      | _ => (recordOff b true (modBranch b (fun br => { br with state := .off }) s), .done (u8 0 ++ u8 0))
  | _ => (s, .refused .badLength)

/-- BRANCH-DIRECT-ENTER (R173). -/
def branchDirectEnter (body : List Byte) (s : State) : State × Answer :=
  match body with
  | [x] =>
    match branchOf x.toNat with
    | none => (s, .refused .outOfRange)
    | some b =>
      if s.branches[b].state = .ready ∧ occupiedOn s b = 0 then
        (modBranch b (fun br => { br with state := .direct }) s, .done [])
      else (s, .refused .state)
  | _ => (s, .refused .badLength)

/-- BRANCH-DIRECT-LEAVE (R176). -/
def branchDirectLeave (body : List Byte) (s : State) : State × Answer :=
  match body with
  | [x] =>
    match branchOf x.toNat with
    | none => (s, .refused .outOfRange)
    | some b =>
      if s.branches[b].state = .direct then
        (triggerPass (modBranch b (fun br => { br with state := .ready }) s), .done [])
      else (s, .refused .state)
  | _ => (s, .refused .badLength)

/-- A DIRECT exchange (R159, R174). -/
def directExchange (node : Nat) (kind : Byte) (body : List Byte) (luminaire : Option Nat) : Exchange :=
  ⟨.direct, node, kind, body, luminaire, .host, false⟩

/-- NODE-EXCHANGE with its tag (R174). After the branch number, the node address and the body are checked before the branch's
state, and the state before the free place (the model's choice, assumption log 54). -/
def nodeExchange (tag : Byte) (body : List Byte) (s : State) : State × Answer :=
  match body with
  | x :: a1 :: a0 :: kind :: count :: bytes =>
    if bytes.length ≠ count.toNat then (s, .refused .badLength)
    else
      match branchOf x.toNat with
      | none => (s, .refused .outOfRange)
      | some b =>
        let node := be2 a1 a0
        if node = 0 ∨ 512 ≤ node ∨ 32 < count.toNat then (s, .refused .outOfRange)
        else if s.branches[b].state ≠ .direct then (s, .refused .state)
        else if unreservedFree s b = 0 then (s, .refused .full)
        else
          (enqueue b (directExchange node kind bytes (enrolledAt s b node)) { s with service := some ⟨tag, b⟩ }, .later)
  | _ => (s, .refused .badLength)

/-- BRANCH-STATUS (R177). -/
def branchStatus (body : List Byte) (s : State) : State × Answer :=
  match body with
  | [x] =>
    match branchOf x.toNat with
    | none => (s, .refused .outOfRange)
    | some b => (s, .done (branchBytes s b))
  | _ => (s, .refused .badLength)

end Sys2Proof.Machine
end

