-- ==== Sys2Proof/Machine/Placement.lean ====
section
/-! DEFINITION. The placement pass: global conditions, the rotation of the campaigns, the conditions on each candidate, the
CHECK exchange and the reservation (04_the_schedule_list_and_placement.md). -/

namespace Sys2Proof.Machine

/-- The reason of the first global condition that fails (R67). -/
def globalFailure (s : State) : Option BlockedBy :=
  if s.sched ≠ .active then some .scheduler
  else if s.quality ≠ .set then some .time
  else if slotCount ≤ occupied s then some .slots
  else if resultRoom ≤ occupied s + s.results.length then some .results
  else none

/-- Blocked by is written (R72). -/
def block (n : Nat) (r : BlockedBy) (s : State) : State := modLum n (fun l => { l with blockedBy := some r }) s

/-- The first group of the list for which the coverage check fails (R38). -/
def coverageFailure (s : State) (l : Luminaire) : Option Nat :=
  l.groups.find? fun g => (s.groups.get g).any fun r => r.cap ≤ r.dark - l.dark.toNat

/-- What a pass does with a candidate. -/
inductive Verdict where
  | reserve
  | check
  | pass (reason : Option BlockedBy)
deriving DecidableEq, Repr

/-- The window condition applies: a periodic candidate, or a campaign started without window bypass (R76). -/
def windowApplies (s : State) (from? : Option (Fin 4)) : Bool := !(from?.any fun c => s.channels[c].bypass)

/-- The guard end for a candidate; none: the guard holds (R77). -/
def guardEnd (s : State) (from? : Option (Fin 4)) : Option Nat :=
  if windowApplies s from? then least ((openIntervalEnd s).toList ++ (nextBlackout s).toList) else nextBlackout s

/-- The late-start guard holds (R77). -/
def guardHolds (s : State) (l : Luminaire) (from? : Option (Fin 4)) : Bool :=
  (guardEnd s from?).all fun e =>
    s.campus + s.classes[l.cls].rated * 60 + s.params.guardMargin * 60 ≤ e

/-- Conditions 9 to 11 of R72: window, guard, branch places. -/
def lateVerdict (s : State) (l : Luminaire) (from? : Option (Fin 4)) : Verdict :=
  if windowApplies s from? && !openNow s then .pass (some .window)
  else if !guardHolds s l from? then .pass (some .guard)
  else if unreservedFree s l.branch < 2 then .pass (some .branch)
  else .reserve

/-- Condition 8 of R72, and the conditions after it (R74). -/
def bandVerdict (s : State) (n : Nat) (l : Luminaire) (from? : Option (Fin 4)) : Verdict :=
  if s.checkPending.contains n then .pass (some .checkPending)
  else
    match l.band with
    | .normal | .warm => lateVerdict s l from?
    | .cold | .hot => .pass (some .band)
    | .unknown => if 0 < unreservedFree s l.branch then .check else .pass (some .branch)

/-- The state admits the candidate: DUE, or for a campaign candidate IDLE or DUE (R72). -/
def admits (from? : Option (Fin 4)) (st : LumState) : Bool := if from?.isSome then st.waits else st == .due

/-- The conditions of R72 on a candidate, in their order; `from?` is the campaign that presents it. NO-ANSWER does not block a
candidate, as R72's chapter says, though R34's says that it stops placement (the model's choice, assumption log 51). -/
def verdict (s : State) (n : Nat) (l : Luminaire) (from? : Option (Fin 4)) : Verdict :=
  if !admits from? l.state then .pass none
  else if l.heldOff s then .pass (some .holdOff)
  else if l.latches.charger || l.latches.mainsLost then .pass (some .latch)
  else if s.branches[l.branch].state ≠ .ready then .pass (some .branch)
  else if s.params.concurrency[l.branch] ≤ occupiedOn s l.branch then .pass (some .branchLimit)
  else if from?.isSome && s.params.campaignShare ≤ campaignSlots s then .pass (some .share)
  else
    match coverageFailure s l with
    | some g => .pass (some (.group g))
    | none => bandVerdict s n l from?

/-- The origin of a reservation (R79, R121). -/
def originOf (s : State) : Option (Fin 4) → Origin
  | some c => .campaign c s.channels[c].cursor s.channels[c].run
  | none => .periodic

/-- The slot's contents at reservation (R79). -/
def reservedSlot (s : State) (n : Nat) (l : Luminaire) (from? : Option (Fin 4)) : Slot where
  status := .reserved
  luminaire := n
  branch := l.branch
  origin := originOf s from?
  rated := s.classes[l.cls].rated
  normalMin := s.classes[l.cls].normalMin
  warmMin := s.classes[l.cls].warmMin
  bandAtStart := l.band

/-- The campaign of a reserved candidate becomes the last served and is told (R69, R70, R82). -/
def tellReserved (from? : Option (Fin 4)) (k : Nat) (s : State) : State :=
  match from? with
  | some c => campaignReserved c k { s with lastServed := c }
  | none => s

/-- Reservation (R79 to R82). The open marker's write, with its STORE-FAULT, comes before the campaign is told and raises its own
notices (the model's choice, assumption log 26). -/
def reserve (n : Nat) (l : Luminaire) (from? : Option (Fin 4)) (s : State) : State :=
  match s.slots.lowestFree slotCount with
  | none => s
  | some k =>
    let sl := reservedSlot s n l from?
    let t := enqueue l.branch (startExchange l.node n k sl.rated) { s with slots := s.slots.put k sl }
    tellReserved from? k
      (writeItem (.luminaire n) (putLum n (some { l.enter .starting with openMarker := true }) t))

/-- A CHECK is queued and the luminaire joins the check-pending set (R74). -/
def queueCheck (n : Nat) (l : Luminaire) (s : State) : State :=
  block n .checkPending
    (enqueue l.branch (readExchange .check l.node n .placement) { s with checkPending := s.checkPending ++ [n] })

/-- A candidate is considered; the flag says whether it was reserved (R72). -/
def consider (n : Nat) (from? : Option (Fin 4)) (s : State) : State × Bool :=
  match s.luminaires.get n with
  | none => (s, false)
  | some l =>
    match verdict s n l from? with
    | .reserve => (reserve n l from? s, true)
    | .check => (queueCheck n l s, false)
    | .pass none => (s, false)
    | .pass (some r) => (block n r s, false)

/-- The rotation: the channels after the last-served one, wrapping (R69). -/
def rotation (last : Fin 4) : List (Fin 4) := [last + 1, last + 2, last + 3, last]

/-- The next RUNNING channel of the rotation that is not done with in this pass (R69). -/
def nextChannel (s : State) (done : List (Fin 4)) : Option (Fin 4) :=
  (rotation s.lastServed).find? fun c => !done.contains c && s.channels[c].state == .running

/-- A candidate in IDLE or DUE is given a global condition's reason (R67). -/
def blockWaiting (n : Nat) (r : BlockedBy) (s : State) : State :=
  if (s.luminaires.get n).any fun l => l.state.waits then block n r s else s

/-- The campaign part of a pass (R69); `done` lists the channels passed over or offering nothing further. -/
def campaignPart : Nat → List (Fin 4) → State → State
  | 0, _, s => s
  | fuel + 1, done, s =>
    match nextChannel s done with
    | none => s
    | some c =>
      let (t, candidate) := present c s
      match candidate, globalFailure s with
      | none, _ => campaignPart fuel (c :: done) t
      | some n, some r => campaignPart fuel (c :: done) (blockWaiting n r t)
      | some n, none =>
        let (u, reserved) := consider n (some c) t
        campaignPart fuel (if reserved then done else c :: done) u

/-- One periodic candidate: a member of the schedule list that is still DUE (R67, R69). -/
def periodicStep (s : State) (n : Nat) : State :=
  if (s.luminaires.get n).any fun l => l.state == .due then
    match globalFailure s with
    | some r => block n r s
    | none => (consider n none s).1
  else s

/-- A placement pass (R65, R69). Each of the four channels is done with once, and there are at most 48 reservations. -/
def pass (s : State) : State :=
  let t := campaignPart 56 [] s
  t.schedule.foldl periodicStep t

/-- Passes while there is a trigger; only the restart of a campaign inside a pass makes another, once for each channel
(R65, R66). -/
def passes : Nat → State → State
  | 0, s => s
  | fuel + 1, s => if s.trigger then passes fuel (pass { s with trigger := false }) else s

/-- What follows the steps of an event: the placement passes it triggers (R65), then its scratch flags are cleared. -/
def settle (s : State) : State := finish (passes 6 s)

/-- An event of the operating part: its steps, then the placement passes it triggers (R65). While the part does not operate
nothing reaches its blocks (R205, R208). -/
def event (f : State → State) (s : State) : Step :=
  if s.phase = .operating then .next (settle (f (begin s))) else .next s

end Sys2Proof.Machine
end

