-- ==== Sys2Proof/Machine/Register.lean ====
section
/-! DEFINITION. The requests of the luminaire table, the class table and the group table
(01_the_luminaire_table.md, 02_route_groups_and_coverage.md). -/

namespace Sys2Proof.Machine

/-! ### Checks shared by the requests (R4) -/

/-- A group list within range: at most three, in range, no repeats (R1, R5, R10). -/
def groupsInRange (gs : List Nat) : Bool := gs.length ≤ 3 && gs.all (fun g => g < groupCount) && decide gs.Nodup

/-- Every group named is defined (R4). -/
def groupsDefined (s : State) (gs : List Nat) : Bool := gs.all fun g => s.groups.has g

/-- Every group that luminaire `n` would newly join has fewer than 64 members (R4, R10). -/
def groupsHaveRoom (s : State) (n : Nat) (gs : List Nat) : Bool :=
  gs.all fun g => (s.groups.get g).all fun r => r.members.contains n || r.members.length < groupRoom

/-- The record a request names, within range and used (R4): the number and what is done with the record. -/
def withRecord (n : Nat) (s : State) (f : Luminaire → State × Answer) : State × Answer :=
  if luminairePositions ≤ n then (s, .refused .outOfRange)
  else
    match s.luminaires.get n with
    | none => (s, .refused .noSuchRecord)
    | some l => f l

/-- A request that changes luminaire `n`'s record to `l` and writes it. -/
def storeRecord (n : Nat) (l : Luminaire) (s : State) : State := writeItem (.luminaire n) (putLum n (some l) s)

/-! ### ENROL and WITHDRAW -/

/-- The record ENROL creates (R5, R6). -/
def newRecord (s : State) (q : EnrolBody) (b c : Fin 8) (inService : Bool) : Luminaire where
  branch := b
  node := q.node
  cls := c
  groups := q.groups
  state := if inService then waitState s q.due else .outOfService
  due := q.due

/-- ENROL (R5, R6). -/
def enrol (body : List Byte) (s : State) : State × Answer :=
  match enrolBody body with
  | none => (s, .refused .badLength)
  | some q =>
    match branchOf q.branch, branchOf q.cls, flagOf q.inService with
    | some b, some c, some inService =>
      if luminairePositions ≤ q.number ∨ q.node = 0 ∨ 512 ≤ q.node ∨ !groupsInRange q.groups then
        (s, .refused .outOfRange)
      else if s.luminaires.has q.number ∨ addressTaken s q.number b q.node then (s, .refused .exists_)
      else if !groupsDefined s q.groups then (s, .refused .noSuchRecord)
      else if !groupsHaveRoom s q.number q.groups then (s, .refused .full)
      else (storeRecord q.number (newRecord s q b c inService) s, .done [])
    | _, _, _ => (s, .refused .outOfRange)

/-- WITHDRAW (R7). -/
def withdraw (body : List Byte) (s : State) : State × Answer :=
  match body with
  | [n1, n0] =>
    let n := be2 n1 n0
    withRecord n s fun l =>
      if l.state.holdsSlot then (s, .refused .state)
      else (writeItem (.luminaire n) (putLum n none (dropChecks l.branch n s)), .done [])
  | _ => (s, .refused .badLength)

/-! ### AMEND -/

/-- AMEND's parts, each present or absent. -/
structure AmendParts where
  cls : Option (Fin 8)
  groups : Option (List Nat)
  address : Option (Fin 8 × Nat)
deriving DecidableEq, Repr

/-- AMEND's parts, if every field is within its range (R4); the fields of an absent part are ignored (R202). -/
def amendParts (q : AmendBody) : Option AmendParts :=
  match optOf q.clsPresent q.cls, optOf q.groupsPresent q.groups, optOf q.addressPresent (q.branch, q.node) with
  | some cls, some groups, some address =>
    let clsOk := cls.all fun c => c < 8
    let groupsOk := groups.all groupsInRange
    let addressOk := address.all fun a => a.1 < 8 && 0 < a.2 && a.2 < 512
    if clsOk && groupsOk && addressOk then
      some ⟨cls.bind branchOf, groups, address.bind fun a => (branchOf a.1).map fun b => (b, a.2)⟩
    else none
  | _, _, _ => none

/-- The record at a new address: what described the node at the old one is dropped (R11). -/
def Luminaire.moved (l : Luminaire) (b : Fin 8) (node : Nat) : Luminaire :=
  { l with
    branch := b, node := node, band := .unknown, bandLife := none, bandTime := none, lastReport := none
    lastExchange := none, latches := l.latches.put false .noAnswer }

/-- The record after AMEND's parts (R9, R10, R11). -/
def Luminaire.amended (l : Luminaire) (p : AmendParts) : Luminaire :=
  let l1 := { l with cls := p.cls.getD l.cls, groups := p.groups.getD l.groups }
  match p.address with
  | some (b, node) => l1.moved b node
  | none => l1

/-- AMEND (R9, R10, R11): every check before any part is carried out. -/
def amend (body : List Byte) (s : State) : State × Answer :=
  match amendBody body with
  | none => (s, .refused .badLength)
  | some q =>
    match amendParts q with
    | none => (s, .refused .outOfRange)
    | some p =>
      let n := q.number
      let gs := p.groups.getD []
      withRecord n s fun l =>
        if p.address.isSome ∧ l.state.holdsSlot then (s, .refused .state)
        else if p.address.any fun a => addressTaken s n a.1 a.2 then (s, .refused .exists_)
        else if !groupsDefined s gs then (s, .refused .noSuchRecord)
        else if !groupsHaveRoom s n gs then (s, .refused .full)
        else if p = ⟨none, none, none⟩ then (s, .done [])
        else
          let t := if p.address.isSome then dropChecks l.branch n s else s
          (storeRecord n (l.amended p) t, .done [])

/-! ### SET-DUE, SET-OUT-OF-SERVICE, RETURN-TO-SERVICE, CLEAR-FAULTS -/

/-- The record with a new due time; IDLE or DUE is decided again (R12), and the watch is armed (R62). -/
def Luminaire.dueSet (l : Luminaire) (s : State) (due : Nat) : Luminaire :=
  let l1 := { l with due := due, overdueReported := false, watchArmed := true }
  if l.state.waits then l1.enter (waitState s due) else l1

/-- SET-DUE (R12). -/
def setDue (body : List Byte) (s : State) : State × Answer :=
  match body with
  | [n1, n0, d3, d2, d1, d0] =>
    let n := be2 n1 n0
    withRecord n s fun l =>
      if l.state.holdsSlot then (s, .refused .state)
      else (storeRecord n (l.dueSet s (be4 d3 d2 d1 d0)) s, .done [])
  | _ => (s, .refused .badLength)

/-- SET-OUT-OF-SERVICE on a luminaire that holds a slot (R14). -/
def outAtRelease (n : Nat) (l : Luminaire) (s : State) : State :=
  if l.outAtRelease then s
  else
    let t := putLum n (some { l with outAtRelease := true }) s
    match l.state, slotOf s n with
    | .starting, some (k, _) => recallSlot .service k t
    | .testing, some (k, _) => recallSlot .service k t
    | _, _ => t

/-- SET-OUT-OF-SERVICE (R13, R14). -/
def setOutOfService (body : List Byte) (s : State) : State × Answer :=
  match body with
  | [n1, n0] =>
    let n := be2 n1 n0
    withRecord n s fun l =>
      if l.state.holdsSlot then (outAtRelease n l s, .done [])
      else if l.state = .outOfService then (s, .done [])
      else (storeRecord n { l.enter .outOfService with recharge := none } s, .done [])
  | _ => (s, .refused .badLength)

/-- RETURN-TO-SERVICE (R15); an overdue threshold already reached raises its notice now (R63), after the record's own write (the
model's choice, assumption log 26). -/
def returnToService (body : List Byte) (s : State) : State × Answer :=
  match body with
  | [n1, n0] =>
    let n := be2 n1 n0
    withRecord n s fun l =>
      if l.state ≠ .outOfService then (s, .refused .state)
      else (checkOverdue n (storeRecord n (l.enter (waitState s l.due)) s), .done [])
  | _ => (s, .refused .badLength)

/-- The latches after CLEAR-FAULTS: each of the three whose condition the record shows absent is cleared (R22). -/
def Luminaire.faultsCleared (l : Luminaire) : Latches :=
  { l.latches with
    noAnswer := l.latches.noAnswer && !(l.lastExchange == some .answered)
    charger := l.latches.charger && !(l.lastReport.any fun r => r.record.chargerOk)
    mainsLost := l.latches.mainsLost && !(l.lastReport.any fun r => r.record.mains) }

/-- CLEAR-FAULTS (R22). -/
def clearFaults (body : List Byte) (s : State) : State × Answer :=
  match body with
  | [n1, n0] =>
    let n := be2 n1 n0
    withRecord n s fun l =>
      let latches := l.faultsCleared
      (if latches = l.latches then s else storeRecord n { l with latches := latches } s, .done [latches.code])
  | _ => (s, .refused .badLength)

/-- READ-LUMINAIRE (R26). -/
def readLuminaire (body : List Byte) (s : State) : State × Answer :=
  match body with
  | [n1, n0, f] =>
    let n := be2 n1 n0
    match flagOf f with
    | none => (s, .refused .outOfRange)
    | some next =>
      if luminairePositions ≤ n then (s, .refused .outOfRange)
      else
        match if next then s.luminaires.atOrAbove n else (s.luminaires.get n).map fun l => (n, l) with
        | none => (s, .refused .noSuchRecord)
        | some (m, l) => (s, .done (luminaireBytes m l))
  | _ => (s, .refused .badLength)

/-! ### Classes -/

/-- The fields of a class are within range (R16). -/
def TestClass.inRange (c : TestClass) : Bool :=
  30 ≤ c.rated && c.rated ≤ 240 && 30 ≤ c.period && c.period ≤ 400 && 1 ≤ c.retest && c.retest ≤ 60
    && 1000 ≤ c.normalMin && c.normalMin ≤ 15000 && 1000 ≤ c.warmMin && c.warmMin ≤ 15000

/-- SET-CLASS (R17; widths: assumption log 8). -/
def setClass (body : List Byte) (s : State) : State × Answer :=
  match body with
  | [i, a1, a0, b1, b0, c1, c0, d1, d0, e1, e0] =>
    let c : TestClass := ⟨be2 a1 a0, be2 b1 b0, be2 c1 c0, be2 d1 d0, be2 e1 e0⟩
    match branchOf i.toNat with
    | none => (s, .refused .outOfRange)
    | some j =>
      if c.inRange then (writeItem (.cls j) { s with classes := s.classes.set j c }, .done [])
      else (s, .refused .outOfRange)
  | _ => (s, .refused .badLength)

/-- READ-CLASS (R16). -/
def readClass (body : List Byte) (s : State) : State × Answer :=
  match body with
  | [i] =>
    match branchOf i.toNat with
    | none => (s, .refused .outOfRange)
    | some j => (s, .done s.classes[j].bytes)
  | _ => (s, .refused .badLength)

/-! ### Groups -/

/-- The group's record after DEFINE-GROUP (R30, R31). -/
def groupDefined (r? : Option Group) (cap : Nat) : Group :=
  match r? with
  | some r => { r with cap := cap }
  | none => ⟨cap, [], 0⟩

/-- DEFINE-GROUP (R30, R31); a cap raised is a trigger, an equal one changes nothing. -/
def defineGroup (body : List Byte) (s : State) : State × Answer :=
  match body with
  | [g1, g0, c] =>
    let g := be2 g1 g0
    let cap := c.toNat
    if groupCount ≤ g ∨ cap = 0 ∨ 15 < cap then (s, .refused .outOfRange)
    else
      let old := s.groups.get g
      if old.any fun r => r.cap == cap then (s, .done [])
      else
        (triggerIf (old.any fun r => r.cap < cap)
          (writeItem (.group g) { s with groups := s.groups.put g (groupDefined old cap) }), .done [])
  | _ => (s, .refused .badLength)

/-- DROP-GROUP (R32). -/
def dropGroup (body : List Byte) (s : State) : State × Answer :=
  match body with
  | [g1, g0] =>
    let g := be2 g1 g0
    if groupCount ≤ g then (s, .refused .outOfRange)
    else
      match s.groups.get g with
      | none => (s, .refused .noSuchRecord)
      | some r =>
        if r.members ≠ [] then (s, .refused .notEmpty)
        else (writeItem (.group g) { s with groups := s.groups.drop g }, .done [])
  | _ => (s, .refused .badLength)

/-- READ-GROUP (R33). -/
def readGroup (body : List Byte) (s : State) : State × Answer :=
  match body with
  | [g1, g0, f] =>
    let g := be2 g1 g0
    match flagOf f with
    | none => (s, .refused .outOfRange)
    | some next =>
      if groupCount ≤ g then (s, .refused .outOfRange)
      else
        match if next then s.groups.atOrAbove g else (s.groups.get g).map fun r => (g, r) with
        | none => (s, .refused .noSuchRecord)
        | some (h, r) => (s, .done (groupBytes h r))
  | _ => (s, .refused .badLength)

end Sys2Proof.Machine
end

