-- ==== Sys2Proof/Machine/Control.lean ====
section
/-! DEFINITION. Scheduler control and the EMG line, the parameters, the takes of results and notices, the notice mask,
STATUS and IDENT (07_scheduler_states_and_campus_emergency.md, 09_results_and_notices.md, 10_the_host_link.md 10.4,
10.5). -/

namespace Sys2Proof.Machine

/-! ### Scheduler control -/

/-- An EMG assertion reaches the scheduler (R149, R150, R151). The slots are recalled in ascending number, which fixes the
order of their STOPs on a branch (the model's choice, assumption log 26). -/
def emgAsserts (s : State) : State :=
  match s.sched with
  | .suspended | .active =>
    let t := recallAll .emergency s.slots.keys { s with resumeTo := s.sched, sched := .emergency }
    raise (.emergencyEntered s.sched (occupied s) false) t
  | .recovery =>
    raise (.emergencyEntered s.resumeTo (occupied s) true) { s with sched := .emergency, recovery := none }
  | .emergency => s

/-- An EMG release reaches the scheduler (R152). -/
def emgReleases (s : State) : State :=
  if s.sched = .emergency then { s with sched := .recovery, recovery := some (s.params.recoveryHoldOff * 60) } else s

/-- The level of the EMG line changes; the kept level is set before the event's rule acts (R148). -/
def emgChanges (asserted : Bool) (s : State) : State :=
  if s.emgLine = asserted then s
  else
    let t := { s with emgLine := asserted, emgKept := asserted }
    if asserted then emgAsserts t else emgReleases t

/-- The recovery hold-off timer expires (R153). -/
def recoveryExpires (s : State) : State :=
  if s.sched = .recovery ∧ s.recovery = some 0 then
    triggerIf (decide (s.resumeTo = .active))
      (raise (.emergencyCleared s.resumeTo) { s with sched := s.resumeTo, recovery := none })
  else s

/-- The reply of SCHED-START and SCHED-SUSPEND. -/
def schedReply (s : State) : Answer := .done [s.sched.code, s.resumeTo.code]

/-- The scheduler after SCHED-START (R146). -/
def schedStarted (s : State) : State :=
  match s.sched with
  | .suspended => triggerPass { s with sched := .active, resumeTo := .active }
  | .active => s
  | _ => { s with resumeTo := .active }

/-- SCHED-START (R146). -/
def schedStart (body : List Byte) (s : State) : State × Answer :=
  match body with
  | [] => (schedStarted s, schedReply (schedStarted s))
  | _ => (s, .refused .badLength)

/-- The scheduler after SCHED-SUSPEND (R147). -/
def schedSuspended (s : State) : State :=
  match s.sched with
  | .suspended => s
  | .active => { s with sched := .suspended, resumeTo := .suspended }
  | _ => { s with resumeTo := .suspended }

/-- SCHED-SUSPEND (R147). -/
def schedSuspend (body : List Byte) (s : State) : State × Answer :=
  match body with
  | [] => (schedSuspended s, schedReply (schedSuspended s))
  | _ => (s, .refused .badLength)

/-! ### Parameters -/

/-- A parameter's number and index name one of the table (R200). -/
def isParam (num index : Nat) : Bool := if num = 7 ∨ num = 8 then index < 8 else num < 14 && index == 0

/-- The value a parameter holds. -/
def Params.value (p : Params) (num index : Nat) : Int :=
  match num with
  | 0 => p.supervisionInterval
  | 1 => p.answerTimeout
  | 2 => p.rechargePeriod
  | 3 => p.startHoldOff
  | 4 => p.guardMargin
  | 5 => p.overdueGrace
  | 6 => p.campaignShare
  | 7 => (p.concurrency[index]?).getD 0
  | 8 => if (p.autoDisable[index]?).getD false then 1 else 0
  | 9 => p.coldNormal
  | 10 => p.normalWarm
  | 11 => p.warmHot
  | 12 => p.hysteresis
  | _ => p.recoveryHoldOff

/-- The range of a parameter (R200). -/
def paramRange (num : Nat) : Int × Int :=
  match num with
  | 0 => (15, 600)
  | 1 => (10, 250)
  | 2 => (12, 72)
  | 3 => (1, 24)
  | 4 => (0, 120)
  | 5 => (0, 90)
  | 6 => (0, 48)
  | 7 => (1, 16)
  | 8 => (0, 1)
  | 9 => (-20, 60)
  | 10 => (-20, 60)
  | 11 => (-20, 60)
  | 12 => (1, 10)
  | _ => (5, 240)

/-- The parameters with one value replaced. -/
def Params.put (p : Params) (num index : Nat) (v : Int) : Params :=
  match num with
  | 0 => { p with supervisionInterval := v.toNat }
  | 1 => { p with answerTimeout := v.toNat }
  | 2 => { p with rechargePeriod := v.toNat }
  | 3 => { p with startHoldOff := v.toNat }
  | 4 => { p with guardMargin := v.toNat }
  | 5 => { p with overdueGrace := v.toNat }
  | 6 => { p with campaignShare := v.toNat }
  | 7 => { p with concurrency := p.concurrency.setIfInBounds index v.toNat }
  | 8 => { p with autoDisable := p.autoDisable.setIfInBounds index (v == 1) }
  | 9 => { p with coldNormal := v }
  | 10 => { p with normalWarm := v }
  | 11 => { p with warmHot := v }
  | 12 => { p with hysteresis := v }
  | _ => { p with recoveryHoldOff := v.toNat }

/-- The three thresholds are in strictly ascending order (R25). -/
def Params.ordered (p : Params) : Bool := p.coldNormal < p.normalWarm && p.normalWarm < p.warmHot

/-- SET-PARAM is taken with this value (R200, R25). -/
def paramAdmits (p : Params) (num index : Nat) (v : Int) : Bool :=
  isParam num index && (paramRange num).1 ≤ v && v ≤ (paramRange num).2 && (p.put num index v).ordered

/-- Raising the campaign share or a concurrency limit is a trigger (R71, R78). -/
def raisesRoom (num : Nat) (before now : Int) : Bool := (num == 6 || num == 7) && before < now

/-- A new overdue grace moves every threshold at once, and those it places at or before now arrive (R84), in ascending
luminaire number, which decides the order of their notices (the model's choice, assumption log 3). -/
def graceMoved (s : State) : State := s.luminaires.keys.foldl (fun t n => checkOverdue n t) s

/-- The part after parameter `num` takes value `v` (R200). The parameter is written before a new grace raises its notices (the
model's choice, assumption log 26). -/
def paramSet (num index : Nat) (v : Int) (s : State) : State :=
  let before := s.params.value num index
  let t := writeItem .params { s with params := s.params.put num index v }
  let u := if num = 5 ∧ before ≠ v then graceMoved t else t
  triggerIf (raisesRoom num before v) u

/-- SET-PARAM (R200). -/
def setParam (body : List Byte) (s : State) : State × Answer :=
  match body with
  | [num, index, v1, v0] =>
    let v := beInt2 v1 v0
    if paramAdmits s.params num.toNat index.toNat v then
      (paramSet num.toNat index.toNat v s,
        .done ([num, index] ++ s16 (s.params.value num.toNat index.toNat) ++ s16 v))
    else (s, .refused .outOfRange)
  | _ => (s, .refused .badLength)

/-- GET-PARAM (R201). -/
def getParam (body : List Byte) (s : State) : State × Answer :=
  match body with
  | [num, index] =>
    if isParam num.toNat index.toNat then
      (s, .done ([num, index] ++ s16 (s.params.value num.toNat index.toNat)))
    else (s, .refused .outOfRange)
  | _ => (s, .refused .badLength)

/-! ### Results and notices -/

/-- The part after a take of `k` results (R182): a take that removes at least one is written and is a trigger. -/
def resultsTaken (k : Nat) (s : State) : State :=
  if s.results = [] then s
  else triggerPass (writeItem .results (followAttn { s with results := s.results.drop k }))

/-- TAKE-RESULTS (R182, R183). -/
def takeResults (body : List Byte) (s : State) : State × Answer :=
  match body with
  | [k] =>
    if k.toNat = 0 ∨ 4 < k.toNat then (s, .refused .outOfRange)
    else (resultsTaken k.toNat s, .done (recordsBody ((s.results.take k.toNat).map ResultRecord.bytes)))
  | _ => (s, .refused .badLength)

/-- The part after a take of `k` notices (R189). -/
def noticesTaken (k : Nat) (s : State) : State := followAttn { s with outbox := s.outbox.drop k }

/-- TAKE-NOTICES (R189). -/
def takeNotices (body : List Byte) (s : State) : State × Answer :=
  match body with
  | [k] =>
    if k.toNat = 0 ∨ 8 < k.toNat then (s, .refused .outOfRange)
    else (noticesTaken k.toNat s, .done (recordsBody ((s.outbox.take k.toNat).map Notice.bytes)))
  | _ => (s, .refused .badLength)

/-- SET-NOTICE-MASK (R187): the three bytes are one number, most significant byte first (assumption log 8). -/
def setNoticeMask (body : List Byte) (s : State) : State × Answer :=
  match body with
  | [a, b, c] =>
    let m := a.toNat * 65536 + be2 b c
    if 524288 ≤ m then (s, .refused .outOfRange)
    else (writeItem .mask { s with mask := BitVec.ofNat 24 m }, .done [])
  | _ => (s, .refused .badLength)

/-- READ-NOTICE-MASK (R187). -/
def readNoticeMask (body : List Byte) (s : State) : State × Answer :=
  match body with
  | [] => (s, .done [s.mask.extractLsb' 16 8, s.mask.extractLsb' 8 8, s.mask.extractLsb' 0 8])
  | _ => (s, .refused .badLength)

/-! ### STATUS and IDENT -/

/-- STATUS (R198): once the reply has been formed, notices-lost is set to no (R188). -/
def status (body : List Byte) (s : State) : State × Answer :=
  match body with
  | [] => ({ s with noticesLost := false }, .done (statusBytes s))
  | _ => (s, .refused .badLength)

/-- IDENT's reply: BASKENDA, SV-4120, silicon revision 3 (R199). -/
def identBytes : List Byte :=
  [8, 0x42, 0x41, 0x53, 0x4B, 0x45, 0x4E, 0x44, 0x41, 7, 0x53, 0x56, 0x2D, 0x34, 0x31, 0x32, 0x30, 3]

/-- IDENT (R199). -/
def ident (body : List Byte) (s : State) : State × Answer :=
  match body with
  | [] => (s, .done identBytes)
  | _ => (s, .refused .badLength)

end Sys2Proof.Machine
end

