-- ==== Sys2Proof/Machine/StartUp.lean ====
section
/-! DEFINITION. The store image's check, start-up, the open-marker recall, RESTART, RESET and loss of supply
(11_persistent_store_and_start_up.md). -/

namespace Sys2Proof.Machine

/-! ### The image check (R208) -/

/-- A campus time within range. -/
def isCampus (t : Nat) : Bool := t ≤ maxCampus

/-- A last result within range (R1). -/
def LastResult.inRange (r : LastResult) : Bool :=
  isCampus r.completion && r.elapsed < 65536 && r.endVoltage.all fun v => v ≤ 20000

/-- A recharge until within range (R1). -/
def Recharge.inRange : Recharge → Bool
  | .until t => isCampus t
  | .pending => true

/-- A luminaire item within range (R1, R206). -/
def StoredLuminaire.inRange (i : StoredLuminaire) : Bool :=
  i.branch < 8 && 0 < i.node && i.node < 512 && i.cls < 8 && groupsInRange i.groups && isCampus i.due
    && i.holdOff.all isCampus && i.recharge.all Recharge.inRange && i.lastResult.all LastResult.inRange
    && i.storedStart.all isCampus

/-- A window entry within range (R49). -/
def WindowEntry.inRange (e : WindowEntry) : Bool := e.days != 0 && e.modes != 0 && e.start < 1440 && e.stop < 1440

/-- A blackout entry within range (R51). -/
def Blackout.inRange (e : Blackout) : Bool := isCampus e.stop && e.start < e.stop

/-- An origin within range (R180). -/
def Origin.inRange : Origin → Bool
  | .campaign _ e r => e < 64 && r < 4294967296
  | _ => true

/-- A result record within range (R180). -/
def ResultRecord.inRange (r : ResultRecord) : Bool :=
  r.number < 65536 && r.luminaire < luminairePositions && r.branch < 8 && 0 < r.node && r.node < 512
    && r.origin.inRange && r.startTime.all isCampus && r.endTime.all isCampus && r.elapsed < 65536
    && (r.endVoltage.all fun v => v ≤ 20000) && (r.bandAtStart == .normal || r.bandAtStart == .warm || r.bandAtStart == .unknown)

/-- Every parameter's number and index (R200). -/
def paramPlaces : List (Nat × Nat) :=
  [(0, 0), (1, 0), (2, 0), (3, 0), (4, 0), (5, 0), (6, 0), (9, 0), (10, 0), (11, 0), (12, 0), (13, 0)]
    ++ (List.range 8).map (fun b => (7, b)) ++ (List.range 8).map (fun b => (8, b))

/-- The parameters are within range and the thresholds in order (R200, R25). -/
def Params.inRange (p : Params) : Bool :=
  p.ordered && paramPlaces.all fun (num, index) =>
    (paramRange num).1 ≤ p.value num index && p.value num index ≤ (paramRange num).2

/-- No two used luminaire items have the same branch and node (R208). -/
def addressesDiffer (t : Table StoredLuminaire) : Bool :=
  decide ((t.map fun p => (p.2.branch, p.2.node)).Nodup)

/-- No luminaire names a group held as undefined (R40, R208). -/
def namesDefined (m : Image) : Bool := m.luminaires.all fun p => p.2.groups.all fun g => m.groups.has g

/-- No group is named by more than 64 luminaires (R208). -/
def groupsFit (m : Image) : Bool :=
  m.groups.all fun q => (m.luminaires.filter fun p => p.2.groups.contains q.1).length ≤ groupRoom

/-- The image passes its check (R208). -/
def imageOk (m : Image) : Bool :=
  m.damaged.isEmpty
    && (m.luminaires.all fun p => p.1 < luminairePositions && p.2.inRange)
    && m.classes.toList.all TestClass.inRange
    && (m.groups.all fun p => p.1 < groupCount && 0 < p.2 && p.2 ≤ 15)
    && (m.windows.all fun p => p.1 < 32 && p.2.inRange)
    && (m.blackouts.all fun p => p.1 < 24 && p.2.inRange)
    && m.params.inRange && m.mask.toNat < 524288 && m.counter < 65536
    && m.results.all ResultRecord.inRange && m.results.length ≤ resultRoom
    && addressesDiffer m.luminaires && namesDefined m && groupsFit m

/-! ### Taking values from an image -/

/-- The state that a stored luminaire is rebuilt with (R2). One in service is rebuilt as IDLE: while time quality is UNSET
that is what its due time gives (R6), and at a RESTART with time known a due time already reached arrives after the rebuild
(R211, `restarts`) and makes it DUE, with the trigger of R61. -/
def ServiceCondition.state : ServiceCondition → LumState
  | .outOfService => .outOfService
  | .recharging => .recharging
  | .inService => .idle

/-- The record a luminaire item restores, volatile fields at their start-up values (R2), the overdue watch armed where
overdue reported is no (R62). -/
def restored (i : StoredLuminaire) : Luminaire where
  branch := Fin.ofNat 8 i.branch
  node := i.node
  cls := Fin.ofNat 8 i.cls
  groups := i.groups
  state := i.service.state
  due := i.due
  holdOff := i.holdOff
  recharge := i.recharge
  latches := i.latches
  lastResult := i.lastResult
  overdueReported := i.overdueReported
  openMarker := i.openMarker
  watchArmed := !i.overdueReported

/-- A branch after start-up: OFF if the image holds it so, READY otherwise (R157). -/
def startedBranch (off : Bool) : Branch := { state := if off then .off else .ready, hostOff := off }

/-- Every persistent field takes its value from an image (R208). Member lists and dark counts are rebuilt later (R40). -/
def takeImage (m : Image) (s : State) : State :=
  { s with
    luminaires := m.luminaires.mapValues fun _ i => restored i
    classes := m.classes
    groups := m.groups.mapValues fun _ cap => ⟨cap, [], 0⟩
    windows := m.windows
    blackouts := m.blackouts
    mode := m.mode
    params := m.params
    mask := m.mask
    branches := Vector.ofFn fun b => startedBranch m.branchOff[b]
    results := m.results
    resultCounter := m.counter }

/-! ### The blank image -/

/-- Every item of the image, in the order of R206. -/
def allItems : List Item :=
  [(List.range luminairePositions).map Item.luminaire, (List.range 8).map Item.cls, (List.range groupCount).map Item.group,
    (List.range 32).map Item.window, (List.range 24).map Item.blackout, [Item.mode, Item.params, Item.mask],
    (List.range 8).map Item.branch, [Item.results]].flatten

/-- The blank image, but item `i` keeps what the old image held of it. -/
def keepItem (old : Image) (m : Image) (i : Item) : Image :=
  let m := if old.damaged.contains i then { m with damaged := m.damaged ++ [i] } else m
  match i with
  | .luminaire n => { m with luminaires := m.luminaires.set n (old.luminaires.get n) }
  | .cls n => { m with classes := m.classes.setIfInBounds n (old.classes[n]?.getD {}) }
  | .group n => { m with groups := m.groups.set n (old.groups.get n) }
  | .window n => { m with windows := m.windows.set n (old.windows.get n) }
  | .blackout n => { m with blackouts := m.blackouts.set n (old.blackouts.get n) }
  | .mode => { m with mode := old.mode }
  | .params => { m with params := old.params }
  | .mask => { m with mask := old.mask }
  | .branch n => { m with branchOff := m.branchOff.setIfInBounds n (old.branchOff[n]?.getD false) }
  | .results => { m with results := old.results, counter := old.counter }

/-- The items whose blank write fails, by the fates of the coming writes. -/
def blankFailures (fates : List Bool) : List Item :=
  ((fates.zip allItems).filter fun p => p.1).map Prod.snd

/-- A blank image is written in full; STORE-FAULT for the first item that failed (R208; granularity: assumption log 37). -/
def writeBlank (s : State) : State :=
  let failed := blankFailures s.writeFates
  let t := { s with
    image := failed.foldl (keepItem s.image) {}
    lastWrites := [s.image]
    writeFates := s.writeFates.drop allItems.length
    storeState := if failed = [] then .blank else .fault }
  match failed with
  | [] => t
  | i :: _ => raise (.storeFault i) t

/-! ### Start-up -/

/-- The part with every volatile field at its start-up value (R209, R205) and nothing taken from the image yet. Campus time,
time quality and the staleness timer are kept by RESTART alone (R211). -/
def fresh (keepTime : Bool) (s : State) : State :=
  let base : State :=
    { pending := s.pending, emgLine := s.emgLine, image := s.image, writeFates := s.writeFates, lastWrites := s.lastWrites
      writeFailed := s.writeFailed }
  if keepTime then
    { base with campus := s.campus, quality := s.quality, staleness := s.staleness, ownCount := s.ownCount }
  else base

/-- The image is loaded and checked; persistent fields take its values, or blank ones (R208). -/
def loadImage (s : State) : State :=
  if imageOk s.image then takeImage s.image { s with storeState := .ok } else writeBlank (takeImage {} s)

/-- A LOST record of the start-up recall (R180, R210). -/
def lostRecord (s : State) (n : Nat) (l : Luminaire) (start : Option Nat) : ResultRecord where
  number := s.resultCounter
  luminaire := n
  branch := l.branch
  node := l.node
  origin := .unknown
  outcome := .lost
  startTime := start
  endTime := none
  elapsed := 0
  endVoltage := none
  bandAtStart := .unknown

/-- The open-marker recall of one luminaire (R210). -/
def recallMarked (m : Image) (s : State) (n : Nat) : State :=
  match s.luminaires.get n with
  | none => s
  | some l =>
    if l.openMarker then
      let start := (m.luminaires.get n).bind StoredLuminaire.storedStart
      let s1 := if s.results.length < resultRoom then addResult (lostRecord s n l start) s else s
      let l' := { l.enter .recharging with openMarker := false, recharge := some .pending }
      let s2 := writeItem (.luminaire n) { s1 with luminaires := s1.luminaires.put n l' }
      offer l.branch (stopExchange l.node n .recall false) s2
    else s

/-- The open-marker recall, in ascending luminaire number (R210). -/
def recallMarkers (s : State) : State := s.luminaires.keys.foldl (recallMarked s.image) s

/-- A group's record rebuilt from the luminaire records (R40). -/
def rebuiltGroup (t : Table Luminaire) (g : Nat) (r : Group) : Group where
  cap := r.cap
  members := (t.filter fun p => p.2.groups.contains g).map Prod.fst
  dark := (t.filter fun p => p.2.groups.contains g && p.2.dark).length

/-- The schedule list rebuilt from the luminaire records (R59). -/
def rebuiltSchedule (t : Table Luminaire) : List Nat :=
  (t.filter fun p => p.2.state.waits).foldl (fun list p => insertDue t p.2.due p.1 list) []

/-- Member lists, dark counts and the schedule list are rebuilt (R40, R59). -/
def rebuild (s : State) : State :=
  { s with groups := s.groups.mapValues (rebuiltGroup s.luminaires), schedule := rebuiltSchedule s.luminaires }

/-- The EMG line is read, and an assertion is taken if it is asserted (R144). -/
def readEmg (s : State) : State :=
  let t := { s with emgKept := s.emgLine }
  if s.emgLine then emgAsserts t else t

/-- Start-up, from power-on or the release of RESET (R208, R209, R210). None of its steps is a trigger. -/
def startsUp (s : State) : State :=
  { followAttn (readEmg (rebuild (recallMarkers (loadImage (fresh false s))))) with trigger := false }

/-- The restart that follows RESTART's reply (R211). -/
def restarts (s : State) : State :=
  let t := rebuild (recallMarkers (loadImage (fresh true s)))
  let u := if t.quality = .unset then t else resolveAllPending t
  followAttn (readEmg (evaluateWindow (allInstantsArrive u)))

/-! ### RESET and loss of supply -/

/-- The image when the last `cut` of the last event's writes were interrupted before they landed (R206; assumption
log 7). -/
def cutImage (cut : Nat) (s : State) : Image :=
  match cut with
  | 0 => s.image
  | k + 1 => (s.lastWrites[k]?).getD (s.lastWrites.getLast?.getD s.image)

/-- The part stops: every request, exchange and timer in progress is abandoned; only the store and the lines' levels remain
(R205, R206, R208; the values shown meanwhile: assumption log 33). -/
def stops (ph : Phase) (cut : Nat) (s : State) : State :=
  { fresh false s with
    phase := ph, resetLine := s.resetLine, image := cutImage cut s, lastWrites := [], writeFailed := false }

/-- RESET is asserted (R208). Without supply only the line's level changes. -/
def resetAsserts (cut : Nat) (s : State) : State :=
  if s.phase = .operating then { stops .inReset cut s with resetLine := true } else { s with resetLine := true }

/-- The supply is lost (R206). -/
def losesPower (cut : Nat) (s : State) : State :=
  if s.phase = .operating then stops .unpowered cut s else { s with phase := .unpowered }

end Sys2Proof.Machine
end

