-- ==== Sys2Proof/Machine/Link.lean ====
section
/-! DEFINITION. The host link: the receiver, the order of checks, handing a request to its owner, held frames, replies and
the restart that follows one (10_the_host_link.md). -/

namespace Sys2Proof.Machine

/-- RESTART is answered DONE; the restart waits for its reply to be sent (R205, R211). -/
def restart (body : List Byte) (s : State) : State × Answer :=
  match body with
  | [] => ({ s with restartWaiting := true }, .done [])
  | _ => (s, .refused .badLength)

/-- The owner of a kind code of the request catalogue (R194). The tag matters to NODE-EXCHANGE alone, whose reply comes
later. -/
def ownerOf (kind : Nat) (tag : Byte) : Option (List Byte → State → State × Answer) :=
  match kind with
  | 0x01 => some status
  | 0x02 => some ident
  | 0x03 => some setParam
  | 0x04 => some getParam
  | 0x10 => some enrol
  | 0x11 => some withdraw
  | 0x12 => some amend
  | 0x13 => some setDue
  | 0x14 => some setOutOfService
  | 0x15 => some returnToService
  | 0x16 => some clearFaults
  | 0x17 => some readLuminaire
  | 0x18 => some setClass
  | 0x19 => some readClass
  | 0x20 => some defineGroup
  | 0x21 => some dropGroup
  | 0x22 => some readGroup
  | 0x30 => some setTime
  | 0x31 => some setWindow
  | 0x32 => some clearWindow
  | 0x33 => some readWindow
  | 0x34 => some setBlackout
  | 0x35 => some clearBlackout
  | 0x36 => some readBlackout
  | 0x37 => some setMode
  | 0x38 => some readCalendar
  | 0x40 => some readSlot
  | 0x41 => some stopTest
  | 0x50 => some campaignLoad
  | 0x51 => some campaignStart
  | 0x52 => some campaignPause
  | 0x53 => some campaignResume
  | 0x54 => some campaignStop
  | 0x55 => some setStopPosition
  | 0x56 => some campaignStatus
  | 0x60 => some schedStart
  | 0x61 => some schedSuspend
  | 0x70 => some branchEnable
  | 0x71 => some branchDisable
  | 0x72 => some branchDirectEnter
  | 0x73 => some branchDirectLeave
  | 0x74 => some (nodeExchange tag)
  | 0x75 => some branchStatus
  | 0x80 => some takeResults
  | 0x81 => some takeNotices
  | 0x82 => some setNoticeMask
  | 0x83 => some readNoticeMask
  | 0x90 => some restart
  | _ => none

/-- The link takes a complete frame: its three checks, then the owner (R194). -/
def takeFrame (f : Frame) (s : State) : State :=
  if s.service.isSome then reply ⟨true, f.tag, [Reason.linkBusy.code]⟩ s
  else
    match ownerOf f.kind.toNat f.tag with
    | none => reply ⟨true, f.tag, [Reason.unknownKind.code]⟩ s
    | some owner => answer f.tag (owner f.body s)

/-- A frame is complete: it is taken, held, or discarded for want of room (R192, R194). A length byte above 248 cannot lead
to a complete frame. -/
def frameComplete (f : Frame) (s : State) : State :=
  if maxBody < f.body.length then { s with receiver := .hunt }
  else
    let t := { s with receiver := .hunt }
    if s.sending.isNone then takeFrame f t else if s.held.isNone then { t with held := some f } else t

/-- A frame is discarded without reply (R192). -/
def frameDiscards (bytes : List Byte) (s : State) : State :=
  if discardable bytes then { s with receiver := .hunt } else s

/-- 20 ms pass without a byte inside a frame (R192). -/
def frameGap (s : State) : State := { s with receiver := .hunt }

/-- In HUNT a byte A5h starts a frame and any other is ignored (R192). -/
def byteInHunt (x : Byte) (s : State) : State :=
  if s.receiver = .hunt ∧ x = 0xA5 then { s with receiver := .frame } else s

/-- The held frame, if there is one, is taken (R194). -/
def takeHeld (s : State) : State :=
  match s.held with
  | some f => takeFrame f { s with held := none }
  | none => s

/-- The last byte of a reply leaves LINK-TX: the restart that waits for it, else the next reply that is ready, else the held
frame (R194, R195, R196, R205). A frame held while RESTART's reply goes out is lost with the restart and not taken before it
(the model's choice between R194 and R205, assumption log 49). -/
def replyLeaves (s : State) : State :=
  if s.sending.isNone then s
  else if s.restartWaiting then restarts s
  else
    match s.ready with
    | r :: rest => { s with sending := some r, ready := rest }
    | [] => takeHeld { s with sending := none }

end Sys2Proof.Machine
end

