-- ==== Sys2Proof/Machine/Requests.lean ====
section
/-! DEFINITION. One meaning for each host request and for the other events of the host link: the request's complete frame
arrives (10_the_host_link.md). What the request does is its owner's definition, which `ownerOf` finds by the kind code. -/

namespace Sys2Proof.Machine

/-- A complete request frame of a kind code arrives. -/
def request (kind : Nat) (tag : Byte) (body : List Byte) (s : State) : Step :=
  event (frameComplete ⟨BitVec.ofNat 8 kind, tag, body⟩) s

/-- STATUS (R198). -/
def execStatus (tag : Byte) (body : List Byte) (s : State) : Step := request 0x01 tag body s

/-- IDENT (R199). -/
def execIdent (tag : Byte) (body : List Byte) (s : State) : Step := request 0x02 tag body s

/-- SET-PARAM (R200). -/
def execSetParam (tag : Byte) (body : List Byte) (s : State) : Step := request 0x03 tag body s

/-- GET-PARAM (R201). -/
def execGetParam (tag : Byte) (body : List Byte) (s : State) : Step := request 0x04 tag body s

/-- ENROL (R5, R6). -/
def execEnrol (tag : Byte) (body : List Byte) (s : State) : Step := request 0x10 tag body s

/-- WITHDRAW (R7). -/
def execWithdraw (tag : Byte) (body : List Byte) (s : State) : Step := request 0x11 tag body s

/-- AMEND (R9, R10, R11). -/
def execAmend (tag : Byte) (body : List Byte) (s : State) : Step := request 0x12 tag body s

/-- SET-DUE (R12). -/
def execSetDue (tag : Byte) (body : List Byte) (s : State) : Step := request 0x13 tag body s

/-- SET-OUT-OF-SERVICE (R13, R14). -/
def execSetOutOfService (tag : Byte) (body : List Byte) (s : State) : Step := request 0x14 tag body s

/-- RETURN-TO-SERVICE (R15). -/
def execReturnToService (tag : Byte) (body : List Byte) (s : State) : Step := request 0x15 tag body s

/-- CLEAR-FAULTS (R22). -/
def execClearFaults (tag : Byte) (body : List Byte) (s : State) : Step := request 0x16 tag body s

/-- READ-LUMINAIRE (R26). -/
def execReadLuminaire (tag : Byte) (body : List Byte) (s : State) : Step := request 0x17 tag body s

/-- SET-CLASS (R17). -/
def execSetClass (tag : Byte) (body : List Byte) (s : State) : Step := request 0x18 tag body s

/-- READ-CLASS (R16). -/
def execReadClass (tag : Byte) (body : List Byte) (s : State) : Step := request 0x19 tag body s

/-- DEFINE-GROUP (R30, R31). -/
def execDefineGroup (tag : Byte) (body : List Byte) (s : State) : Step := request 0x20 tag body s

/-- DROP-GROUP (R32). -/
def execDropGroup (tag : Byte) (body : List Byte) (s : State) : Step := request 0x21 tag body s

/-- READ-GROUP (R33). -/
def execReadGroup (tag : Byte) (body : List Byte) (s : State) : Step := request 0x22 tag body s

/-- SET-TIME (R45, R46). -/
def execSetTime (tag : Byte) (body : List Byte) (s : State) : Step := request 0x30 tag body s

/-- SET-WINDOW (R50). -/
def execSetWindow (tag : Byte) (body : List Byte) (s : State) : Step := request 0x31 tag body s

/-- CLEAR-WINDOW (R50). -/
def execClearWindow (tag : Byte) (body : List Byte) (s : State) : Step := request 0x32 tag body s

/-- READ-WINDOW (R50). -/
def execReadWindow (tag : Byte) (body : List Byte) (s : State) : Step := request 0x33 tag body s

/-- SET-BLACKOUT (R51). -/
def execSetBlackout (tag : Byte) (body : List Byte) (s : State) : Step := request 0x34 tag body s

/-- CLEAR-BLACKOUT (R51). -/
def execClearBlackout (tag : Byte) (body : List Byte) (s : State) : Step := request 0x35 tag body s

/-- READ-BLACKOUT (R51). -/
def execReadBlackout (tag : Byte) (body : List Byte) (s : State) : Step := request 0x36 tag body s

/-- SET-MODE (R56). -/
def execSetMode (tag : Byte) (body : List Byte) (s : State) : Step := request 0x37 tag body s

/-- READ-CALENDAR (R58). -/
def execReadCalendar (tag : Byte) (body : List Byte) (s : State) : Step := request 0x38 tag body s

/-- READ-SLOT (R87). -/
def execReadSlot (tag : Byte) (body : List Byte) (s : State) : Step := request 0x40 tag body s

/-- STOP-TEST (R118). -/
def execStopTest (tag : Byte) (body : List Byte) (s : State) : Step := request 0x41 tag body s

/-- CAMPAIGN-LOAD (R123). -/
def execCampaignLoad (tag : Byte) (body : List Byte) (s : State) : Step := request 0x50 tag body s

/-- CAMPAIGN-START (R124, R125). -/
def execCampaignStart (tag : Byte) (body : List Byte) (s : State) : Step := request 0x51 tag body s

/-- CAMPAIGN-PAUSE (R138). -/
def execCampaignPause (tag : Byte) (body : List Byte) (s : State) : Step := request 0x52 tag body s

/-- CAMPAIGN-RESUME (R139, R140). -/
def execCampaignResume (tag : Byte) (body : List Byte) (s : State) : Step := request 0x53 tag body s

/-- CAMPAIGN-STOP (R141, R142). -/
def execCampaignStop (tag : Byte) (body : List Byte) (s : State) : Step := request 0x54 tag body s

/-- SET-STOP-POSITION (R135). -/
def execSetStopPosition (tag : Byte) (body : List Byte) (s : State) : Step := request 0x55 tag body s

/-- CAMPAIGN-STATUS (R143). -/
def execCampaignStatus (tag : Byte) (body : List Byte) (s : State) : Step := request 0x56 tag body s

/-- SCHED-START (R146). -/
def execSchedStart (tag : Byte) (body : List Byte) (s : State) : Step := request 0x60 tag body s

/-- SCHED-SUSPEND (R147). -/
def execSchedSuspend (tag : Byte) (body : List Byte) (s : State) : Step := request 0x61 tag body s

/-- BRANCH-ENABLE (R172). -/
def execBranchEnable (tag : Byte) (body : List Byte) (s : State) : Step := request 0x70 tag body s

/-- BRANCH-DISABLE (R171). -/
def execBranchDisable (tag : Byte) (body : List Byte) (s : State) : Step := request 0x71 tag body s

/-- BRANCH-DIRECT-ENTER (R173). -/
def execBranchDirectEnter (tag : Byte) (body : List Byte) (s : State) : Step := request 0x72 tag body s

/-- BRANCH-DIRECT-LEAVE (R176). -/
def execBranchDirectLeave (tag : Byte) (body : List Byte) (s : State) : Step := request 0x73 tag body s

/-- NODE-EXCHANGE (R174). -/
def execNodeExchange (tag : Byte) (body : List Byte) (s : State) : Step := request 0x74 tag body s

/-- BRANCH-STATUS (R177). -/
def execBranchStatus (tag : Byte) (body : List Byte) (s : State) : Step := request 0x75 tag body s

/-- TAKE-RESULTS (R182). -/
def execTakeResults (tag : Byte) (body : List Byte) (s : State) : Step := request 0x80 tag body s

/-- TAKE-NOTICES (R189). -/
def execTakeNotices (tag : Byte) (body : List Byte) (s : State) : Step := request 0x81 tag body s

/-- SET-NOTICE-MASK (R187). -/
def execSetNoticeMask (tag : Byte) (body : List Byte) (s : State) : Step := request 0x82 tag body s

/-- READ-NOTICE-MASK (R187). -/
def execReadNoticeMask (tag : Byte) (body : List Byte) (s : State) : Step := request 0x83 tag body s

/-- RESTART (R211). -/
def execRestart (tag : Byte) (body : List Byte) (s : State) : Step := request 0x90 tag body s

/-- UNKNOWN_KIND: a complete frame whose kind byte is not in the catalogue (R194). -/
def execUnknownKind (kind tag : Byte) (body : List Byte) (s : State) : Step := event (frameComplete ⟨kind, tag, body⟩) s

/-- FRAME_HELD: a complete frame that arrives while a reply is being sent (R194). -/
def execFrameHeld (kind tag : Byte) (body : List Byte) (s : State) : Step := event (frameComplete ⟨kind, tag, body⟩) s

/-- FRAME_DISCARDED (R192). -/
def execFrameDiscarded (bytes : List Byte) (s : State) : Step := event (frameDiscards bytes) s

/-- FRAME_GAP_TIMEOUT (R192). -/
def execFrameGapTimeout (s : State) : Step := event frameGap s

/-- START_OF_FRAME (R192). -/
def execStartOfFrame (x : Byte) (s : State) : Step := event (byteInHunt x) s

/-- REPLY_SENT (R194, R196, R205). -/
def execReplySent (s : State) : Step := event replyLeaves s

end Sys2Proof.Machine
end

