-- ==== Sys2Proof/Machine/Events.lean ====
section
/-! DEFINITION. One meaning for each event that is no host request: lines and supply, timers, stored instants, branch lines.
A number that names no luminaire, slot, entry or branch, and an event whose condition does not hold, have no effect
(assumption log 2). -/

namespace Sys2Proof.Machine

/-- An event of branch `n`. -/
def branchEvent (n : Nat) (f : Fin 8 → State → State) (s : State) : Step :=
  event (fun t => match branchOf n with
    | some b => f b t
    | none => t) s

/-! ### Lines and supply -/

/-- The EMG line takes a level; while the part does not operate only the level changes (R148). -/
def emgLevel (asserted : Bool) (s : State) : Step :=
  if s.phase = .operating then event (emgChanges asserted) s else .next { s with emgLine := asserted }

/-- EMG_ASSERTION (R149, R150, R151). -/
def execEmgAssertion (s : State) : Step := emgLevel true s

/-- EMG_RELEASE (R152). -/
def execEmgRelease (s : State) : Step := emgLevel false s

/-- RESET_ASSERTION (R208). -/
def execResetAssertion (cut : Nat) (s : State) : Step := .next (resetAsserts cut s)

/-- START_UP (R208, R209, R210). -/
def execStartUp (s : State) : Step := .next (finish (startsUp (begin s)))

/-- POWER_LOSS (R206). -/
def execPowerLoss (cut : Nat) (s : State) : Step := .next (losesPower cut s)

/-! ### Timers -/

/-- STALENESS_EXPIRY (R47). -/
def execStalenessExpiry (s : State) : Step := event stalenessExpires s

/-- RECOVERY_HOLD_OFF_EXPIRY (R153). -/
def execRecoveryHoldOffExpiry (s : State) : Step := event recoveryExpires s

/-- The luminaire's band lifetime expires: the band becomes UNKNOWN, the band reading time is kept (R24). -/
def bandExpires (n : Nat) (s : State) : State :=
  modLum n (fun l => if l.bandLife = some 0 then { l with band := .unknown, bandLife := none } else l) s

/-- BAND_LIFETIME_EXPIRY (R24). -/
def execBandLifetimeExpiry (luminaire : Nat) (s : State) : Step := event (bandExpires luminaire) s

/-- SUPERVISION_TIMER_EXPIRY (R93, R101). -/
def execSupervisionTimerExpiry (slot : Nat) (s : State) : Step := event (supervisionExpires slot) s

/-- END_TIMER_EXPIRY (R100). -/
def execEndTimerExpiry (slot : Nat) (s : State) : Step := event (endExpires slot) s

/-! ### Stored instants -/

/-- DUE_TIME_ARRIVAL (R61). -/
def execDueTimeArrival (luminaire : Nat) (s : State) : Step := event (dueArrives luminaire) s

/-- OVERDUE_THRESHOLD_ARRIVAL (R63). -/
def execOverdueThresholdArrival (luminaire : Nat) (s : State) : Step := event (checkOverdue luminaire) s

/-- HOLD_OFF_END (R64). -/
def execHoldOffEnd (luminaire : Nat) (s : State) : Step := event (holdOffArrives luminaire) s

/-- RECHARGE_UNTIL_ARRIVAL (R114). -/
def execRechargeUntilArrival (luminaire : Nat) (s : State) : Step := event (rechargeArrives luminaire) s

/-- WINDOW_BOUNDARY_ARRIVAL (R54). -/
def execWindowBoundaryArrival (entry : Nat) (s : State) : Step := event (windowBoundaryArrives entry) s

/-- BLACKOUT_BOUNDARY_ARRIVAL (R54). -/
def execBlackoutBoundaryArrival (entry : Nat) (s : State) : Step := event (blackoutBoundaryArrives entry) s

/-! ### Branch lines -/

/-- ANSWER_TIMEOUT (R164). -/
def execAnswerTimeout (branch : Nat) (s : State) : Step := branchEvent branch answerTimesOut s

/-- NODE_FRAME_BYTE_GAP (R163). -/
def execNodeFrameByteGap (branch : Nat) (s : State) : Step := branchEvent branch answerBreaksOff s

/-- CHATTER_EVENT (R166, R167). -/
def execChatterEvent (branch : Nat) (s : State) : Step := branchEvent branch chatterHappens s

/-- EXCHANGE_SEND (R162). -/
def execExchangeSend (branch : Nat) (s : State) : Step := branchEvent branch sendNext s

/-- NODE_ANSWER_FRAME (R163, R165). -/
def execNodeAnswerFrame (branch : Nat) (bytes : List Byte) (s : State) : Step :=
  branchEvent branch (fun b => answerArrives b bytes) s

/-- ANSWER_FIRST_BYTE (R163). -/
def execAnswerFirstByte (branch : Nat) (s : State) : Step := branchEvent branch answerBegins s

end Sys2Proof.Machine
end

