-- ==== Sys2Proof/Machine/Dispatch.lean ====
section
/-! DEFINITION. One arm per command: each a direct call of its meaning. -/

namespace Sys2Proof.Machine

def exec (i : Instr) (s : State) : Host.Outcome State Fault Refusal :=
  match i with
  | .status tag body => Sys2Proof.Machine.execStatus tag body s
  | .ident tag body => Sys2Proof.Machine.execIdent tag body s
  | .setParam tag body => Sys2Proof.Machine.execSetParam tag body s
  | .getParam tag body => Sys2Proof.Machine.execGetParam tag body s
  | .enrol tag body => Sys2Proof.Machine.execEnrol tag body s
  | .withdraw tag body => Sys2Proof.Machine.execWithdraw tag body s
  | .amend tag body => Sys2Proof.Machine.execAmend tag body s
  | .setDue tag body => Sys2Proof.Machine.execSetDue tag body s
  | .setOutOfService tag body => Sys2Proof.Machine.execSetOutOfService tag body s
  | .returnToService tag body => Sys2Proof.Machine.execReturnToService tag body s
  | .clearFaults tag body => Sys2Proof.Machine.execClearFaults tag body s
  | .readLuminaire tag body => Sys2Proof.Machine.execReadLuminaire tag body s
  | .setClass tag body => Sys2Proof.Machine.execSetClass tag body s
  | .readClass tag body => Sys2Proof.Machine.execReadClass tag body s
  | .defineGroup tag body => Sys2Proof.Machine.execDefineGroup tag body s
  | .dropGroup tag body => Sys2Proof.Machine.execDropGroup tag body s
  | .readGroup tag body => Sys2Proof.Machine.execReadGroup tag body s
  | .setTime tag body => Sys2Proof.Machine.execSetTime tag body s
  | .setWindow tag body => Sys2Proof.Machine.execSetWindow tag body s
  | .clearWindow tag body => Sys2Proof.Machine.execClearWindow tag body s
  | .readWindow tag body => Sys2Proof.Machine.execReadWindow tag body s
  | .setBlackout tag body => Sys2Proof.Machine.execSetBlackout tag body s
  | .clearBlackout tag body => Sys2Proof.Machine.execClearBlackout tag body s
  | .readBlackout tag body => Sys2Proof.Machine.execReadBlackout tag body s
  | .setMode tag body => Sys2Proof.Machine.execSetMode tag body s
  | .readCalendar tag body => Sys2Proof.Machine.execReadCalendar tag body s
  | .readSlot tag body => Sys2Proof.Machine.execReadSlot tag body s
  | .stopTest tag body => Sys2Proof.Machine.execStopTest tag body s
  | .campaignLoad tag body => Sys2Proof.Machine.execCampaignLoad tag body s
  | .campaignStart tag body => Sys2Proof.Machine.execCampaignStart tag body s
  | .campaignPause tag body => Sys2Proof.Machine.execCampaignPause tag body s
  | .campaignResume tag body => Sys2Proof.Machine.execCampaignResume tag body s
  | .campaignStop tag body => Sys2Proof.Machine.execCampaignStop tag body s
  | .setStopPosition tag body => Sys2Proof.Machine.execSetStopPosition tag body s
  | .campaignStatus tag body => Sys2Proof.Machine.execCampaignStatus tag body s
  | .schedStart tag body => Sys2Proof.Machine.execSchedStart tag body s
  | .schedSuspend tag body => Sys2Proof.Machine.execSchedSuspend tag body s
  | .branchEnable tag body => Sys2Proof.Machine.execBranchEnable tag body s
  | .branchDisable tag body => Sys2Proof.Machine.execBranchDisable tag body s
  | .branchDirectEnter tag body => Sys2Proof.Machine.execBranchDirectEnter tag body s
  | .branchDirectLeave tag body => Sys2Proof.Machine.execBranchDirectLeave tag body s
  | .nodeExchange tag body => Sys2Proof.Machine.execNodeExchange tag body s
  | .branchStatus tag body => Sys2Proof.Machine.execBranchStatus tag body s
  | .takeResults tag body => Sys2Proof.Machine.execTakeResults tag body s
  | .takeNotices tag body => Sys2Proof.Machine.execTakeNotices tag body s
  | .setNoticeMask tag body => Sys2Proof.Machine.execSetNoticeMask tag body s
  | .readNoticeMask tag body => Sys2Proof.Machine.execReadNoticeMask tag body s
  | .restart tag body => Sys2Proof.Machine.execRestart tag body s
  | .unknownKind kind tag body => Sys2Proof.Machine.execUnknownKind kind tag body s
  | .frameDiscarded bytes => Sys2Proof.Machine.execFrameDiscarded bytes s
  | .frameGapTimeout => Sys2Proof.Machine.execFrameGapTimeout s
  | .frameHeld kind tag body => Sys2Proof.Machine.execFrameHeld kind tag body s
  | .replySent => Sys2Proof.Machine.execReplySent s
  | .emgAssertion => Sys2Proof.Machine.execEmgAssertion s
  | .emgRelease => Sys2Proof.Machine.execEmgRelease s
  | .resetAssertion cut => Sys2Proof.Machine.execResetAssertion cut s
  | .startUp => Sys2Proof.Machine.execStartUp s
  | .powerLoss cut => Sys2Proof.Machine.execPowerLoss cut s
  | .stalenessExpiry => Sys2Proof.Machine.execStalenessExpiry s
  | .recoveryHoldOffExpiry => Sys2Proof.Machine.execRecoveryHoldOffExpiry s
  | .bandLifetimeExpiry luminaire => Sys2Proof.Machine.execBandLifetimeExpiry luminaire s
  | .supervisionTimerExpiry slot => Sys2Proof.Machine.execSupervisionTimerExpiry slot s
  | .endTimerExpiry slot => Sys2Proof.Machine.execEndTimerExpiry slot s
  | .answerTimeout branch => Sys2Proof.Machine.execAnswerTimeout branch s
  | .nodeFrameByteGap branch => Sys2Proof.Machine.execNodeFrameByteGap branch s
  | .chatterEvent branch => Sys2Proof.Machine.execChatterEvent branch s
  | .dueTimeArrival luminaire => Sys2Proof.Machine.execDueTimeArrival luminaire s
  | .overdueThresholdArrival luminaire => Sys2Proof.Machine.execOverdueThresholdArrival luminaire s
  | .holdOffEnd luminaire => Sys2Proof.Machine.execHoldOffEnd luminaire s
  | .rechargeUntilArrival luminaire => Sys2Proof.Machine.execRechargeUntilArrival luminaire s
  | .windowBoundaryArrival entry => Sys2Proof.Machine.execWindowBoundaryArrival entry s
  | .blackoutBoundaryArrival entry => Sys2Proof.Machine.execBlackoutBoundaryArrival entry s
  | .exchangeSend branch => Sys2Proof.Machine.execExchangeSend branch s
  | .nodeAnswerFrame branch bytes => Sys2Proof.Machine.execNodeAnswerFrame branch bytes s
  | .startOfFrame x => Sys2Proof.Machine.execStartOfFrame x s
  | .answerFirstByte branch => Sys2Proof.Machine.execAnswerFirstByte branch s

end Sys2Proof.Machine
end

