-- ==== Sys2Proof/Machine/Clock.lean ====
section
/-! DEFINITION. What the part does with an empty queue of commands: events shorter than a second that are outstanding come
about, else one second of the own count passes and what it makes due comes about (assumption log 1). -/

namespace Sys2Proof.Machine

/-- A command that comes about when `b` holds. -/
def postIf (b : Bool) (c : Instr) : List Instr := if b then [c] else []

/-- What is outstanding on branch `b`: the end of the wait for an answer, or the next send. -/
def branchPrompts (s : State) (b : Fin 8) : List Instr :=
  let br := s.branches[b]
  match br.inFlight with
  | some f => [if f.receiving then .nodeFrameByteGap b else .answerTimeout b]
  | none => if br.state.works && !br.queue.isEmpty then [.exchangeSend b] else []

/-- Outstanding events that come about within a second: the reply being sent ends, a frame's gap, each branch's next. -/
def prompts (s : State) : List Instr :=
  postIf s.sending.isSome .replySent ++ postIf (s.receiver == .frame) .frameGapTimeout
    ++ (List.finRange 8).flatMap (branchPrompts s)

/-- A running timer counts down; at 0 it has expired. -/
def countDown (t : Option Nat) : Option Nat := t.map fun n => n - 1

/-- One second of the own count: campus time advances, up to its last value (R41), and every timer held in seconds counts
down. -/
def secondPasses (s : State) : State :=
  { s with
    ownCount := s.ownCount + 1
    campus := min (s.campus + 1) maxCampus
    staleness := countDown s.staleness
    recovery := countDown s.recovery
    luminaires := s.luminaires.mapValues fun _ l => { l with bandLife := countDown l.bandLife }
    slots := s.slots.mapValues fun _ sl =>
      { sl with supervision := countDown sl.supervision, endTimer := countDown sl.endTimer }
    lastWrites := [] }

/-- Timers of the luminaires that have expired (R24). -/
def bandExpiries (s : State) : List Instr :=
  (s.luminaires.filter fun p => p.2.bandLife == some 0).map fun p => Instr.bandLifetimeExpiry p.1

/-- Timers of the slots that have expired: end timers, then supervision timers (R100, R93, R101). -/
def slotExpiries (s : State) : List Instr :=
  ((s.slots.filter fun p => p.2.endTimer == some 0).map fun p => Instr.endTimerExpiry p.1)
    ++ ((s.slots.filter fun p => p.2.supervision == some 0).map fun p => Instr.supervisionTimerExpiry p.1)

/-- The timers that have expired (R47, R153). -/
def expiries (s : State) : List Instr :=
  postIf (s.staleness == some 0) .stalenessExpiry ++ postIf (s.recovery == some 0) .recoveryHoldOffExpiry
    ++ bandExpiries s ++ slotExpiries s

/-- The stored instants of one luminaire that campus time has reached (R42). -/
def luminaireArrivals (s : State) (n : Nat) (l : Luminaire) : List Instr :=
  postIf (l.holdOff.any fun t => t ≤ s.campus) (.holdOffEnd n)
    ++ postIf (l.state == .recharging && l.recharge.any fun r => r.reached s) (.rechargeUntilArrival n)
    ++ postIf (l.state == .idle && waitState s l.due == .due) (.dueTimeArrival n)
    ++ postIf (l.watchArmed && l.state.reportsOverdue && overdueReached s l) (.overdueThresholdArrival n)

/-- The stored instants that have arrived; none while time quality is UNSET (R42). -/
def arrivals (s : State) : List Instr :=
  if s.quality = .unset then []
  else
    (s.luminaires.flatMap fun p => luminaireArrivals s p.1 p.2)
      ++ ((s.windows.keys.filter (windowBoundaryNow s)).map Instr.windowBoundaryArrival)
      ++ ((s.blackouts.keys.filter (blackoutBoundaryNow s)).map Instr.blackoutBoundaryArrival)

/-- The part with no command waiting. -/
def idle (s : State) : State :=
  if s.phase ≠ .operating then s
  else if prompts s ≠ [] then { s with pending := prompts s }
  else
    let t := secondPasses s
    { t with pending := expiries t ++ arrivals t }

end Sys2Proof.Machine
end

