-- ==== Sys2Proof/Safety.lean ====
section
/-! DEFINITION. What the statements speak of: the link that can take a request, replies, and the properties that every step
is to keep, each with the rule it comes from. -/

namespace Sys2Proof.Machine

/-! ### Requests and their replies -/

/-- The part operates, sends no reply and has no NODE-EXCHANGE in service: a complete frame is taken and handed to its owner
(R194). -/
abbrev Serves (s : State) : Prop := s.phase = .operating ∧ s.sending = none ∧ s.service = none

/-- The reply DONE (R197). -/
def doneReply (tag : Byte) (body : List Byte) : Reply := ⟨false, tag, body⟩

/-- The reply REFUSED with a reason (R197). -/
def refusal (tag : Byte) (r : Reason) : Reply := ⟨true, tag, [r.code]⟩

/-- The reply to a request that was carried out: DONE, or REFUSED with STORE-FAULT and the same body when its store write
failed (R197, R207). -/
def storedReply (failed : Bool) (tag : Byte) (body : List Byte) : Reply :=
  if failed then ⟨true, tag, Reason.storeFault.code :: body⟩ else doneReply tag body

/-- The next store write fails. -/
def writeFails (s : State) : Bool := s.writeFates.head? == some true

/-- The part after a request that changed nothing and was answered with `r`. -/
def answered (s : State) (r : Reply) : State :=
  { s with receiver := .hunt, sending := some r, lastWrites := [], trigger := false, writeFailed := false }

/-- The part as an event of it begins (R65): the event's scratch fields are clear. -/
def opened (s : State) : State := { s with lastWrites := [], trigger := false, writeFailed := false }

/-- The part as a request's owner finds it: the frame is complete and the receiver hunts again (R192). -/
def atOwner (s : State) : State := { opened s with receiver := .hunt }

/-- A request of the catalogue (R194): its command for a tag and a body, and what gives its body's length (R202): `base` bytes,
and `width` more for each element that the byte at offset `place` counts; `width` is 0 where the body has no list. -/
structure RequestForm where
  command : Byte → List Byte → Instr
  base : Nat
  width : Nat := 0
  place : Nat := 0

/-- The body has the length that the request's kind and count byte give (R202). -/
def RequestForm.suits (r : RequestForm) (body : List Byte) : Prop :=
  body.length = r.base + r.width * ((body[r.place]?).getD 0).toNat

/-- Every request of the catalogue, in the order of its codes. -/
def requestForms : List RequestForm :=
  [{ command := .status, base := 0 }, { command := .ident, base := 0 }, { command := .setParam, base := 4 },
    { command := .getParam, base := 2 }, { command := .enrol, base := 12, width := 2, place := 6 },
    { command := .withdraw, base := 2 }, { command := .amend, base := 10, width := 2, place := 5 },
    { command := .setDue, base := 6 }, { command := .setOutOfService, base := 2 },
    { command := .returnToService, base := 2 }, { command := .clearFaults, base := 2 },
    { command := .readLuminaire, base := 3 }, { command := .setClass, base := 11 }, { command := .readClass, base := 1 },
    { command := .defineGroup, base := 3 }, { command := .dropGroup, base := 2 }, { command := .readGroup, base := 3 },
    { command := .setTime, base := 4 }, { command := .setWindow, base := 7 }, { command := .clearWindow, base := 1 },
    { command := .readWindow, base := 1 }, { command := .setBlackout, base := 9 },
    { command := .clearBlackout, base := 1 }, { command := .readBlackout, base := 1 }, { command := .setMode, base := 1 },
    { command := .readCalendar, base := 0 }] ++
  [{ command := .readSlot, base := 4 }, { command := .stopTest, base := 2 },
    { command := .campaignLoad, base := 3, width := 4, place := 2 }, { command := .campaignStart, base := 2 },
    { command := .campaignPause, base := 1 }, { command := .campaignResume, base := 4 },
    { command := .campaignStop, base := 2 }, { command := .setStopPosition, base := 3 },
    { command := .campaignStatus, base := 1 }, { command := .schedStart, base := 0 }, { command := .schedSuspend, base := 0 },
    { command := .branchEnable, base := 1 }, { command := .branchDisable, base := 1 },
    { command := .branchDirectEnter, base := 1 }, { command := .branchDirectLeave, base := 1 },
    { command := .nodeExchange, base := 5, width := 1, place := 4 }, { command := .branchStatus, base := 1 },
    { command := .takeResults, base := 1 }, { command := .takeNotices, base := 1 }, { command := .setNoticeMask, base := 3 },
    { command := .readNoticeMask, base := 0 }, { command := .restart, base := 0 }]

/-! ### Notices -/

/-- The `k`-th store write from now fails. -/
def writeFailsAt (s : State) (k : Nat) : Bool := s.writeFates[k]? == some true

/-- The notices `ns` are raised one after the other between `s` and `u`, and no other (R185, R186, R190): those that are not
masked join the outbox at its tail, stamped with the campus time, as far as there is room; a further one is lost, and the lost
flag says so; a notice that is queued asserts ATTN. -/
def Raises (ns : List NoticeBody) (s u : State) : Prop :=
  let heard := (ns.filter fun b => !s.mask.getLsbD b.kind).map fun b => (⟨knownTime s, b⟩ : Notice)
  let room := 32 - s.outbox.length
  u.outbox = s.outbox ++ heard.take room ∧
    u.noticesLost = (s.noticesLost || decide (room < heard.length)) ∧
    u.attn = (s.attn || !(heard.take room).isEmpty)

/-- The STORE-FAULT notice of item `i`, where its write fails (R207). -/
def storeFaultIf (fails : Bool) (i : Item) : List NoticeBody := if fails then [.storeFault i] else []

/-- The notices of luminaire `n` with record `l` as it enters a state that reports OVERDUE (R63): none where the watch is not
armed or the threshold not reached. -/
def overdueNotices (s : State) (n : Nat) (l : Luminaire) (fails : Bool) : List NoticeBody :=
  if l.watchArmed && overdueReached s l then .overdue n l.due l.blockedBy :: storeFaultIf fails (.luminaire n) else []

/-- The notices of an evaluation of the window that leads from `s` to `u` (R54, R57): WINDOW-OPEN, or WINDOW-CLOSE and, where
another mode is staged, the change to it, which can open the window again. -/
def windowNotices (s u : State) (modeFails : Bool) : List NoticeBody :=
  if openNow s = s.windowOpen then []
  else if openNow s then [.windowOpen s.mode (openIntervalEnd s)]
  else .windowClose s.mode ::
    match s.staged with
    | some m =>
      if m = s.mode then []
      else storeFaultIf modeFails .mode ++ .modeChanged s.mode m true ::
        if openNow u then [.windowOpen m (openIntervalEnd u)] else []
    | none => []

/-! ### The conditions on a candidate -/

/-- The reason `r` is that of the first condition of the list that fails (R72). -/
def FirstFailing : List (Prop × BlockedBy) → BlockedBy → Prop
  | [], _ => False
  | (c, q) :: rest, r => (¬c ∧ r = q) ∨ (c ∧ FirstFailing rest r)

/-- Every condition of the list holds. -/
def AllHold (conditions : List (Prop × BlockedBy)) : Prop := ∀ x ∈ conditions, x.1

/-- Conditions 2 to 8 of R72 in their order, each with its reason: coverage group by group (R38), and of the band, that it is not
COLD or HOT and that an UNKNOWN one finds a place for its CHECK (R74). -/
def earlyConditions (s : State) (n : Nat) (l : Luminaire) (from? : Option (Fin 4)) : List (Prop × BlockedBy) :=
  [(∀ t, l.holdOff = some t → t ≤ s.campus, .holdOff),
    (l.latches.charger = false ∧ l.latches.mainsLost = false, .latch),
    (s.branches[l.branch].state = .ready, .branch),
    (occupiedOn s l.branch < s.params.concurrency[l.branch], .branchLimit),
    (from?.isSome = true → campaignSlots s < s.params.campaignShare, .share)] ++
  (l.groups.map fun g =>
    (∀ r, s.groups.get g = some r → r.dark - (if l.dark then 1 else 0) < r.cap, .group g)) ++
  [(n ∉ s.checkPending, .checkPending),
    (l.band ≠ .cold ∧ l.band ≠ .hot, .band),
    (l.band = .unknown → 0 < unreservedFree s l.branch, .branch)]

/-- Conditions 9 to 11 of R72 in their order, each with its reason: the window (R76), the late-start guard (R77) and the places
of the branch (R78). -/
def lateConditions (s : State) (l : Luminaire) (from? : Option (Fin 4)) : List (Prop × BlockedBy) :=
  [((∀ c, from? = some c → s.channels[c].bypass = false) → openNow s = true, .window),
    (∀ e, guardEnd s from? = some e →
      s.campus + s.classes[l.cls].rated * 60 + s.params.guardMargin * 60 ≤ e, .guard),
    (2 ≤ unreservedFree s l.branch, .branch)]

/-! ### Frames: what may differ -/

/-- Beside `base`, only the store and its bookkeeping, the outbox with its flag and ATTN, and the trigger may differ. -/
def Touches (base u : State) : Prop :=
  u = { base with
    image := u.image, lastWrites := u.lastWrites, storeState := u.storeState, writeFates := u.writeFates
    writeFailed := u.writeFailed, outbox := u.outbox, noticesLost := u.noticesLost, attn := u.attn
    trigger := u.trigger }

/-- Nothing was raised and no write failed. -/
def Quiet (base u : State) : Prop :=
  u.outbox = base.outbox ∧ u.noticesLost = base.noticesLost ∧ u.attn = base.attn ∧ u.storeState = base.storeState

/-- A request is over before its passes: the reply `r` is being sent, beside `base` only the store may differ, and without a
failed write nothing was raised. -/
def Served (failed : Bool) (r : Reply) (base u : State) : Prop :=
  Touches { base with receiver := .hunt, sending := some r } u ∧ (failed = false → Quiet base u)

/-- The part with the luminaire records, the groups and the schedule list of another. -/
def withRecords (s u : State) : State :=
  { s with luminaires := u.luminaires, groups := u.groups, schedule := u.schedule }

/-- The group table has moved with luminaire `n`'s record from `old` to `new`: member lists (R28) and dark counts (R35) of
the groups concerned, and no other. -/
def GroupsMove (n : Nat) (old new : Option Luminaire) (s u : State) : Prop :=
  ∀ g, (s.groups.get g = none → u.groups.get g = none) ∧
    ∀ r, s.groups.get g = some r → ∃ r', u.groups.get g = some r' ∧ r'.cap = r.cap ∧
      r'.dark = r.dark + (if darkIn new g then 1 else 0) - (if darkIn old g then 1 else 0) ∧
      (inGroup new g = true → r'.members = insertNumber n r.members) ∧
      (inGroup new g = false → inGroup old g = true → r'.members = r.members.erase n) ∧
      (inGroup new g = false → inGroup old g = false → r'.members = r.members)

/-- Luminaire `n`'s record has become `new`, no other record differs, and the groups have moved with it. -/
def RecordMoves (n : Nat) (new : Option Luminaire) (s u : State) : Prop :=
  u.luminaires.get n = new ∧ (∀ m, m ≠ n → u.luminaires.get m = s.luminaires.get m) ∧
    GroupsMove n (s.luminaires.get n) new s u

/-! ### Recalls, answers, releases -/

/-- What a recall with reason `r` of slot `k`, which held `sl` in `s`, has come to in `u` (R105 to R108): a RESERVED slot stays,
and its luminaire keeps the first reason as cancel pending; a RUNNING slot is CLOSING with the reason's outcome unless one was
fixed, its luminaire STOPPING, its STOP queued and no READ of it left in the queue; a CLOSING slot and its luminaire stay. -/
def Recalled (r : RecallReason) (k : Nat) (sl : Slot) (s u : State) : Prop :=
  (sl.status = .reserved → u.slots.get k = some sl ∧ ∀ l, s.luminaires.get sl.luminaire = some l →
    u.luminaires.get sl.luminaire = some { l with cancelPending := some (l.cancelPending.getD r) }) ∧
  (sl.status = .running →
    u.slots.get k = some { sl with
      status := .closing, supervision := none, endTimer := none, stopAttempts := 1
      outcome := some (sl.outcome.getD r.outcome)
      elapsedMinutes := if sl.outcome.isSome then sl.elapsedMinutes else some (elapsedNow s sl) } ∧
    (∀ e ∈ u.branches[sl.branch].queue, isReadOf k sl.luminaire e = false) ∧
    ∀ l, s.luminaires.get sl.luminaire = some l →
      u.luminaires.get sl.luminaire = some { l with state := .stopping, blockedBy := none } ∧
      stopExchange l.node sl.luminaire (.slot k sl.luminaire) true ∈ u.branches[sl.branch].queue) ∧
  (sl.status = .closing → u.slots.get k = some sl ∧ u.luminaires.get sl.luminaire = s.luminaires.get sl.luminaire)

/-- No slot but those of `ks`, no luminaire but those they held in `s`, and no branch but those of the RUNNING slots among them
differs between `s` and `u`; on those branches only READs of those slots are gone from the queue. -/
def OnlyRecalled (ks : List Nat) (s u : State) : Prop :=
  (∀ k, k ∉ ks → u.slots.get k = s.slots.get k) ∧
  (∀ n, (∀ k ∈ ks, ∀ sl, s.slots.get k = some sl → sl.luminaire ≠ n) → u.luminaires.get n = s.luminaires.get n) ∧
  ∀ b : Fin 8,
    u.branches[b] = { s.branches[b] with queue := u.branches[b].queue } ∧
    (∀ e ∈ s.branches[b].queue, (∀ k ∈ ks, ∀ sl, s.slots.get k = some sl → isReadOf k sl.luminaire e = false) →
      e ∈ u.branches[b].queue) ∧
    ((∀ k ∈ ks, ∀ sl, s.slots.get k = some sl → sl.status = .running → sl.branch ≠ b) → u.branches[b] = s.branches[b])

/-- `bytes` on branch `b` are the matching answer `a` to the exchange in flight, `f`, made for luminaire `n`, whose record `l`
still has the address; the answer carries the node state record `r`, with a start code when it is a start answer (R163, R18,
R203). -/
abbrev AnswerMatches (s : State) (b : Fin 8) (f : InFlight) (bytes : List Byte) (a : NodeFrame) (r : NodeRecord)
    (code : Option StartCode) (n : Nat) (l : Luminaire) : Prop :=
  s.phase = .operating ∧ s.branches[b].inFlight = some f ∧ f.exchange.luminaire = some n ∧ nodeFrameOf bytes = some a ∧
    a.suits f.exchange = true ∧ a.record = some (r, code) ∧ s.luminaires.get n = some l ∧ l.branch = b ∧
    l.node = f.exchange.node

/-- Only what the end of an exchange can reach differs (R165): the tests with their luminaires, groups, branches, campaigns,
check-pending set and results, the NODE-EXCHANGE in service and its reply, and what notices and writes touch. Time, the
calendar, the scheduler, the parameters and the rest of the link stay. -/
def ExchangeEnded (s u : State) : Prop :=
  u = { s with
    luminaires := u.luminaires, groups := u.groups, schedule := u.schedule, slots := u.slots, branches := u.branches
    channels := u.channels, checkPending := u.checkPending, results := u.results, resultCounter := u.resultCounter
    service := u.service, sending := u.sending, ready := u.ready, image := u.image, lastWrites := u.lastWrites
    storeState := u.storeState, writeFates := u.writeFates, writeFailed := u.writeFailed, outbox := u.outbox
    noticesLost := u.noticesLost, attn := u.attn, trigger := u.trigger }

/-- Command `c` makes the present send of `f`, in flight on branch `b`, fail (R163, R164): the answer timeout with no byte of an
answer received, bytes that stop too soon, or a complete frame that is bad or does not suit. -/
def SendFailure (b : Fin 8) (f : InFlight) : Instr → Prop
  | .answerTimeout n => n = b ∧ f.receiving = false
  | .nodeFrameByteGap n => n = b
  | .nodeAnswerFrame n bytes => n = b ∧ ∀ a, nodeFrameOf bytes = some a → a.suits f.exchange = false
  | _ => False

/-- No record takes the end of exchange `e` on branch `b` (R18): it has no luminaire, or that one's position is unused, or its
record names another address. -/
def NoRecordTakes (b : Fin 8) (e : Exchange) (s : State) : Prop :=
  ∀ n l, e.luminaire = some n → s.luminaires.get n = some l → l.branch ≠ b ∨ l.node ≠ e.node

/-- Branch `b` after the exchange in flight ended answered, at its `sends`-th send: a clean exchange sets the chatter count to 0
(R165, R166). -/
def branchAnswered (s : State) (b : Fin 8) (sends : Nat) : Branch :=
  { s.branches[b] with inFlight := none, chatter := if sends = 1 then 0 else s.branches[b].chatter }

/-- The record `l` after an answer with node state record `r` (R18, R20, R23, R24), where no test of it runs unknown to the
part. -/
def recordAnswered (s : State) (l : Luminaire) (r : NodeRecord) (code : Option StartCode) : Luminaire :=
  { l with
    lastExchange := some .answered, lastReport := some ⟨r, s.campus, code⟩
    band := bandAfter s.params l.band r.temperature, bandTime := some s.campus, bandLife := some 86400
    latches := { l.latches with
      charger := l.latches.charger || !r.chargerOk
      mainsLost := l.latches.mainsLost || (!r.mains && !r.testing) } }

/-- The exchanges that branch `b` holds: those in its queue and the one in flight. -/
def exchangesOn (s : State) (b : Fin 8) : List Exchange :=
  s.branches[b].queue ++ (s.branches[b].inFlight.map InFlight.exchange).toList

/-- The luminaires whose CHECKs stood on branch `b` have left the check-pending set, and no other (R74, R75, R168). -/
def ChecksRemoved (b : Fin 8) (s u : State) : Prop :=
  ∀ n, u.checkPending.count n = s.checkPending.count n -
    ((exchangesOn s b).filter fun e => e.issuer == .placement && e.luminaire == some n).length

/-- The host link's part in NODE-EXCHANGE and its replies is as it was. -/
def LinkKept (s u : State) : Prop := u.service = s.service ∧ u.sending = s.sending ∧ u.ready = s.ready

/-- No luminaire record but `n`'s differs. -/
def OnlyLuminaire (n : Nat) (s u : State) : Prop := ∀ m, m ≠ n → u.luminaires.get m = s.luminaires.get m

/-- The result record that slot contents `sl` leave for luminaire `n` with record `l` (R110, R180, R181). -/
def resultOf (s : State) (n : Nat) (l : Luminaire) (sl : Slot) (o : TestOutcome) (minutes : Nat) (mv : Option Nat) :
    ResultRecord :=
  { number := s.resultCounter, luminaire := n, branch := l.branch, node := l.node, origin := sl.origin, outcome := o
    startTime := sl.campusStart, endTime := some s.campus, elapsed := minutes, endVoltage := mv
    bandAtStart := sl.bandAtStart }

/-- The elapsed minutes of a result: those kept when its outcome was fixed, or those of this moment (R104). -/
def minutesOf (s : State) (sl : Slot) : Nat := if sl.outcome.isSome then sl.elapsedMinutes.getD 0 else elapsedNow s sl

/-- Where a release without a result leaves the luminaire (R92). -/
def stateWithout (s : State) (l : Luminaire) : LumState :=
  if l.outAtRelease then .outOfService else if s.quality ≠ .unset ∧ l.due ≤ s.campus then .due else .idle

/-- Where a release with a result leaves the luminaire (R112). -/
def stateWith (l : Luminaire) : LumState := if l.outAtRelease then .outOfService else .recharging

/-- The record `l` has been given a hold-off, the later one kept (R64). -/
def HeldOff (s : State) (l l' : Luminaire) : Prop :=
  ∃ h, l'.holdOff = some h ∧
    (s.campus + s.params.startHoldOff * 3600 ≤ maxCampus →
      h = max (s.campus + s.params.startHoldOff * 3600) ((l.holdOff.filter fun t => s.campus < t).getD 0))

/-- The slots on branch `b` have been released as the branch left READY (R169, R170): those RUNNING or CLOSING with the outcome
they had fixed or LOST, those RESERVED without a result and with a hold-off; no other luminaire differs. That the result records
stand in ascending slot number is the model's choice (assumption log 26). -/
def SlotsReleased (b : Fin 8) (s u : State) : Prop :=
  (∀ k sl l, s.slots.get k = some sl → sl.branch = b → s.luminaires.get sl.luminaire = some l →
    u.slots.get k = none ∧ ∃ l', u.luminaires.get sl.luminaire = some l' ∧ l'.openMarker = false ∧
      l'.cancelPending = none ∧ l'.outAtRelease = false ∧
      (sl.status ≠ .reserved → l'.state = stateWith l ∧
        l'.lastResult = some ⟨sl.outcome.getD .lost, s.campus, minutesOf s sl, sl.endVoltage⟩) ∧
      (sl.status = .reserved → l'.state = stateWithout s l ∧ l'.due = l.due ∧ l'.latches = l.latches ∧ HeldOff s l l')) ∧
  (∀ n, (∀ k sl, s.slots.get k = some sl → sl.branch = b → sl.luminaire ≠ n) →
    u.luminaires.get n = s.luminaires.get n) ∧
  (u.results.map fun r => (r.luminaire, r.outcome, r.endTime)) =
    (s.results.map fun r => (r.luminaire, r.outcome, r.endTime)) ++
      ((s.slots.filter fun p => p.2.branch == b && p.2.status != .reserved).map fun p =>
        (p.2.luminaire, p.2.outcome.getD .lost, some s.campus))

/-! ### Passes -/

/-- `n` placement passes one after the other, each taking the trigger that called for it (R65, R66). -/
def rounds : Nat → State → State
  | 0, s => s
  | n + 1, s => rounds n (pass { s with trigger := false })

/-- Channel `c` is offered next (R69): the first RUNNING channel that is not among `done`, in the rotation that begins with the
channel after the last-served one and wraps from 3 to 0. -/
abbrev OfferedNext (done : List (Fin 4)) (s : State) (c : Fin 4) : Prop :=
  c ∉ done ∧ s.channels[c].state = .running ∧
    ∃ j : Fin 4, c = s.lastServed + 1 + j ∧
      ∀ i : Fin 4, i < j → s.lastServed + 1 + i ∈ done ∨ s.channels[s.lastServed + 1 + i].state ≠ .running

/-- The campaign part of a pass leads from `s` to `u` (R69); the channels of `done` were passed over in this pass or offered
nothing further. It is over when every RUNNING channel is among them. Else the next channel of the rotation presents its
candidate: with none, it is done with. A global condition that fails gives the candidate its reason, and the channel is done
with (R67). A candidate that is reserved makes the rotation begin again after its channel, which may offer its next one; a
candidate that is not makes the channel done with. -/
inductive CampaignsOffered : List (Fin 4) → State → State → Prop where
  | over (done : List (Fin 4)) (s : State) (h : ∀ c : Fin 4, c ∉ done → s.channels[c].state ≠ .running) :
      CampaignsOffered done s s
  | nothing (done : List (Fin 4)) (s t u : State) (c : Fin 4) (next : OfferedNext done s c)
      (presents : present c s = (t, none)) (rest : CampaignsOffered (c :: done) t u) : CampaignsOffered done s u
  | stopped (done : List (Fin 4)) (s t u : State) (c : Fin 4) (n : Nat) (r : BlockedBy) (next : OfferedNext done s c)
      (presents : present c s = (t, some n)) (global : globalFailure s = some r)
      (rest : CampaignsOffered (c :: done) (blockWaiting n r t) u) : CampaignsOffered done s u
  | reserved (done : List (Fin 4)) (s t v u : State) (c : Fin 4) (n : Nat) (next : OfferedNext done s c)
      (presents : present c s = (t, some n)) (global : globalFailure s = none) (taken : consider n (some c) t = (v, true))
      (rest : CampaignsOffered done v u) : CampaignsOffered done s u
  | passedOver (done : List (Fin 4)) (s t v u : State) (c : Fin 4) (n : Nat) (next : OfferedNext done s c)
      (presents : present c s = (t, some n)) (global : globalFailure s = none) (left : consider n (some c) t = (v, false))
      (rest : CampaignsOffered (c :: done) v u) : CampaignsOffered done s u

/-! ### Properties that every step keeps -/

/-- The outbox holds at most 32 notices (R184). -/
abbrev OutboxFits (s : State) : Prop := s.outbox.length ≤ outboxRoom

/-- ATTN is asserted exactly while the result queue or the outbox holds a record (R190). -/
abbrev AttnFollows (s : State) : Prop := s.attn = attnLevel s

/-- The scheduler state, the resume-to state, the recovery hold-off timer and the kept EMG level go together (R144 to
R153). -/
abbrev SchedulerAgrees (s : State) : Prop :=
  (s.resumeTo = .suspended ∨ s.resumeTo = .active) ∧ (s.sched = .active → s.resumeTo = .active) ∧
    (s.sched = .suspended → s.resumeTo = .suspended) ∧ (s.recovery.isSome = true ↔ s.sched = .recovery) ∧
    (s.emgKept = true ↔ s.sched = .emergency) ∧ (s.phase = .operating → s.emgKept = s.emgLine)

/-- Every table stands in its canonical form, numbers strictly rising. -/
abbrev Image.Canonical (m : Image) : Prop :=
  m.luminaires.Rising ∧ m.groups.Rising ∧ m.windows.Rising ∧ m.blackouts.Rising

/-- Every table of the part and of its store images stands in its canonical form. -/
abbrev Canonical (s : State) : Prop :=
  s.luminaires.Rising ∧ s.groups.Rising ∧ s.windows.Rising ∧ s.blackouts.Rising ∧ s.slots.Rising ∧
    s.image.Canonical ∧ ∀ m ∈ s.lastWrites, m.Canonical

/-- Occupied slots plus queued results never exceed 256, and there are at most 48 slots (R68, R85). -/
abbrev ResultsFit (s : State) : Prop :=
  s.slots.length + s.results.length ≤ resultRoom ∧ s.slots.Rising ∧ ∀ p ∈ s.slots, p.1 < slotCount

/-- The schedule list holds every luminaire in IDLE or DUE exactly once and no other, in ascending due time with ties in
ascending number (R59). -/
abbrev ScheduleSound (s : State) : Prop :=
  s.schedule.Pairwise (fun m n => standsBefore (dueOf s.luminaires m) m (dueOf s.luminaires n) n = true) ∧
    (∀ n ∈ s.schedule, (s.luminaires.get n).any (fun l => l.state.waits) = true) ∧
    ∀ p ∈ s.luminaires, p.2.state.waits = true → p.1 ∈ s.schedule

/-- Each group's member list and dark count are what the luminaire records say, and every group that a record names is
defined (R28, R35). -/
abbrev GroupsSound (s : State) : Prop :=
  (∀ p ∈ s.groups, p.2 = rebuiltGroup s.luminaires p.1 p.2) ∧
    ∀ p ∈ s.luminaires, p.2.groups.Nodup ∧ ∀ g ∈ p.2.groups, s.groups.has g = true

/-- The status of a slot and the state of its luminaire go together (R86). -/
def SlotStatus.pairs : SlotStatus → LumState
  | .reserved => .starting
  | .running => .testing
  | .closing => .stopping

/-- Every occupied slot holds a luminaire in the state that goes with its status, no two slots hold the same one, every
luminaire in STARTING, TESTING or STOPPING holds a slot, and the open marker says so (R86). -/
abbrev SlotsSound (s : State) : Prop :=
  (∀ p ∈ s.slots, (s.luminaires.get p.2.luminaire).any (fun l => l.state == p.2.status.pairs && l.branch == p.2.branch)
    = true) ∧
    (s.slots.map fun p => p.2.luminaire).Nodup ∧
    (∀ p ∈ s.luminaires, p.2.openMarker = p.2.state.holdsSlot) ∧
    ∀ p ∈ s.luminaires, p.2.state.holdsSlot = true → (slotOf s p.1).isSome = true

/-- On every branch the unreserved pending exchanges and the occupied slots have 24 places together; occupied slots stand on
READY branches alone; a branch that is OFF or FAULTED has nothing queued or in flight (R158, R160). -/
abbrev BranchesSound (s : State) : Prop :=
  ∀ b : Fin 8,
    occupiedOn s b + (s.branches[b].queue.filter fun e => !e.reserved).length ≤ queuePlaces ∧
      (s.branches[b].state ≠ .ready → occupiedOn s b = 0) ∧
      (s.branches[b].state.works = false → s.branches[b].queue = [] ∧ s.branches[b].inFlight = none)

/-- Every pair of a campaign's in-flight list names an occupied slot of the campaign's own (R121). -/
abbrev CampaignsSound (s : State) : Prop :=
  ∀ c : Fin 4, ∀ p ∈ s.channels[c].inFlight,
    (s.slots.get p.1).any (fun sl => sl.origin == .campaign c p.2 s.channels[c].run) = true

end Sys2Proof.Machine
end

