-- ==== Sys2Proof/Certificates/Slice0/Obligations.lean ====
section
/-! DEFINITION. The statements for the provers. A command's effect is stated up to the end of its own steps: `settle u` is the
part after them, that is `u` followed by the placement passes that `u.trigger` asks for; what those may change is stated by
`APassChangesOnlyPlacementState`. -/

open Sys2Proof Sys2Proof.Machine

/-! ### The queue, time, and the frame of every event -/

/-- A step takes the command at the front of the queue and runs it on the queue's rest. -/
def Obligations.StepRunsTheFrontCommand : Prop :=
  ∀ (c : Instr) (rest : List Instr) (s : State),
    step { s with pending := c :: rest } = exec c { s with pending := rest }

/-- Every command, with any operands and in every state, answers a next state. -/
def Obligations.EveryCommandAnswersANextState : Prop :=
  ∀ (c : Instr) (s : State), ∃ t, exec c s = .next t

/-- With no command waiting and nothing outstanding within a second, one second of the own count passes (R41; the model's
tick: assumption log 1). -/
def Obligations.ASecondOfTheOwnCount : Prop :=
  ∀ s : State, s.phase = .operating → s.pending = [] → prompts s = [] →
    ∃ t, step s = .next t ∧
      t = { s with
        ownCount := s.ownCount + 1, campus := min (s.campus + 1) maxCampus
        staleness := s.staleness.map fun n => n - 1, recovery := s.recovery.map fun n => n - 1
        luminaires := t.luminaires, slots := t.slots, lastWrites := [], pending := t.pending } ∧
      (∀ n, t.luminaires.get n =
        (s.luminaires.get n).map fun l => { l with bandLife := l.bandLife.map fun k => k - 1 }) ∧
      (∀ k, t.slots.get k = (s.slots.get k).map fun sl =>
        { sl with supervision := sl.supervision.map fun m => m - 1, endTimer := sl.endTimer.map fun m => m - 1 }) ∧
      (t.staleness = some 0 → Instr.stalenessExpiry ∈ t.pending) ∧
      (t.recovery = some 0 → Instr.recoveryHoldOffExpiry ∈ t.pending) ∧
      (∀ n l, t.luminaires.get n = some l → l.state = .idle → t.quality ≠ .unset → l.due ≤ t.campus →
        Instr.dueTimeArrival n ∈ t.pending)

/-! ### Placement -/

/-- An event that is no trigger makes no pass (R66). An event that is one makes a pass, one only while no restart is queued; a
pass that is itself a trigger, by taking a queued restart, is followed by another, at most five in all (R65, R66). A pass (R67,
R69) takes the campaign candidates in the rotation from the channel after the last-served one, as long as the global conditions
hold, and then the DUE members of the schedule list in list order; only the reservation of a campaign candidate moves the
last-served channel (R70); that a campaign which its offer puts back at entry 0 presents none at that offer is the model's
reading (assumption log 27). The global conditions in their order (R67). What a pass may change (R65): slots, luminaire records,
groups, the schedule list, branch queues, the check-pending set, the channels and the last-served channel, and through them the
store and the outbox. Outside ACTIVE, or with time quality other than SET, it reserves nothing and queues no CHECK, and records
SCHEDULER or TIME on every DUE luminaire of the list (R67, R145). -/
def Obligations.APassChangesOnlyPlacementState : Prop :=
  (∀ s : State, s.trigger = false → settle s = { s with writeFailed := false }) ∧
  (∀ s : State, s.trigger = true → (∀ c : Fin 4, s.channels[c].restartQueued = false) →
     settle s = { pass { s with trigger := false } with writeFailed := false }) ∧
  (∀ s : State, ∃ n, n ≤ 5 ∧ (∀ i, i < n → (rounds i s).trigger = true) ∧ (rounds n s).trigger = false ∧
     settle s = { rounds n s with writeFailed := false }) ∧
  (∀ s : State, ∃ t, CampaignsOffered [] s t ∧ pass s = t.schedule.foldl periodicStep t) ∧
  (∀ s : State, globalFailure s =
     if s.sched ≠ .active then some .scheduler
     else if s.quality ≠ .set then some .time
     else if 48 ≤ s.slots.length then some .slots
     else if 256 ≤ s.slots.length + s.results.length then some .results
     else none) ∧
  (∀ (s : State) (n : Nat),
     ((s.luminaires.get n).map Luminaire.state ≠ some .due → periodicStep s n = s) ∧
     ((s.luminaires.get n).map Luminaire.state = some .due →
       (globalFailure s = none → periodicStep s n = (consider n none s).1) ∧
       (∀ l r, s.luminaires.get n = some l → globalFailure s = some r →
         (periodicStep s n).luminaires.get n = some { l with blockedBy := some r } ∧
         (periodicStep s n).slots = s.slots ∧ (periodicStep s n).branches = s.branches ∧
         ∀ m, m ≠ n → (periodicStep s n).luminaires.get m = s.luminaires.get m))) ∧
  (∀ (s : State) (n : Nat) (from? : Option (Fin 4)), s.slots.length < 48 →
     (consider n from? s).1.lastServed =
       if (consider n from? s).2 = true then from?.getD s.lastServed else s.lastServed) ∧
  (∀ s : State,
     pass s = { s with
       luminaires := (pass s).luminaires, groups := (pass s).groups, schedule := (pass s).schedule
       slots := (pass s).slots, channels := (pass s).channels, branches := (pass s).branches
       checkPending := (pass s).checkPending, lastServed := (pass s).lastServed
       image := (pass s).image, lastWrites := (pass s).lastWrites, storeState := (pass s).storeState
       writeFates := (pass s).writeFates, writeFailed := (pass s).writeFailed
       outbox := (pass s).outbox, noticesLost := (pass s).noticesLost, attn := (pass s).attn
       trigger := (pass s).trigger } ∧
       ∀ b : Fin 8, (pass s).branches[b] = { s.branches[b] with queue := (pass s).branches[b].queue }) ∧
  (∀ s : State, s.sched ≠ .active ∨ s.quality ≠ .set →
     (pass s).slots = s.slots ∧ (pass s).branches = s.branches ∧ (pass s).checkPending = s.checkPending ∧
       ∀ n l, n ∈ s.schedule → s.luminaires.get n = some l → l.state = .due →
         (pass s).luminaires.get n =
           some { l with blockedBy := some (if s.sched ≠ .active then .scheduler else .time) })

/-- A candidate is reserved exactly when it meets every condition of R72: its state, hold-off, latches, branch, branch limit,
share, coverage (R38), check pending, band, window (R76), guard (R77) and branch places (R78). The guard end (R77): with window
bypass the next blackout start, else the earlier of it and the open interval's end. A candidate that is not reserved is left alone
where its state does not admit it; else it is passed over with the reason of the first condition that fails, in R72's order, and
nothing but its blocked by differs. With an UNKNOWN band and every condition before that met, a CHECK joins its branch's queue in
an unreserved place, the luminaire joins the check-pending set, and the reason is CHECK-PENDING (R74). That NO-ANSWER is among no
condition follows R72, though R34's chapter says otherwise (assumption log 51). -/
def Obligations.ACandidateIsReservedExactlyWhen : Prop :=
  (∀ (s : State) (c : Fin 4), s.channels[c].bypass = true → guardEnd s (some c) = nextBlackout s) ∧
  (∀ (s : State) (from? : Option (Fin 4)), (∀ c, from? = some c → s.channels[c].bypass = false) →
    guardEnd s from? = (match openIntervalEnd s, nextBlackout s with
      | some a, some z => some (min a z)
      | some a, none => some a
      | none, z => z)) ∧
  (∀ (s : State) (n : Nat) (from? : Option (Fin 4)), s.luminaires.get n = none → consider n from? s = (s, false)) ∧
  (∀ (s : State) (n : Nat) (l : Luminaire) (from? : Option (Fin 4)), s.luminaires.get n = some l →
    (¬(l.state = .due ∨ (from?.isSome = true ∧ l.state = .idle)) → consider n from? s = (s, false)) ∧
    (l.state = .due ∨ (from?.isSome = true ∧ l.state = .idle) →
      (∀ r, FirstFailing (earlyConditions s n l from?) r ∨
          (AllHold (earlyConditions s n l from?) ∧ l.band ≠ .unknown ∧ FirstFailing (lateConditions s l from?) r) →
        ∃ u, consider n from? s = (u, false) ∧
          RecordMoves n (some { l with blockedBy := some r }) s u ∧ u = withRecords s u) ∧
      (AllHold (earlyConditions s n l from?) → l.band = .unknown →
        ∃ u, consider n from? s = (u, false) ∧ RecordMoves n (some { l with blockedBy := some .checkPending }) s u ∧
          u = { withRecords s u with
            checkPending := s.checkPending ++ [n]
            branches := s.branches.set l.branch { s.branches[l.branch] with
              queue := s.branches[l.branch].queue ++ [readExchange .check l.node n .placement] } }))) ∧
  ∀ (s : State) (n : Nat) (l : Luminaire) (from? : Option (Fin 4)),
    verdict s n l from? = .reserve ↔
      (l.state = .due ∨ (from?.isSome = true ∧ l.state = .idle)) ∧
      (∀ t, l.holdOff = some t → t ≤ s.campus) ∧
      (l.latches.charger = false ∧ l.latches.mainsLost = false) ∧
      s.branches[l.branch].state = .ready ∧
      occupiedOn s l.branch < s.params.concurrency[l.branch] ∧
      (from?.isSome = true → campaignSlots s < s.params.campaignShare) ∧
      (∀ g ∈ l.groups, ∀ r, s.groups.get g = some r → r.dark - (if l.dark then 1 else 0) < r.cap) ∧
      n ∉ s.checkPending ∧
      (l.band = .normal ∨ l.band = .warm) ∧
      ((∀ c, from? = some c → s.channels[c].bypass = false) → openNow s = true) ∧
      (∀ e, guardEnd s from? = some e →
        s.campus + s.classes[l.cls].rated * 60 + s.params.guardMargin * 60 ≤ e) ∧
      2 ≤ unreservedFree s l.branch

/-- A periodic reservation (R79 to R82): the lowest FREE slot takes the test, START joins the branch's queue, the luminaire
goes STARTING with its open marker set, and no group of the luminaire goes above its cap (R38). A campaign presents the
luminaire of the TEST entry it draws (R131). A campaign reservation (R82, R121, R132, R133): the slot's origin is the channel,
entry and run number, the channel is the last served and its in-flight list grows by the pair; a GROUP-TEST goes on to its next
member, skipping those unused or out of service (R129); a TEST has finished drawing, and the campaign goes on to the next
entry, DRAINING after the last, PAUSED at its stop position, or HELD. -/
def Obligations.AReservationKeepsCoverage : Prop :=
  (∀ (s : State) (c : Fin 4) (e : Entry) (n : Nat) (l : Luminaire), s.channels[c].state = .running →
    s.channels[c].takenUp = true → s.channels[c].entries[s.channels[c].cursor]? = some e → e.kind = .test n →
    s.luminaires.get n = some l → l.state ≠ .outOfService → present c s = (s, some n)) ∧
  (∀ (s : State) (n : Nat) (l : Luminaire) (k : Nat) (c : Fin 4) (e : Entry),
    s.luminaires.get n = some l → verdict s n l (some c) = .reserve → s.slots.lowestFree slotCount = some k →
    let ch := s.channels[c]
    let drawn : Channel := { ch with inFlight := ch.inFlight ++ [(k, ch.cursor)] }
    let done : Channel := { drawn with cursor := ch.cursor + 1, takenUp := false }
    ch.state = .running → ch.takenUp = true → ch.finishWatch = [] → ch.entries[ch.cursor]? = some e → e.kind ≠ .mark →
      ∃ u, consider n (some c) s = (u, true) ∧ u.lastServed = c ∧
        u.slots = s.slots.put k
          { status := .reserved, luminaire := n, branch := l.branch, origin := .campaign c ch.cursor ch.run
            rated := s.classes[l.cls].rated, normalMin := s.classes[l.cls].normalMin
            warmMin := s.classes[l.cls].warmMin, bandAtStart := l.band } ∧
        u.branches = s.branches.set l.branch { s.branches[l.branch] with
          queue := s.branches[l.branch].queue ++ [startExchange l.node n k s.classes[l.cls].rated] } ∧
        RecordMoves n (some { l with state := .starting, blockedBy := none, openMarker := true }) s u ∧
        (∀ d : Fin 4, d ≠ c → u.channels[d] = s.channels[d]) ∧
        (∀ g j m x, e.kind = .groupTest g → ch.snapshot[ch.member + 1 + j]? = some m → s.luminaires.get m = some x →
          x.state ≠ .outOfService →
          (∀ i, i < j → ∀ y, ch.snapshot[ch.member + 1 + i]? = some y →
            ∀ z, s.luminaires.get y = some z → z.state = .outOfService) →
          u.channels[c] = { drawn with member := ch.member + 1 + j, skipped := min (ch.skipped + j) 255 }) ∧
        (∀ m, e.kind = .test m →
          (e.last = true ∨ ch.cursor = 63 ∨ ch.entries.length = ch.cursor + 1 →
            u.channels[c] = { done with
              state := .draining, atPosition := false
              finishWatch := if ch.atPosition then [ch.cursor] else [] }) ∧
          (e.last = false → ch.cursor < 63 → ch.cursor + 1 < ch.entries.length →
            (ch.atPosition = true → u.channels[c] = { done with
              state := .paused, atPosition := false, finishWatch := [ch.cursor]
              heldEntry := if e.hold then some ch.cursor else ch.heldEntry }) ∧
            (ch.atPosition = false → e.hold = true →
              u.channels[c] = { done with state := .held, heldEntry := some ch.cursor }) ∧
            (∀ e' m' x, ch.atPosition = false → e.hold = false → ch.entries[ch.cursor + 1]? = some e' →
              e'.kind = .test m' → s.luminaires.get m' = some x → x.state ≠ .outOfService →
              ch.stopPosition ≠ some (ch.cursor + 1) → u.channels[c] = { done with takenUp := true })))) ∧
  ∀ (s : State) (n : Nat) (l : Luminaire) (k : Nat),
    s.luminaires.get n = some l → verdict s n l none = .reserve → s.slots.lowestFree slotCount = some k →
      ∃ u, consider n none s = (u, true) ∧
        u.slots = s.slots.put k
          { status := .reserved, luminaire := n, branch := l.branch, origin := .periodic
            rated := s.classes[l.cls].rated, normalMin := s.classes[l.cls].normalMin
            warmMin := s.classes[l.cls].warmMin, bandAtStart := l.band } ∧
        u.branches = s.branches.set l.branch { s.branches[l.branch] with
          queue := s.branches[l.branch].queue ++ [startExchange l.node n k s.classes[l.cls].rated] } ∧
        RecordMoves n (some { l with state := .starting, blockedBy := none, openMarker := true }) s u ∧
        (∀ g ∈ l.groups, ∀ r, u.groups.get g = some r → r.dark ≤ r.cap) ∧
        Touches (withRecords { s with slots := u.slots, branches := u.branches } u) u ∧
        (writeFails s = false → Quiet s u)

/-! ### The host link -/

/-- The link's three checks in their order (R194), for every request of the catalogue: LINK-BUSY while a NODE-EXCHANGE is in
service (R195), UNKNOWN-KIND, BAD-LENGTH for a body whose length is not the one that its kind and count byte give (R202); a frame
refused by the link changes nothing else. The lengths of SET-CLASS (assumption log 8), READ-SLOT (log 9) and AMEND (log 10) are
the model's own. -/
def Obligations.TheLinkChecksEachFrame : Prop :=
  requestForms.length = 48 ∧
  (∀ r ∈ requestForms, ∀ (s : State) (tag : Byte) (body : List Byte), s.phase = .operating → s.sending = none →
     body.length ≤ 248 →
     (s.service.isSome = true → exec (r.command tag body) s = .next (answered s (refusal tag .linkBusy))) ∧
     (s.service = none → ¬r.suits body → exec (r.command tag body) s = .next (answered s (refusal tag .badLength)))) ∧
  (∀ (s : State) (kind tag : Byte) (body : List Byte), s.phase = .operating → s.sending = none → body.length ≤ 248 →
     (s.service.isSome = true →
       exec (.unknownKind kind tag body) s = .next (answered s (refusal tag .linkBusy))) ∧
     (s.service = none → kind ∉ catalogue →
       exec (.unknownKind kind tag body) s = .next (answered s (refusal tag .unknownKind))))

/-- The receiver (R192): A5h starts a frame in HUNT, any other byte is ignored; 20 ms without a byte, a length byte above 248
(at that byte) or a wrong CRC discards the frame, and the receiver hunts again. A frame that completes while a reply is being
sent is held and a second one discarded (R194). When a reply has left, the next ready reply goes out, before a held frame is
taken; with neither the transmitter is free (R194 to R196). A held frame is taken as its request's own command would be, with
the transmitter free and the frame no longer held, and leaves the receiver where it stands: `takeFrame` is what the command of
each kind of the catalogue does with its frame. -/
def Obligations.FramesAreReceivedAndRepliesLeave : Prop :=
  (∀ s : State, s.phase = .operating →
     (∀ x, exec (.startOfFrame x) s =
       .next { opened s with receiver := if s.receiver = .hunt ∧ x = 0xA5 then .frame else s.receiver }) ∧
     exec .frameGapTimeout s = .next { opened s with receiver := .hunt } ∧
     (∀ len, 248 < len.toNat → exec (.frameDiscarded [len]) s = .next { opened s with receiver := .hunt }) ∧
     ∀ len inner c1 c0, len.toNat ≤ 248 → inner.length = len.toNat + 2 → [c1, c0] ≠ bytes2 (crc16 (len :: inner)) →
       exec (.frameDiscarded (len :: inner ++ [c1, c0])) s = .next { opened s with receiver := .hunt }) ∧
  (∀ (s : State) (kind tag : Byte) (body : List Byte) (r : Reply),
     s.phase = .operating → s.sending = some r → body.length ≤ 248 →
     (s.held = none →
       exec (.frameHeld kind tag body) s = .next { opened s with receiver := .hunt, held := some ⟨kind, tag, body⟩ }) ∧
     (∀ f, s.held = some f → exec (.frameHeld kind tag body) s = .next { opened s with receiver := .hunt })) ∧
  (∀ (s : State) (r : Reply), s.phase = .operating → s.sending = some r → s.restartWaiting = false →
     (∀ r' rest, s.ready = r' :: rest →
       exec .replySent s = .next { opened s with sending := some r', ready := rest }) ∧
     (s.ready = [] → s.held = none → exec .replySent s = .next { opened s with sending := none }) ∧
     (∀ kind tag body, s.ready = [] → s.held = some ⟨kind, tag, body⟩ → s.service = none → kind ∉ catalogue →
       exec .replySent s = .next { opened s with sending := some (refusal tag .unknownKind), held := none }) ∧
     (∀ f, s.ready = [] → s.held = some f →
       exec .replySent s = .next (settle (takeFrame f { opened s with sending := none, held := none })))) ∧
  (∀ (i : Nat) (kind : Byte) (q : RequestForm), catalogue[i]? = some kind → requestForms[i]? = some q →
     ∀ (s : State) (tag : Byte) (body : List Byte), s.phase = .operating → body.length ≤ 248 →
       (s.sending = none → exec (q.command tag body) s = .next (settle (takeFrame ⟨kind, tag, body⟩ (atOwner s)))) ∧
       (s.sending.isSome = true → s.restartWaiting = false → s.ready = [] → s.held = some ⟨kind, tag, body⟩ →
         s.receiver = .hunt → exec .replySent s = exec (q.command tag body) { s with sending := none, held := none }))

/-- STATUS (R198): the reply as things stand when the request is taken; then notices-lost is no (R188), and nothing else changes.
That the reply has R198's fields and not the recovery timer, which R154 says STATUS reports, is the model's choice (assumption
log 45). -/
def Obligations.StatusReportsAndClearsNoticesLost : Prop :=
  ∀ (s : State) (tag : Byte), Serves s →
    exec (.status tag []) s = .next { answered s (doneReply tag
      ([s.sched.code, s.resumeTo.code, s.quality.code]
        ++ optTime (if s.quality = .unset then none else some s.campus)
        ++ [s.mode.code] ++ optByte (s.staged.map Mode.code) ++ flag s.emgKept ++ u8 s.slots.length
        ++ u8 s.results.length ++ u8 s.outbox.length ++ flag s.noticesLost ++ [s.storeState.code]
        ++ [s.branches[0].state.code, s.branches[1].state.code, s.branches[2].state.code, s.branches[3].state.code,
            s.branches[4].state.code, s.branches[5].state.code, s.branches[6].state.code, s.branches[7].state.code]))
      with noticesLost := false }

/-- IDENT (R199): BASKENDA, SV-4120, silicon revision 3. GET-PARAM (R201): number, index and the value held. -/
def Obligations.IdentAndGetParamAnswer : Prop :=
  (∀ (s : State) (tag : Byte), Serves s →
     exec (.ident tag []) s = .next (answered s (doneReply tag
       (8 :: ("BASKENDA".toList.map fun ch => BitVec.ofNat 8 ch.toNat)
         ++ 7 :: ("SV-4120".toList.map fun ch => BitVec.ofNat 8 ch.toNat) ++ [3])))) ∧
  (∀ (s : State) (tag num index : Byte), Serves s →
     exec (.getParam tag [num, index]) s = .next (answered s
       (if num.toNat ≤ 13 ∧ (if num = 7 ∨ num = 8 then index.toNat ≤ 7 else index = 0) then
         doneReply tag ([num, index] ++ s16 (s.params.value num.toNat index.toNat))
       else refusal tag .outOfRange)))

/-- SET-PARAM (R200, R25): refused outside its table, its range or the thresholds' order; else the value is replaced and
written, no other value changes, and raising the share or a limit is a trigger. A new overdue grace can raise notices (R84). -/
def Obligations.SetParamReplacesOneValue : Prop :=
  (∀ (p : Params) (num index : Nat) (v : Int), paramAdmits p num index v = true ↔
    (((num = 7 ∨ num = 8) ∧ index ≤ 7) ∨ (num ≤ 13 ∧ num ≠ 7 ∧ num ≠ 8 ∧ index = 0)) ∧
    (num = 0 → 15 ≤ v ∧ v ≤ 600) ∧ (num = 1 → 10 ≤ v ∧ v ≤ 250) ∧ (num = 2 → 12 ≤ v ∧ v ≤ 72) ∧
    (num = 3 → 1 ≤ v ∧ v ≤ 24) ∧ (num = 4 → 0 ≤ v ∧ v ≤ 120) ∧ (num = 5 → 0 ≤ v ∧ v ≤ 90) ∧
    (num = 6 → 0 ≤ v ∧ v ≤ 48) ∧ (num = 7 → 1 ≤ v ∧ v ≤ 16) ∧ (num = 8 → 0 ≤ v ∧ v ≤ 1) ∧
    (num = 9 ∨ num = 10 ∨ num = 11 → -20 ≤ v ∧ v ≤ 60) ∧ (num = 12 → 1 ≤ v ∧ v ≤ 10) ∧ (num = 13 → 5 ≤ v ∧ v ≤ 240) ∧
    (if num = 9 then v else p.coldNormal) < (if num = 10 then v else p.normalWarm) ∧
    (if num = 10 then v else p.normalWarm) < (if num = 11 then v else p.warmHot)) ∧
  ∀ (s : State) (tag num index v1 v0 : Byte), Serves s →
    (paramAdmits s.params num.toNat index.toNat (beInt2 v1 v0) = false →
      exec (.setParam tag [num, index, v1, v0]) s = .next (answered s (refusal tag .outOfRange))) ∧
    (paramAdmits s.params num.toNat index.toNat (beInt2 v1 v0) = true →
      ∃ u, exec (.setParam tag [num, index, v1, v0]) s = .next (settle u) ∧
        u.params.value num.toNat index.toNat = beInt2 v1 v0 ∧
        (∀ m i, isParam m i = true → (m ≠ num.toNat ∨ i ≠ index.toNat) → u.params.value m i = s.params.value m i) ∧
        (writeFails s = false → u.image.params = u.params) ∧
        (num ≠ 5 →
          u.trigger = decide ((num = 6 ∨ num = 7) ∧ s.params.value num.toNat index.toNat < beInt2 v1 v0) ∧
          Served (writeFails s)
            (storedReply (writeFails s) tag ([num, index] ++ s16 (s.params.value num.toNat index.toNat) ++ [v1, v0]))
            { s with params := u.params } u) ∧
        (num = 5 → Touches (withRecords { s with params := u.params, receiver := .hunt, sending := u.sending } u) u))

/-- A store write (R206, R207): one that fails leaves the image as it was, makes the store state FAULT and raises STORE-FAULT;
one that succeeds puts the item's present fields into the image, and touches no other item. What each item holds (R206). -/
def Obligations.AStoreWriteLandsOrFaults : Prop :=
  (∀ (s : State) (m : Image) (n : Nat), m.luminaires.Rising → m.groups.Rising → m.windows.Rising → m.blackouts.Rising →
    let now (i : Item) : Image := { m with damaged := m.damaged.filter fun d => d != i }
    (∃ t, storeItem s (.luminaire n) m = { now (.luminaire n) with luminaires := t } ∧
      (∀ j, j ≠ n → t.get j = m.luminaires.get j) ∧
      t.get n = (s.luminaires.get n).map fun l => {
        branch := l.branch, node := l.node, cls := l.cls, groups := l.groups, due := l.due, holdOff := l.holdOff
        recharge := l.recharge, latches := l.latches, lastResult := l.lastResult, overdueReported := l.overdueReported
        service := match l.state with
          | .outOfService => .outOfService
          | .recharging => .recharging
          | _ => .inService
        openMarker := l.openMarker
        storedStart := if l.openMarker then (slotOf s n).bind fun p => p.2.campusStart else none }) ∧
    (∃ t, storeItem s (.group n) m = { now (.group n) with groups := t } ∧
      (∀ j, j ≠ n → t.get j = m.groups.get j) ∧ t.get n = (s.groups.get n).map fun r => r.cap) ∧
    (∃ t, storeItem s (.window n) m = { now (.window n) with windows := t } ∧
      (∀ j, j ≠ n → t.get j = m.windows.get j) ∧ t.get n = s.windows.get n) ∧
    (∃ t, storeItem s (.blackout n) m = { now (.blackout n) with blackouts := t } ∧
      (∀ j, j ≠ n → t.get j = m.blackouts.get j) ∧ t.get n = s.blackouts.get n) ∧
    (∀ x : Fin 8, storeItem s (.cls x) m = { now (.cls x) with classes := m.classes.set x s.classes[x] } ∧
      storeItem s (.branch x) m = { now (.branch x) with branchOff := m.branchOff.set x s.branches[x].hostOff }) ∧
    storeItem s .mode m = { now .mode with mode := s.mode } ∧
    storeItem s .params m = { now .params with params := s.params } ∧
    storeItem s .mask m = { now .mask with mask := s.mask } ∧
    storeItem s .results m = { now .results with results := s.results, counter := s.resultCounter }) ∧
  ∀ (s : State) (i : Item),
    (writeFails s = true →
      (writeItem i s).image = s.image ∧ (writeItem i s).storeState = .fault ∧ (writeItem i s).writeFailed = true ∧
        (s.mask.getLsbD 18 = false → s.outbox.length < 32 →
          (writeItem i s).outbox = s.outbox ++ [⟨knownTime s, .storeFault i⟩] ∧ (writeItem i s).attn = true)) ∧
    (writeFails s = false → writeItem i s =
      { s with writeFates := s.writeFates.tail, lastWrites := s.image :: s.lastWrites, image := storeItem s i s.image })

/-! ### Notices, results -/

/-- The outbox's decision (R185): masked, discarded with notices-lost set, or queued at the tail with ATTN asserted.
SET-NOTICE-MASK and READ-NOTICE-MASK (R187). -/
def Obligations.TheOutboxDecidesByItsMask : Prop :=
  (∀ (s : State) (b : NoticeBody),
     (s.mask.getLsbD b.kind = true → raise b s = s) ∧
     (s.mask.getLsbD b.kind = false → 32 ≤ s.outbox.length → raise b s = { s with noticesLost := true }) ∧
     (s.mask.getLsbD b.kind = false → s.outbox.length < 32 →
       raise b s = { s with
         outbox := s.outbox ++ [⟨if s.quality = .unset then none else some s.campus, b⟩], attn := true })) ∧
  (∀ (s : State) (tag a b c : Byte), Serves s →
     exec (.readNoticeMask tag []) s = .next (answered s (doneReply tag
       [s.mask.extractLsb' 16 8, s.mask.extractLsb' 8 8, s.mask.extractLsb' 0 8])) ∧
     (8 ≤ a.toNat → exec (.setNoticeMask tag [a, b, c]) s = .next (answered s (refusal tag .outOfRange))) ∧
     (a.toNat < 8 →
       ∃ u, exec (.setNoticeMask tag [a, b, c]) s = .next (settle u) ∧ u.trigger = false ∧
         u.mask = a ++ b ++ c ∧ (writeFails s = false → u.image.mask = u.mask) ∧
         Served (writeFails s) (storedReply (writeFails s) tag []) { s with mask := u.mask } u))

/-- TAKE-NOTICES (R189) and TAKE-RESULTS (R182, R183): the oldest leave, as many as the count or as many as there are, and are
returned, results also when the write fails; a take of a result is written and is a trigger; ATTN follows. -/
def Obligations.TakesRemoveTheOldest : Prop :=
  (∀ (s : State) (tag k : Byte), Serves s →
     (k.toNat = 0 ∨ 8 < k.toNat → exec (.takeNotices tag [k]) s = .next (answered s (refusal tag .outOfRange))) ∧
     (1 ≤ k.toNat → k.toNat ≤ 8 →
       exec (.takeNotices tag [k]) s = .next { answered s (doneReply tag
           (if s.outbox = [] then [] else listOf ((s.outbox.take k.toNat).map Notice.bytes)))
         with outbox := s.outbox.drop k.toNat, attn := !s.results.isEmpty || !(s.outbox.drop k.toNat).isEmpty })) ∧
  (∀ (s : State) (tag k : Byte), Serves s →
     (k.toNat = 0 ∨ 4 < k.toNat → exec (.takeResults tag [k]) s = .next (answered s (refusal tag .outOfRange))) ∧
     (1 ≤ k.toNat → k.toNat ≤ 4 → s.results = [] →
       exec (.takeResults tag [k]) s = .next (answered s (doneReply tag []))) ∧
     (1 ≤ k.toNat → k.toNat ≤ 4 → s.results ≠ [] →
       ∃ u, exec (.takeResults tag [k]) s = .next (settle u) ∧ u.trigger = true ∧
         u.results = s.results.drop k.toNat ∧
         (writeFails s = false → u.image.results = u.results ∧ u.image.counter = s.resultCounter ∧
           u.attn = (!u.results.isEmpty || !s.outbox.isEmpty)) ∧
         Served (writeFails s)
           (storedReply (writeFails s) tag (listOf ((s.results.take k.toNat).map ResultRecord.bytes)))
           { s with results := u.results, attn := u.attn } u))

/-! ### The luminaire table, classes and groups -/

/-- ENROL (R4, R5, R6): refused in the order of its checks, with OUT-OF-RANGE for a field outside its range, EXISTS for a number
or an address in use, NO-SUCH-RECORD for an undefined group, FULL for a group with 64 members, nothing changed; else the new
record, its groups' member lists and dark counts, its trigger, its frame. That a threshold already past raises no OVERDUE inside
the request is the model's choice (assumption log 25). -/
def Obligations.EnrolCreatesTheRecord : Prop :=
  (∀ (s : State) (tag : Byte) (body : List Byte) (q : EnrolBody), Serves s → body.length ≤ 248 → enrolBody body = some q →
     let inRange : Prop := q.number < 3072 ∧ q.branch < 8 ∧ 0 < q.node ∧ q.node < 512 ∧ q.cls < 8 ∧
       (q.inService = 0 ∨ q.inService = 1) ∧ q.groups.length ≤ 3 ∧ q.groups.Nodup ∧ ∀ g ∈ q.groups, g < 384
     let inUse : Prop := (s.luminaires.get q.number).isSome = true ∨
       ∃ p ∈ s.luminaires, p.2.branch.val = q.branch ∧ p.2.node = q.node
     let defined : Prop := ∀ g ∈ q.groups, (s.groups.get g).isSome = true
     let full : Prop := ∃ g ∈ q.groups, ∃ r, s.groups.get g = some r ∧ 64 ≤ r.members.length ∧ q.number ∉ r.members
     (¬inRange → exec (.enrol tag body) s = .next (answered s (refusal tag .outOfRange))) ∧
     (inRange → inUse → exec (.enrol tag body) s = .next (answered s (refusal tag .exists_))) ∧
     (inRange → ¬inUse → ¬defined → exec (.enrol tag body) s = .next (answered s (refusal tag .noSuchRecord))) ∧
     (inRange → ¬inUse → defined → full → exec (.enrol tag body) s = .next (answered s (refusal tag .full)))) ∧
  ∀ (s : State) (tag : Byte) (body : List Byte) (q : EnrolBody) (b c : Fin 8) (inService : Bool), Serves s →
    body.length ≤ 248 → enrolBody body = some q → q.branch = b → q.cls = c → q.inService = (if inService then 1 else 0) →
    q.number < 3072 → 0 < q.node → q.node < 512 → q.groups.length ≤ 3 → q.groups.Nodup →
    (∀ g ∈ q.groups, g < 384 ∧ ∃ r, s.groups.get g = some r ∧ r.members.length < 64) →
    s.luminaires.get q.number = none → (∀ p ∈ s.luminaires, ¬(p.2.branch = b ∧ p.2.node = q.node)) →
    ∃ u, exec (.enrol tag body) s = .next (settle u) ∧
      RecordMoves q.number (some {
        branch := b, node := q.node, cls := c, groups := q.groups, due := q.due
        state := if inService then (if s.quality ≠ .unset ∧ q.due ≤ s.campus then .due else .idle) else .outOfService
        holdOff := none, recharge := none, band := .unknown, bandTime := none, bandLife := none, latches := {}
        lastReport := none, lastExchange := none, lastResult := none, overdueReported := false, openMarker := false
        blockedBy := none, cancelPending := none, outAtRelease := false, watchArmed := true }) s u ∧
      (inService = true → q.number ∈ u.schedule) ∧
      u.trigger = (inService && decide (s.quality ≠ .unset ∧ q.due ≤ s.campus)) ∧
      (writeFails s = false →
        u.image.luminaires.get q.number = (u.luminaires.get q.number).map (storedLuminaire u q.number)) ∧
      Served (writeFails s) (storedReply (writeFails s) tag []) (withRecords s u) u

/-- WITHDRAW (R7): the position becomes unused, its groups and the schedule list lose the luminaire, its queued CHECKs are
removed and any other exchange stays; a fall of a dark count is a trigger. -/
def Obligations.WithdrawEmptiesThePosition : Prop :=
  ∀ (s : State) (tag n1 n0 : Byte) (l : Luminaire), Serves s → be2 n1 n0 < 3072 →
    s.luminaires.get (be2 n1 n0) = some l → s.luminaires.Rising →
    (l.state.holdsSlot = true → exec (.withdraw tag [n1, n0]) s = .next (answered s (refusal tag .state))) ∧
    (l.state.holdsSlot = false →
      ∃ u, exec (.withdraw tag [n1, n0]) s = .next (settle u) ∧
        RecordMoves (be2 n1 n0) none s u ∧
        u.schedule = (if l.state.waits then s.schedule.erase (be2 n1 n0) else s.schedule) ∧
        u.branches = s.branches.set l.branch { s.branches[l.branch] with
          queue := s.branches[l.branch].queue.filter fun e => !isCheckOf (be2 n1 n0) e } ∧
        (l.dark = true → (∃ g ∈ l.groups, (s.groups.get g).isSome = true) → u.trigger = true) ∧
        Served (writeFails s) (storedReply (writeFails s) tag [])
          (withRecords { s with branches := u.branches, checkPending := u.checkPending } u) u)

/-- AMEND (R9 to R11): the record takes each part given; a new address drops what was known of the node at the old one. -/
def Obligations.AmendChangesEachPartGiven : Prop :=
  ∀ (s : State) (tag : Byte) (body : List Byte) (q : AmendBody) (p : AmendParts) (l : Luminaire), Serves s →
    body.length ≤ 248 → amendBody body = some q → amendParts q = some p → q.number < 3072 →
    s.luminaires.get q.number = some l → p ≠ ⟨none, none, none⟩ →
    (p.address.isSome = true → l.state.holdsSlot = false) →
    (∀ a, p.address = some a → ∀ x ∈ s.luminaires, x.1 ≠ q.number → ¬(x.2.branch = a.1 ∧ x.2.node = a.2)) →
    (∀ gs, p.groups = some gs → ∀ g ∈ gs, ∃ r, s.groups.get g = some r ∧ (q.number ∈ r.members ∨ r.members.length < 64)) →
    ∃ u, exec (.amend tag body) s = .next (settle u) ∧
      RecordMoves q.number (some (match p.address with
        | none => { l with cls := p.cls.getD l.cls, groups := p.groups.getD l.groups }
        | some (b, node) => { l with
            cls := p.cls.getD l.cls, groups := p.groups.getD l.groups, branch := b, node := node
            band := .unknown, bandLife := none, bandTime := none, lastReport := none, lastExchange := none
            latches := { l.latches with noAnswer := false } })) s u ∧
      (p.address = none → u.branches = s.branches) ∧
      (p.address.isSome = true → u.branches = s.branches.set l.branch { s.branches[l.branch] with
        queue := s.branches[l.branch].queue.filter fun e => !isCheckOf q.number e }) ∧
      Served (writeFails s) (storedReply (writeFails s) tag [])
        (withRecords { s with branches := u.branches, checkPending := u.checkPending } u) u

/-- SET-DUE (R12): the due time is replaced, overdue reported cleared, the watch armed, IDLE or DUE decided again; refused
with STATE while the luminaire holds a slot. That a threshold already past raises no OVERDUE inside the request is the model's
choice (assumption log 25). -/
def Obligations.SetDueReplacesTheDueTime : Prop :=
  ∀ (s : State) (tag n1 n0 d3 d2 d1 d0 : Byte) (l : Luminaire), Serves s → be2 n1 n0 < 3072 →
    s.luminaires.get (be2 n1 n0) = some l →
    (l.state.holdsSlot = true →
      exec (.setDue tag [n1, n0, d3, d2, d1, d0]) s = .next (answered s (refusal tag .state))) ∧
    (l.state.holdsSlot = false →
      ∃ u, exec (.setDue tag [n1, n0, d3, d2, d1, d0]) s = .next (settle u) ∧
        (∃ l', RecordMoves (be2 n1 n0) (some l') s u ∧
          l' = { l with
            due := be4 d3 d2 d1 d0, overdueReported := false, watchArmed := true, blockedBy := l'.blockedBy
            state := if l.state.waits then
                (if s.quality ≠ .unset ∧ be4 d3 d2 d1 d0 ≤ s.campus then .due else .idle)
              else l.state } ∧
          (l'.state = l.state → l'.blockedBy = l.blockedBy) ∧ (l.state = .due → l'.state = .idle → l'.blockedBy = none) ∧
          (l.state ≠ .due → l'.state = .due → u.trigger = true)) ∧
        Served (writeFails s) (storedReply (writeFails s) tag []) (withRecords s u) u)

/-- SET-OUT-OF-SERVICE (R13, R14): at once from IDLE, DUE and RECHARGING; taken without a change when it has been made already;
on a RESERVED slot it records cancel pending SERVICE, with the change left to the release; in TESTING it recalls the RUNNING
slot, which goes CLOSING with CANCELLED unless an outcome was fixed, its READs out of the queue and its STOP in it (R105, R106);
in STOPPING it makes no recall. RETURN-TO-SERVICE (R15, R63):
OUT-OF-SERVICE becomes IDLE or DUE by the due time; a threshold already reached under an armed watch raises its OVERDUE notice
now, and the write of overdue reported counts as the request's (R206). That the threshold is judged by the present campus time and
grace (assumption log 48), and that the record's own write and its STORE-FAULT stand before the OVERDUE notice (assumption log
26), are the model's choice. -/
def Obligations.ServiceIsLeftAndEntered : Prop :=
  (∀ (s : State) (tag n1 n0 : Byte) (l : Luminaire), Serves s → be2 n1 n0 < 3072 →
     s.luminaires.get (be2 n1 n0) = some l →
     (l.state.holdsSlot = false → l.state ≠ .outOfService →
       ∃ u, exec (.setOutOfService tag [n1, n0]) s = .next (settle u) ∧
         RecordMoves (be2 n1 n0) (some { l with state := .outOfService, blockedBy := none, recharge := none }) s u ∧
         Served (writeFails s) (storedReply (writeFails s) tag []) (withRecords s u) u) ∧
     ((l.state = .outOfService ∨ (l.state.holdsSlot = true ∧ l.outAtRelease = true)) →
       exec (.setOutOfService tag [n1, n0]) s = .next (answered s (doneReply tag []))) ∧
     (∀ k sl, l.state = .starting → l.outAtRelease = false → slotOf s (be2 n1 n0) = some (k, sl) →
       s.slots.get k = some sl → sl.status = .reserved →
       ∃ u, exec (.setOutOfService tag [n1, n0]) s = .next (settle u) ∧
         RecordMoves (be2 n1 n0)
           (some { l with outAtRelease := true, cancelPending := some (l.cancelPending.getD .service) }) s u ∧
         Served false (doneReply tag []) (withRecords s u) u) ∧
     (∀ k sl, l.state = .testing → l.outAtRelease = false → slotOf s (be2 n1 n0) = some (k, sl) →
       s.slots.get k = some sl → sl.status = .running → s.branches[sl.branch].state = .ready →
       ∃ u, exec (.setOutOfService tag [n1, n0]) s = .next (settle u) ∧ u.trigger = false ∧
         u.slots = s.slots.put k { sl with
           status := .closing, supervision := none, endTimer := none, stopAttempts := 1
           outcome := some (sl.outcome.getD .cancelled)
           elapsedMinutes := if sl.outcome.isSome then sl.elapsedMinutes else some (elapsedNow s sl) } ∧
         u.branches = s.branches.set sl.branch { s.branches[sl.branch] with
           queue := (s.branches[sl.branch].queue.filter fun e => !isReadOf k (be2 n1 n0) e)
             ++ [stopExchange l.node (be2 n1 n0) (.slot k (be2 n1 n0)) true] } ∧
         RecordMoves (be2 n1 n0) (some { l with outAtRelease := true, state := .stopping, blockedBy := none }) s u ∧
         Served false (doneReply tag []) { withRecords s u with slots := u.slots, branches := u.branches } u) ∧
     (l.state = .stopping → l.outAtRelease = false →
       ∃ u, exec (.setOutOfService tag [n1, n0]) s = .next (settle u) ∧
         RecordMoves (be2 n1 n0) (some { l with outAtRelease := true }) s u ∧
         Served false (doneReply tag []) (withRecords s u) u)) ∧
  (∀ (s : State) (tag n1 n0 : Byte) (l : Luminaire), Serves s → be2 n1 n0 < 3072 →
     s.luminaires.get (be2 n1 n0) = some l →
     (l.state ≠ .outOfService → exec (.returnToService tag [n1, n0]) s = .next (answered s (refusal tag .state))) ∧
     (l.state = .outOfService →
       ∃ u, exec (.returnToService tag [n1, n0]) s = .next (settle u) ∧
         RecordMoves (be2 n1 n0) (some { l with
           state := if s.quality ≠ .unset ∧ l.due ≤ s.campus then .due else .idle
           blockedBy := if s.quality ≠ .unset ∧ l.due ≤ s.campus then l.blockedBy else none
           overdueReported := l.overdueReported || (l.watchArmed && overdueReached s l)
           watchArmed := l.watchArmed && !overdueReached s l }) s u ∧
         (s.quality ≠ .unset → l.due ≤ s.campus → u.trigger = true) ∧
         Raises (storeFaultIf (writeFailsAt s 0) (.luminaire (be2 n1 n0)) ++
           overdueNotices s (be2 n1 n0) l (writeFailsAt s 1)) s u ∧
         u.sending = some (storedReply
           (writeFailsAt s 0 || (l.watchArmed && overdueReached s l && writeFailsAt s 1)) tag []) ∧
         Touches (withRecords { s with receiver := .hunt, sending := u.sending } u) u))

/-- CLEAR-FAULTS (R22): each of NO-ANSWER, CHARGER and MAINS-LOST whose condition the record shows absent is cleared; the
reply carries the latches held afterwards. That a CLEAR-FAULTS which clears nothing writes nothing, so that it is answered DONE
whatever the fate of the next write, is the model's reading (assumption log 36). -/
def Obligations.ClearFaultsClearsWhatIsAbsent : Prop :=
  ∀ (s : State) (tag n1 n0 : Byte) (l : Luminaire), Serves s → be2 n1 n0 < 3072 →
    s.luminaires.get (be2 n1 n0) = some l →
    let latches : Latches := { l.latches with
      noAnswer := l.latches.noAnswer && decide (l.lastExchange ≠ some .answered)
      charger := l.latches.charger && (l.lastReport.all fun r => !r.record.chargerOk)
      mainsLost := l.latches.mainsLost && (l.lastReport.all fun r => !r.record.mains) }
    (latches = l.latches →
      exec (.clearFaults tag [n1, n0]) s = .next (answered s (doneReply tag [latches.code]))) ∧
    (latches ≠ l.latches →
      ∃ u, exec (.clearFaults tag [n1, n0]) s = .next (settle u) ∧ u.trigger = false ∧
        RecordMoves (be2 n1 n0) (some { l with latches := latches }) s u ∧
        Served (writeFails s) (storedReply (writeFails s) tag [latches.code]) (withRecords s u) u)

/-- READ-LUMINAIRE, READ-CLASS, READ-GROUP (R26, R16, R33), READ-WINDOW, READ-BLACKOUT, READ-CALENDAR (R50, R51, R58), READ-SLOT,
CAMPAIGN-STATUS, BRANCH-STATUS (R87, R143, R177): the reply, and nothing changes. The model's own are the layout of
READ-CALENDAR (assumption log 30), those of READ-SLOT's request and reply, of an unused entry and of a FREE slot (log 9), the
widths of fields that R202 does not list (log 8), the start of the own count that an elapsed reference reads (log 23), and a
CAMPAIGN-STATUS body above 248 bytes (log 20). -/
def Obligations.ReadsChangeNothing : Prop :=
  (∀ (s : State) (tag n1 n0 i : Byte), Serves s →
     exec (.readLuminaire tag [n1, n0, 0]) s = .next (answered s
       (if 3072 ≤ be2 n1 n0 then refusal tag .outOfRange
       else match s.luminaires.get (be2 n1 n0) with
         | some l => doneReply tag (luminaireBytes (be2 n1 n0) l)
         | none => refusal tag .noSuchRecord)) ∧
     exec (.readLuminaire tag [n1, n0, 1]) s = .next (answered s
       (if 3072 ≤ be2 n1 n0 then refusal tag .outOfRange
       else match s.luminaires.find? (fun p => decide (be2 n1 n0 ≤ p.1)) with
         | some (m, l) => doneReply tag (luminaireBytes m l)
         | none => refusal tag .noSuchRecord)) ∧
     exec (.readGroup tag [n1, n0, 0]) s = .next (answered s
       (if 384 ≤ be2 n1 n0 then refusal tag .outOfRange
       else match s.groups.get (be2 n1 n0) with
         | some r => doneReply tag (u16 (be2 n1 n0) ++ u8 r.cap ++ u8 r.dark ++ listOf (r.members.map u16))
         | none => refusal tag .noSuchRecord)) ∧
     exec (.readGroup tag [n1, n0, 1]) s = .next (answered s
       (if 384 ≤ be2 n1 n0 then refusal tag .outOfRange
       else match s.groups.find? (fun p => decide (be2 n1 n0 ≤ p.1)) with
         | some (m, r) => doneReply tag (u16 m ++ u8 r.cap ++ u8 r.dark ++ listOf (r.members.map u16))
         | none => refusal tag .noSuchRecord)) ∧
     exec (.readClass tag [i]) s = .next (answered s
       (if h : i.toNat < 8 then
         doneReply tag (u16 s.classes[i.toNat].rated ++ u16 s.classes[i.toNat].period ++ u16 s.classes[i.toNat].retest
           ++ u16 s.classes[i.toNat].normalMin ++ u16 s.classes[i.toNat].warmMin)
       else refusal tag .outOfRange))) ∧
  (∀ (s : State) (tag i : Byte), Serves s →
     exec (.readWindow tag [i]) s = .next (answered s
       (if 32 ≤ i.toNat then refusal tag .outOfRange
       else doneReply tag (match s.windows.get i.toNat with
         | none => [0, 0, 0, 0, 0, 0, 0]
         | some e => 1 :: [e.days.setWidth 8] ++ u16 e.start ++ u16 e.stop ++ [e.modes.setWidth 8]))) ∧
     exec (.readBlackout tag [i]) s = .next (answered s
       (if 24 ≤ i.toNat then refusal tag .outOfRange
       else doneReply tag (match s.blackouts.get i.toNat with
         | none => [0, 0, 0, 0, 0, 0, 0, 0, 0]
         | some e => 1 :: u32 e.start ++ u32 e.stop))) ∧
     exec (.readCalendar tag []) s = .next (answered s (doneReply tag
       (u32 s.campus ++ [s.quality.code] ++ flag (openNow s) ++ optTime (if openNow s then openIntervalEnd s else none)
         ++ flag (blackoutAt s s.campus) ++ optTime (nextBlackout s) ++ [s.mode.code] ++ optByte (s.staged.map Mode.code)
         ++ optTime s.staleness)))) ∧
  (∀ (s : State) (tag n1 n0 i : Byte), Serves s →
     exec (.readSlot tag [i, n1, n0, 0]) s = .next (answered s
       (if 48 ≤ i.toNat then refusal tag .outOfRange else doneReply tag (slotBytes (s.slots.get i.toNat) ++ [0, 0]))) ∧
     exec (.readSlot tag [i, n1, n0, 1]) s = .next (answered s
       (if 3072 ≤ be2 n1 n0 then refusal tag .outOfRange
       else if s.luminaires.get (be2 n1 n0) = none then refusal tag .noSuchRecord
       else match slotOf s (be2 n1 n0) with
         | none => refusal tag .state
         | some (k, sl) => doneReply tag (slotBytes (some sl) ++ 1 :: u8 k))) ∧
     exec (.campaignStatus tag [i]) s = .next (answered s
       (if h : i.toNat < 4 then doneReply tag (channelBytes s.channels[i.toNat]) else refusal tag .outOfRange)) ∧
     exec (.branchStatus tag [i]) s = .next (answered s
       (if h : i.toNat < 8 then
         let br := s.branches[i.toNat]
         doneReply tag ([br.state.code] ++ u8 br.queue.length ++ u8 (br.queue.filter fun e => e.kind == .stop).length
           ++ opt 4 (br.inFlight.map fun f => [f.exchange.kind.code] ++ u16 f.exchange.node ++ u8 f.sends)
           ++ u8 (occupiedOn s ⟨i.toNat, h⟩) ++ u8 (unreservedFree s ⟨i.toNat, h⟩) ++ u8 s.params.concurrency[i.toNat]
           ++ u8 br.chatter ++ flag s.params.autoDisable[i.toNat])
       else refusal tag .outOfRange)))

/-- SET-CLASS (R17): refused outside its ranges; else the class record is replaced whole and written. DEFINE-GROUP and DROP-GROUP
(R30 to R32). The widths of SET-CLASS's fields (assumption log 8), and that it writes a value already held too while DEFINE-GROUP
with the present cap writes nothing (log 36), are the model's. -/
def Obligations.ClassesAndGroupsAreEdited : Prop :=
  (∀ (s : State) (tag i a1 a0 b1 b0 c1 c0 d1 d0 e1 e0 : Byte), Serves s →
     let c : TestClass := ⟨be2 a1 a0, be2 b1 b0, be2 c1 c0, be2 d1 d0, be2 e1 e0⟩
     let ranged := 30 ≤ c.rated ∧ c.rated ≤ 240 ∧ 30 ≤ c.period ∧ c.period ≤ 400 ∧ 1 ≤ c.retest ∧ c.retest ≤ 60 ∧
       1000 ≤ c.normalMin ∧ c.normalMin ≤ 15000 ∧ 1000 ≤ c.warmMin ∧ c.warmMin ≤ 15000
     (¬(i.toNat < 8 ∧ ranged) → exec (.setClass tag [i, a1, a0, b1, b0, c1, c0, d1, d0, e1, e0]) s =
       .next (answered s (refusal tag .outOfRange))) ∧
     (∀ h : i.toNat < 8, ranged →
       ∃ u, exec (.setClass tag [i, a1, a0, b1, b0, c1, c0, d1, d0, e1, e0]) s = .next (settle u) ∧ u.trigger = false ∧
         u.classes = s.classes.set i.toNat c ∧
         (writeFails s = false → u.image.classes = s.image.classes.set i.toNat c) ∧
         Served (writeFails s) (storedReply (writeFails s) tag []) { s with classes := u.classes } u)) ∧
  (∀ (s : State) (tag g1 g0 c : Byte), Serves s → s.groups.Rising →
     (384 ≤ be2 g1 g0 ∨ c = 0 ∨ 15 < c.toNat →
       exec (.defineGroup tag [g1, g0, c]) s = .next (answered s (refusal tag .outOfRange))) ∧
     (be2 g1 g0 < 384 → 1 ≤ c.toNat → c.toNat ≤ 15 →
       (∀ r, s.groups.get (be2 g1 g0) = some r → r.cap = c.toNat →
         exec (.defineGroup tag [g1, g0, c]) s = .next (answered s (doneReply tag []))) ∧
       ((∀ r, s.groups.get (be2 g1 g0) = some r → r.cap ≠ c.toNat) →
         ∃ u, exec (.defineGroup tag [g1, g0, c]) s = .next (settle u) ∧
           u.groups.get (be2 g1 g0) = some (match s.groups.get (be2 g1 g0) with
             | none => ⟨c.toNat, [], 0⟩
             | some r => { r with cap := c.toNat }) ∧
           (∀ h, h ≠ be2 g1 g0 → u.groups.get h = s.groups.get h) ∧
           (u.trigger = true ↔ ∃ r, s.groups.get (be2 g1 g0) = some r ∧ r.cap < c.toNat) ∧
           Served (writeFails s) (storedReply (writeFails s) tag []) { s with groups := u.groups } u)) ∧
     (be2 g1 g0 < 384 →
       (s.groups.get (be2 g1 g0) = none →
         exec (.dropGroup tag [g1, g0]) s = .next (answered s (refusal tag .noSuchRecord))) ∧
       (∀ r, s.groups.get (be2 g1 g0) = some r → r.members ≠ [] →
         exec (.dropGroup tag [g1, g0]) s = .next (answered s (refusal tag .notEmpty))) ∧
       (∀ r, s.groups.get (be2 g1 g0) = some r → r.members = [] →
         ∃ u, exec (.dropGroup tag [g1, g0]) s = .next (settle u) ∧ u.trigger = false ∧
           u.groups.get (be2 g1 g0) = none ∧ (∀ h, h ≠ be2 g1 g0 → u.groups.get h = s.groups.get h) ∧
           Served (writeFails s) (storedReply (writeFails s) tag []) { s with groups := u.groups } u)))

/-! ### The calendar and the stored instants -/

/-- Weekday and time of day (R48); what a window entry covers (R49): from its start minute up to its end minute, past midnight on
the day after its weekday when the end is not after the start; the window is open when time quality is SET or STALE, an enabled
entry covers the instant and no blackout is in force (R52). While it is open, the open interval's end is the first later instant
that no enabled entry covers or at which a blackout starts, and there is none exactly when there is no such instant (R52). The
next blackout start (R53): the present instant while one is in force, else the earliest later start, if there is one. -/
def Obligations.TheWindowIsOpenExactlyWhen : Prop :=
  (∀ (e : WindowEntry) (t : Nat), e.start < 1440 → e.stop < 1440 →
     weekday 172800 = 0 ∧ weekday 0 = 5 ∧ weekday t = (t / 86400 + 5) % 7 ∧
     (e.start < e.stop → (e.covers t = true ↔
       e.days.getLsbD (weekday t) = true ∧ e.start * 60 ≤ t % 86400 ∧ t % 86400 < e.stop * 60)) ∧
     (e.stop ≤ e.start → 86400 ≤ t → (e.covers t = true ↔
       (e.days.getLsbD (weekday t) = true ∧ e.start * 60 ≤ t % 86400) ∨
       (e.days.getLsbD (weekday (t - 86400)) = true ∧ t % 86400 < e.stop * 60)))) ∧
  (∀ s : State, openNow s = true ↔
     (s.quality = .set ∨ s.quality = .stale) ∧
     (∃ p ∈ s.windows, p.2.modes.getLsbD s.mode.index = true ∧ p.2.covers s.campus = true) ∧
     ∀ p ∈ s.blackouts, ¬(p.2.start ≤ s.campus ∧ s.campus < p.2.stop)) ∧
  (∀ s : State, openNow s = true → (∀ p ∈ s.windows, p.2.start < 1440 ∧ p.2.stop < 1440) →
     let unbroken (t : Nat) : Prop :=
       (∃ p ∈ s.windows, p.2.modes.getLsbD s.mode.index = true ∧ p.2.covers t = true) ∧ ∀ p ∈ s.blackouts, p.2.start ≠ t
     (∀ e, openIntervalEnd s = some e ↔ s.campus < e ∧ ¬unbroken e ∧ ∀ t, s.campus < t → t < e → unbroken t) ∧
     (openIntervalEnd s = none ↔ ∀ t, s.campus < t → unbroken t)) ∧
  (∀ s : State,
     ((∃ p ∈ s.blackouts, p.2.start ≤ s.campus ∧ s.campus < p.2.stop) → nextBlackout s = some s.campus) ∧
     ((∀ p ∈ s.blackouts, ¬(p.2.start ≤ s.campus ∧ s.campus < p.2.stop)) →
       (∀ e, nextBlackout s = some e ↔ s.campus < e ∧ (∃ p ∈ s.blackouts, p.2.start = e) ∧
         ∀ p ∈ s.blackouts, s.campus < p.2.start → e ≤ p.2.start) ∧
       (nextBlackout s = none ↔ ∀ p ∈ s.blackouts, p.2.start ≤ s.campus)))

/-- SET-TIME (R45, R46): the new time and quality, the staleness timer of 8 days, the reply with the old time and quality, the
trigger; no stored instant that the new time has reached is left: no hold-off, due time, recharge until, overdue threshold or
window boundary (R42). That TIME-STEP is SET-TIME's first notice and is stamped with the new time is the model's choice
(assumption log 26); that the reply is DONE whatever becomes of the arrivals' writes is the model's reading (log 14). -/
def Obligations.SetTimeSetsTheClock : Prop :=
  ∀ (s : State) (tag a b c d : Byte), Serves s →
    ∃ u, exec (.setTime tag [a, b, c, d]) s = .next (settle u) ∧
      u = { s with
        campus := be4 a b c d, quality := .set, staleness := some 691200, receiver := .hunt
        sending := some (doneReply tag (optTime (if s.quality = .unset then none else some s.campus) ++ [s.quality.code]))
        luminaires := u.luminaires, groups := u.groups, schedule := u.schedule, windowOpen := u.windowOpen
        mode := u.mode, staged := u.staged, image := u.image, lastWrites := u.lastWrites, storeState := u.storeState
        writeFates := u.writeFates, writeFailed := false, outbox := u.outbox, noticesLost := u.noticesLost
        attn := u.attn, trigger := u.trigger } ∧
      u.windowOpen = openNow u ∧ (s.quality ≠ .set → u.trigger = true) ∧
      (∀ n l, u.luminaires.get n = some l →
        (∀ h, l.holdOff = some h → be4 a b c d < h) ∧ (l.state = .idle → be4 a b c d < l.due) ∧
        (∀ x, l.state = .recharging → l.recharge = some (.until x) → be4 a b c d < x) ∧
        (l.watchArmed = true → l.state = .idle ∨ l.state = .due ∨ l.state = .recharging →
          be4 a b c d < l.due + s.params.overdueGrace * 86400) ∧
        (s.quality = .unset → l.recharge ≠ some .pending)) ∧
      (s.mask.getLsbD 3 = false → s.outbox.length < 32 → s.quality ≠ .unset →
        (s.campus + 900 < be4 a b c d ∨ be4 a b c d + 900 < s.campus) →
        u.outbox[s.outbox.length]? = some ⟨some (be4 a b c d), .timeStep s.campus (be4 a b c d)⟩)

/-- SET-WINDOW, CLEAR-WINDOW (R50), SET-BLACKOUT, CLEAR-BLACKOUT (R51): the entry is replaced or becomes unused, and the window
state becomes what R52 says, with the notices of a window-open or a window-close event and of a staged mode's change (R54, R57).
That the entry's write and its STORE-FAULT stand before those notices is the model's choice (assumption log 26). -/
def Obligations.CalendarEntriesAreEdited : Prop :=
  (∀ (s : State) (tag i days a1 a0 b1 b0 modes : Byte), Serves s → s.windows.Rising →
     (32 ≤ i.toNat →
       exec (.setWindow tag [i, days, a1, a0, b1, b0, modes]) s = .next (answered s (refusal tag .outOfRange)) ∧
       exec (.clearWindow tag [i]) s = .next (answered s (refusal tag .outOfRange))) ∧
     (i.toNat < 32 → days ≠ 0 → days.toNat < 128 → be2 a1 a0 < 1440 → be2 b1 b0 < 1440 → modes ≠ 0 → modes.toNat < 8 →
       ∃ u, exec (.setWindow tag [i, days, a1, a0, b1, b0, modes]) s = .next (settle u) ∧
         u.windows.get i.toNat = some ⟨days.setWidth 7, be2 a1 a0, be2 b1 b0, modes.setWidth 3⟩ ∧
         (∀ j, j ≠ i.toNat → u.windows.get j = s.windows.get j) ∧ u.windowOpen = openNow u ∧
         Raises (storeFaultIf (writeFailsAt s 0) (.window i.toNat) ++
           windowNotices { s with windows := u.windows } u (writeFailsAt s 1)) s u ∧
         (s.writeFates = [] → u.sending = some (doneReply tag [])) ∧
         Touches { s with
           windows := u.windows, windowOpen := u.windowOpen, mode := u.mode, staged := u.staged, receiver := .hunt
           sending := u.sending } u) ∧
     (i.toNat < 32 → s.windows.get i.toNat = none →
       exec (.clearWindow tag [i]) s = .next (answered s (doneReply tag []))) ∧
     (i.toNat < 32 → (s.windows.get i.toNat).isSome = true →
       ∃ u, exec (.clearWindow tag [i]) s = .next (settle u) ∧ u.windows.get i.toNat = none ∧
         (∀ j, j ≠ i.toNat → u.windows.get j = s.windows.get j) ∧ u.windowOpen = openNow u ∧
         Raises (storeFaultIf (writeFailsAt s 0) (.window i.toNat) ++
           windowNotices { s with windows := u.windows } u (writeFailsAt s 1)) s u ∧
         (s.writeFates = [] → u.sending = some (doneReply tag [])) ∧
         Touches { s with
           windows := u.windows, windowOpen := u.windowOpen, mode := u.mode, staged := u.staged, receiver := .hunt
           sending := u.sending } u)) ∧
  (∀ (s : State) (tag i a3 a2 a1 a0 b3 b2 b1 b0 : Byte), Serves s → s.blackouts.Rising →
     (24 ≤ i.toNat ∨ be4 b3 b2 b1 b0 ≤ be4 a3 a2 a1 a0 →
       exec (.setBlackout tag [i, a3, a2, a1, a0, b3, b2, b1, b0]) s = .next (answered s (refusal tag .outOfRange))) ∧
     (24 ≤ i.toNat → exec (.clearBlackout tag [i]) s = .next (answered s (refusal tag .outOfRange))) ∧
     (i.toNat < 24 → be4 a3 a2 a1 a0 < be4 b3 b2 b1 b0 →
       ∃ u, exec (.setBlackout tag [i, a3, a2, a1, a0, b3, b2, b1, b0]) s = .next (settle u) ∧
         u.blackouts.get i.toNat = some ⟨be4 a3 a2 a1 a0, be4 b3 b2 b1 b0⟩ ∧
         (∀ j, j ≠ i.toNat → u.blackouts.get j = s.blackouts.get j) ∧ u.windowOpen = openNow u ∧
         Raises (storeFaultIf (writeFailsAt s 0) (.blackout i.toNat) ++
           windowNotices { s with blackouts := u.blackouts } u (writeFailsAt s 1)) s u ∧
         (s.writeFates = [] → u.sending = some (doneReply tag [])) ∧
         Touches { s with
           blackouts := u.blackouts, windowOpen := u.windowOpen, mode := u.mode, staged := u.staged, receiver := .hunt
           sending := u.sending } u) ∧
     (i.toNat < 24 → s.blackouts.get i.toNat = none →
       exec (.clearBlackout tag [i]) s = .next (answered s (doneReply tag []))) ∧
     (i.toNat < 24 → (s.blackouts.get i.toNat).isSome = true →
       ∃ u, exec (.clearBlackout tag [i]) s = .next (settle u) ∧ u.blackouts.get i.toNat = none ∧
         (∀ j, j ≠ i.toNat → u.blackouts.get j = s.blackouts.get j) ∧ u.windowOpen = openNow u ∧
         Raises (storeFaultIf (writeFailsAt s 0) (.blackout i.toNat) ++
           windowNotices { s with blackouts := u.blackouts } u (writeFailsAt s 1)) s u ∧
         (s.writeFates = [] → u.sending = some (doneReply tag [])) ∧
         Touches { s with
           blackouts := u.blackouts, windowOpen := u.windowOpen, mode := u.mode, staged := u.staged, receiver := .hunt
           sending := u.sending } u))

/-- SET-MODE (R56, R57): the present mode cancels a staged one; in ACTIVE with an open window the mode is staged; else it takes
effect at once, is written, is a trigger, MODE-CHANGED is raised, and the window state is evaluated afresh, with its notice. That a staged mode is cleared before that
evaluation, so that the mode given stands where it closes the window, is the model's choice (assumption log 47). -/
def Obligations.SetModeStagesOrTakesEffect : Prop :=
  ∀ (s : State) (tag code : Byte), Serves s →
    (2 < code.toNat → exec (.setMode tag [code]) s = .next (answered s (refusal tag .outOfRange))) ∧
    (∀ m, modeOf code = some m → m = s.mode → exec (.setMode tag [code]) s =
      .next { answered s (doneReply tag ([code] ++ optByte none)) with staged := none }) ∧
    (∀ m, modeOf code = some m → m ≠ s.mode → s.sched = .active → openNow s = true → exec (.setMode tag [code]) s =
      .next { answered s (doneReply tag ([s.mode.code] ++ optByte (some code))) with staged := some m }) ∧
    (∀ m, modeOf code = some m → m ≠ s.mode → (s.sched ≠ .active ∨ openNow s = false) →
      ∃ u, exec (.setMode tag [code]) s = .next (settle u) ∧ u.mode = m ∧ u.staged = none ∧ u.trigger = true ∧
        u.windowOpen = openNow u ∧ (writeFails s = false → u.image.mode = m) ∧
        Raises (storeFaultIf (writeFails s) .mode ++ .modeChanged s.mode m false ::
          (if openNow u = s.windowOpen then []
            else if openNow u then [.windowOpen m (openIntervalEnd u)] else [.windowClose m])) s u ∧
        u.sending = some (storedReply (writeFails s) tag ([code] ++ optByte none)) ∧
        Touches { s with mode := m, staged := none, windowOpen := u.windowOpen, receiver := .hunt, sending := u.sending } u)

/-- WINDOW_BOUNDARY_ARRIVAL and BLACKOUT_BOUNDARY_ARRIVAL (R54): at the boundary the window state becomes what R52 says; a
window-open event raises WINDOW-OPEN and is a trigger; a window-close event raises WINDOW-CLOSE and leaves no mode staged; a
staged mode that then takes effect is written, and MODE-CHANGED is raised (R57). -/
def Obligations.BoundariesEvaluateTheWindow : Prop :=
  ∀ (s : State) (e : Nat), s.phase = .operating → s.quality ≠ .unset →
    ((∃ w, s.windows.get e = some w ∧ (s.campus % 86400 = w.start * 60 ∨ s.campus % 86400 = w.stop * 60)) →
      ∃ u, exec (.windowBoundaryArrival e) s = .next (settle u) ∧ u.windowOpen = openNow u ∧
        (s.windowOpen = false → openNow s = true → u.trigger = true) ∧
        (s.windowOpen = true → openNow s = false → u.staged = none ∧ u.mode = s.staged.getD s.mode) ∧
        Raises (windowNotices s u (writeFails s)) s u ∧
        Touches { s with windowOpen := u.windowOpen, mode := u.mode, staged := u.staged } u) ∧
    ((∃ b, s.blackouts.get e = some b ∧ (s.campus = b.start ∨ s.campus = b.stop)) →
      ∃ u, exec (.blackoutBoundaryArrival e) s = .next (settle u) ∧ u.windowOpen = openNow u ∧
        (s.windowOpen = false → openNow s = true → u.trigger = true) ∧
        (s.windowOpen = true → openNow s = false → u.staged = none ∧ u.mode = s.staged.getD s.mode) ∧
        Raises (windowNotices s u (writeFails s)) s u ∧
        Touches { s with windowOpen := u.windowOpen, mode := u.mode, staged := u.staged } u)

/-- STALENESS_EXPIRY (R47): SET becomes STALE and TIME-STALE is raised. BAND_LIFETIME_EXPIRY (R24): the band becomes UNKNOWN and
the band reading time is kept. -/
def Obligations.StalenessAndBandLifetimesExpire : Prop :=
  (∀ s : State, s.phase = .operating → s.staleness = some 0 →
     ∃ u, exec .stalenessExpiry s = .next (settle u) ∧ u.trigger = false ∧
       u = { s with
         quality := .stale, staleness := none, lastWrites := [], writeFailed := false, outbox := u.outbox
         noticesLost := u.noticesLost, attn := u.attn, trigger := false } ∧
       (s.mask.getLsbD 4 = false → s.outbox.length < 32 →
         u.outbox = s.outbox ++ [⟨some s.campus, .timeStale⟩] ∧ u.attn = true)) ∧
  (∀ (s : State) (n : Nat) (l : Luminaire), s.phase = .operating → s.luminaires.get n = some l → l.bandLife = some 0 →
     ∃ u, exec (.bandLifetimeExpiry n) s = .next (settle u) ∧ u.trigger = false ∧
       RecordMoves n (some { l with band := .unknown, bandLife := none }) s u ∧ Touches (withRecords s u) u ∧ Quiet s u)

/-- DUE_TIME_ARRIVAL (R61): an IDLE luminaire becomes DUE, and that is a trigger. HOLD_OFF_END (R64) and RECHARGE_UNTIL_ARRIVAL
(R114): the hold-off and the lockout end, and both are triggers. OVERDUE_THRESHOLD_ARRIVAL (R62, R63): in IDLE, DUE or RECHARGING
the notice is raised, overdue reported set and the watch disarmed; in the other states, and with the watch disarmed, nothing
happens. A recharge's end raises the notice of a threshold held back by an armed watch (R114); that it judges the threshold by the
present campus time and grace (assumption log 48), and that the record's own write and its STORE-FAULT stand before the notice
(assumption log 26), are the model's choice. -/
def Obligations.StoredInstantsArrive : Prop :=
  (∀ (s : State) (n : Nat) (l : Luminaire), s.phase = .operating → s.luminaires.get n = some l → l.state = .idle →
     s.quality ≠ .unset → l.due ≤ s.campus →
     ∃ u, exec (.dueTimeArrival n) s = .next (settle u) ∧ u.trigger = true ∧ u.schedule = s.schedule ∧
       RecordMoves n (some { l with state := .due }) s u ∧ Touches (withRecords s u) u ∧ Quiet s u) ∧
  (∀ (s : State) (n : Nat) (l : Luminaire), s.phase = .operating → s.luminaires.get n = some l → s.quality ≠ .unset →
     (∀ h, l.holdOff = some h → h ≤ s.campus →
       ∃ u, exec (.holdOffEnd n) s = .next (settle u) ∧ u.trigger = true ∧
         RecordMoves n (some { l with holdOff := none }) s u ∧
         Raises (storeFaultIf (writeFailsAt s 0) (.luminaire n)) s u ∧ Touches (withRecords s u) u) ∧
     (∀ x, l.state = .recharging → l.recharge = some (.until x) → x ≤ s.campus →
       ∃ u, exec (.rechargeUntilArrival n) s = .next (settle u) ∧ u.trigger = true ∧
         RecordMoves n (some { l with
           state := if l.due ≤ s.campus then .due else .idle, recharge := none
           blockedBy := if l.due ≤ s.campus then l.blockedBy else none
           overdueReported := l.overdueReported || (l.watchArmed && overdueReached s l)
           watchArmed := l.watchArmed && !overdueReached s l }) s u ∧
         Raises (storeFaultIf (writeFailsAt s 0) (.luminaire n) ++ overdueNotices s n l (writeFailsAt s 1)) s u ∧
         Touches (withRecords s u) u)) ∧
  (∀ (s : State) (n : Nat) (l : Luminaire), s.phase = .operating → s.luminaires.get n = some l → s.quality ≠ .unset →
     l.due + s.params.overdueGrace * 86400 ≤ s.campus →
     (l.watchArmed = true → l.state = .idle ∨ l.state = .due ∨ l.state = .recharging →
       ∃ u, exec (.overdueThresholdArrival n) s = .next (settle u) ∧
         RecordMoves n (some { l with overdueReported := true, watchArmed := false }) s u ∧
         (s.mask.getLsbD 1 = false → s.outbox.length < 32 →
           u.outbox[s.outbox.length]? = some ⟨some s.campus, .overdue n l.due l.blockedBy⟩) ∧
         Raises (.overdue n l.due l.blockedBy :: storeFaultIf (writeFailsAt s 0) (.luminaire n)) s u ∧
         Touches (withRecords s u) u) ∧
     (l.watchArmed = false ∨ l.state = .outOfService ∨ l.state.holdsSlot = true →
       exec (.overdueThresholdArrival n) s = .next (opened s)))

/-! ### Tests -/

/-- A recall (R105 to R108): on a RESERVED slot the first reason stands as cancel pending; a RUNNING slot fixes the reason's
outcome unless one is fixed, goes CLOSING and queues its STOP; a CLOSING slot is left alone. STOP-TEST (R118): the recall
HOST-STOP, its refusals, and the reply for each status, in which an absent cancel pending keeps its width (R202; assumption
log 9). -/
def Obligations.RecallsActByTheSlotsStatus : Prop :=
  (∀ (s : State) (r : RecallReason) (k : Nat) (sl : Slot) (l : Luminaire),
     s.slots.get k = some sl → s.luminaires.get sl.luminaire = some l →
     (RecallReason.emergency.outcome = .interrupted ∧ RecallReason.thermal.outcome = .abortedThermal ∧
       RecallReason.hostStop.outcome = .cancelled ∧ RecallReason.campaignRecall.outcome = .cancelled ∧
       RecallReason.service.outcome = .cancelled) ∧
     (sl.status = .reserved → ∃ u, recallSlot r k s = u ∧
       RecordMoves sl.luminaire (some { l with cancelPending := some (l.cancelPending.getD r) }) s u ∧
       u = { withRecords s u with trigger := u.trigger }) ∧
     (sl.status = .running → l.state = .testing → s.branches[sl.branch].state = .ready →
       ∃ u, recallSlot r k s = u ∧
         u.slots.get k = some { sl with
           status := .closing, supervision := none, endTimer := none, stopAttempts := 1
           outcome := some (sl.outcome.getD r.outcome)
           elapsedMinutes := if sl.outcome.isSome then sl.elapsedMinutes else some (elapsedNow s sl) } ∧
         (∀ j, j ≠ k → u.slots.get j = s.slots.get j) ∧
         RecordMoves sl.luminaire (some { l with state := .stopping, blockedBy := none }) s u ∧
         u.branches = s.branches.set sl.branch { s.branches[sl.branch] with
           queue := (s.branches[sl.branch].queue.filter fun e => !isReadOf k sl.luminaire e)
             ++ [stopExchange l.node sl.luminaire (.slot k sl.luminaire) true] } ∧
         u = { withRecords s u with slots := u.slots, branches := u.branches, trigger := u.trigger }) ∧
     (sl.status = .closing → recallSlot r k s = s)) ∧
  (∀ (s : State) (tag n1 n0 : Byte), Serves s →
     (3072 ≤ be2 n1 n0 → exec (.stopTest tag [n1, n0]) s = .next (answered s (refusal tag .outOfRange))) ∧
     (be2 n1 n0 < 3072 → s.luminaires.get (be2 n1 n0) = none →
       exec (.stopTest tag [n1, n0]) s = .next (answered s (refusal tag .noSuchRecord))) ∧
     (∀ l, be2 n1 n0 < 3072 → s.luminaires.get (be2 n1 n0) = some l → l.state.holdsSlot = false →
       exec (.stopTest tag [n1, n0]) s = .next (answered s (refusal tag .state))) ∧
     ∀ l k sl, be2 n1 n0 < 3072 → s.luminaires.get (be2 n1 n0) = some l → l.state.holdsSlot = true →
       slotOf s (be2 n1 n0) = some (k, sl) → s.slots.get k = some sl →
       exec (.stopTest tag [n1, n0]) s = .next (settle { recallSlot .hostStop k (atOwner s) with
         sending := some (doneReply tag (match sl.status with
           | .reserved => u8 k ++ [1] ++ optByte (sl.outcome.map TestOutcome.code)
               ++ optByte (some (l.cancelPending.getD .hostStop).code)
           | .running => u8 k ++ [3] ++ optByte (some (sl.outcome.getD .cancelled).code) ++ [0, 0]
           | .closing => u8 k ++ [3] ++ optByte (sl.outcome.map TestOutcome.code) ++ [0, 0])) }))

/-- SUPERVISION_TIMER_EXPIRY (R93, R101): a RUNNING slot restarts its timer and queues a READ, unless one waits or no unreserved
place is free; a CLOSING slot makes its next STOP attempt. END_TIMER_EXPIRY (R100): the slot goes CLOSING with no outcome fixed,
the luminaire STOPPING, a queued READ is removed and the first STOP queued. -/
def Obligations.SlotTimersExpire : Prop :=
  (∀ (s : State) (k : Nat) (sl : Slot) (l : Luminaire), s.phase = .operating → s.slots.get k = some sl →
     s.luminaires.get sl.luminaire = some l → sl.supervision = some 0 → s.branches[sl.branch].state = .ready →
     s.slots.Rising →
     (sl.status = .running →
       exec (.supervisionTimerExpiry k) s = .next { opened s with
         slots := s.slots.put k { sl with supervision := some s.params.supervisionInterval }
         branches := if readWaits k sl s = false ∧ 0 < unreservedFree s sl.branch then
             s.branches.set sl.branch { s.branches[sl.branch] with
               queue := s.branches[sl.branch].queue
                 ++ [readExchange .read l.node sl.luminaire (.slot k sl.luminaire)] }
           else s.branches }) ∧
     (sl.status = .closing →
       exec (.supervisionTimerExpiry k) s = .next { opened s with
         slots := s.slots.put k { sl with supervision := none, stopAttempts := sl.stopAttempts + 1 }
         branches := s.branches.set sl.branch { s.branches[sl.branch] with
           queue := s.branches[sl.branch].queue
             ++ [stopExchange l.node sl.luminaire (.slot k sl.luminaire) true] } })) ∧
  (∀ (s : State) (k : Nat) (sl : Slot) (l : Luminaire), s.phase = .operating → s.slots.get k = some sl →
     s.luminaires.get sl.luminaire = some l → l.state = .testing → sl.status = .running → sl.endTimer = some 0 →
     s.branches[sl.branch].state = .ready →
     ∃ u, exec (.endTimerExpiry k) s = .next (settle u) ∧
       u.slots = s.slots.put k { sl with status := .closing, supervision := none, endTimer := none, stopAttempts := 1 } ∧
       RecordMoves sl.luminaire (some { l with state := .stopping, blockedBy := none }) s u ∧
       u.branches = s.branches.set sl.branch { s.branches[sl.branch] with
         queue := (s.branches[sl.branch].queue.filter fun e => !isReadOf k sl.luminaire e)
           ++ [stopExchange l.node sl.luminaire (.slot k sl.luminaire) true] } ∧
       Touches (withRecords { s with slots := u.slots, branches := u.branches } u) u ∧ Quiet s u)

/-- The outcome a STOP answer judges (R102) by the end minimum of the band (R103). A release with a result (R110 to R112, R181):
the record joins the queue under the counter's number, the counter rises from 65,535 back to 0, the slot becomes FREE, the
luminaire goes RECHARGING or OUT-OF-SERVICE with its markers cleared, and the release is a trigger. A STOP answer that reaches a
CLOSING slot (R98, R102): judged unless an outcome is fixed, by the band the answer's temperature gives, and released with its
voltage. -/
def Obligations.AReleaseQueuesOneResult : Prop :=
  (∀ (sl : Slot) (mv : Nat) (lamp : Bool) (band : Band),
     sl.endMinimum band = (if band = .warm ∨ band = .hot then sl.warmMin else sl.normalMin) ∧
     judge lamp (sl.endMinimum band ≤ mv) =
       (if lamp = true then (if sl.endMinimum band ≤ mv then .pass else .failVoltage)
        else (if sl.endMinimum band ≤ mv then .failLamp else .failShort))) ∧
  (∀ (s : State) (k : Nat) (sl : Slot) (l : Luminaire) (o : TestOutcome), s.slots.Rising → s.slots.get k = some sl →
     sl.outcome = some o → s.luminaires.get sl.luminaire = some l →
     ∃ u l', releaseResult k s = u ∧ u.trigger = true ∧ u.slots.get k = none ∧
       (∀ j, j ≠ k → u.slots.get j = s.slots.get j) ∧
       u.results = s.results ++ [{
         number := s.resultCounter, luminaire := sl.luminaire, branch := l.branch, node := l.node, origin := sl.origin
         outcome := o, startTime := sl.campusStart, endTime := some s.campus, elapsed := sl.elapsedMinutes.getD 0
         endVoltage := sl.endVoltage, bandAtStart := sl.bandAtStart }] ∧
       u.resultCounter = (if s.resultCounter = 65535 then 0 else (s.resultCounter + 1) % 65536) ∧ u.attn = true ∧
       u.luminaires.get sl.luminaire = some l' ∧
       l'.state = (if l.outAtRelease then .outOfService else .recharging) ∧
       l'.recharge = (if l.outAtRelease then none else some (rechargeFromNow s)) ∧
       l'.openMarker = false ∧ l'.cancelPending = none ∧ l'.outAtRelease = false ∧
       l'.lastResult = some ⟨o, s.campus, sl.elapsedMinutes.getD 0, sl.endVoltage⟩ ∧
       l'.due = (match o with
         | .pass => campusSum s.campus (s.classes[l.cls].period * 86400)
         | .failShort | .failVoltage | .failLamp => campusSum s.campus (s.classes[l.cls].retest * 86400)
         | _ => l.due) ∧
       l'.latches = (match o with
         | .pass => { l.latches with lamp := false, durationShort := false }
         | .failShort | .failVoltage => { l.latches with durationShort := true }
         | .failLamp => { l.latches with lamp := true }
         | _ => l.latches) ∧
       (∀ m, m ≠ sl.luminaire → u.luminaires.get m = s.luminaires.get m) ∧
       u.campus = s.campus ∧ u.sched = s.sched ∧ u.params = s.params ∧ u.sending = s.sending) ∧
  (∀ (s : State) (b : Fin 8) (f : InFlight) (bytes : List Byte) (a : NodeFrame) (r : NodeRecord) (code : Option StartCode)
     (n : Nat) (l : Luminaire) (k : Nat) (sl : Slot), AnswerMatches s b f bytes a r code n l → f.exchange.kind = .stop →
     f.exchange.issuer = .slot k n → s.slots.Rising → s.slots.get k = some sl → sl.luminaire = n → sl.status = .closing →
     let o := sl.outcome.getD (judge r.lamp (sl.endMinimum (bandAfter s.params l.band r.temperature) ≤ r.millivolts))
     ∃ u l', exec (.nodeAnswerFrame b bytes) s = .next (settle u) ∧ u.trigger = true ∧ u.slots.get k = none ∧
       (∀ j, j ≠ k → u.slots.get j = s.slots.get j) ∧
       u.results = s.results ++ [resultOf s n l sl o (minutesOf s sl) (some r.millivolts)] ∧
       u.luminaires.get n = some l' ∧ l'.state = stateWith l ∧
       l'.lastResult = some ⟨o, s.campus, minutesOf s sl, some r.millivolts⟩ ∧ OnlyLuminaire n s u ∧ ExchangeEnded s u)

/-! ### The scheduler and the EMG line -/

/-- SCHED-START (R146) and SCHED-SUSPEND (R147). -/
def Obligations.SchedulerRequestsActByState : Prop :=
  (∀ (s : State) (tag : Byte), Serves s →
     (s.sched = .suspended → exec (.schedStart tag []) s = .next (settle
       { answered s (doneReply tag [1, 1]) with sched := .active, resumeTo := .active, trigger := true })) ∧
     (s.sched = .active → exec (.schedStart tag []) s = .next (answered s (doneReply tag [1, s.resumeTo.code]))) ∧
     (s.sched = .emergency ∨ s.sched = .recovery → exec (.schedStart tag []) s =
       .next { answered s (doneReply tag [s.sched.code, 1]) with resumeTo := .active })) ∧
  (∀ (s : State) (tag : Byte), Serves s →
     (s.sched = .active → exec (.schedSuspend tag []) s =
       .next { answered s (doneReply tag [0, 0]) with sched := .suspended, resumeTo := .suspended }) ∧
     (s.sched = .suspended → exec (.schedSuspend tag []) s = .next (answered s (doneReply tag [0, s.resumeTo.code]))) ∧
     (s.sched = .emergency ∨ s.sched = .recovery → exec (.schedSuspend tag []) s =
       .next { answered s (doneReply tag [s.sched.code, 0]) with resumeTo := .suspended }))

/-- EMG_ASSERTION (R149 to R151): from SUSPENDED or ACTIVE into EMERGENCY with resume-to kept, every slot recalled with reason
EMERGENCY as its status says (R105 to R108, R150), and the notice raised; from RECOVERY back into EMERGENCY with the timer
stopped and no recall. -/
def Obligations.AnEmgAssertionRecallsEverySlot : Prop :=
  ∀ s : State, s.phase = .operating → s.emgLine = false → s.slots.Rising →
    (s.sched = .suspended ∨ s.sched = .active →
      ∃ u, exec .emgAssertion s = .next (settle u) ∧
        u.sched = .emergency ∧ u.resumeTo = s.sched ∧ u.emgKept = true ∧ u.emgLine = true ∧ u.trigger = false ∧
        u.slots.keys = s.slots.keys ∧
        (∀ k sl, s.slots.get k = some sl → sl.status = .running → ∃ sl', u.slots.get k = some sl' ∧
          sl'.status = .closing ∧ sl'.outcome = some (sl.outcome.getD .interrupted) ∧ sl'.endTimer = none ∧
          sl'.supervision = none ∧ sl'.stopAttempts = 1) ∧
        (∀ k sl, s.slots.get k = some sl → sl.status ≠ .running → u.slots.get k = some sl) ∧
        (SlotsSound s → BranchesSound s → u.schedule = s.schedule ∧
          ∀ k sl, s.slots.get k = some sl → Recalled .emergency k sl s u) ∧
        OnlyRecalled s.slots.keys s u ∧
        (s.mask.getLsbD 15 = false → s.outbox.length < 32 →
          u.outbox = s.outbox ++ [⟨if s.quality = .unset then none else some s.campus,
            .emergencyEntered s.sched s.slots.length false⟩]) ∧
        u = { withRecords s u with
          sched := .emergency, resumeTo := s.sched, emgKept := true, emgLine := true, slots := u.slots
          branches := u.branches, outbox := u.outbox, noticesLost := u.noticesLost, attn := u.attn, lastWrites := []
          trigger := false, writeFailed := false }) ∧
    (s.sched = .recovery →
      ∃ u, exec .emgAssertion s = .next u ∧
        u = { opened s with
          sched := .emergency, recovery := none, emgKept := true, emgLine := true, outbox := u.outbox
          noticesLost := u.noticesLost, attn := u.attn } ∧
        (s.mask.getLsbD 15 = false → s.outbox.length < 32 →
          u.outbox = s.outbox ++ [⟨if s.quality = .unset then none else some s.campus,
            .emergencyEntered s.resumeTo s.slots.length true⟩]))

/-- EMG_RELEASE (R152): from EMERGENCY into RECOVERY, the hold-off timer started with the parameter in seconds; a release in
another state only updates the kept level (R148). RECOVERY_HOLD_OFF_EXPIRY (R153): the scheduler enters the resume-to state;
entry to ACTIVE is a trigger. -/
def Obligations.AnEmgReleaseLeadsToRecovery : Prop :=
  (∀ s : State, s.phase = .operating → s.emgLine = true →
     (s.sched = .emergency → exec .emgRelease s = .next { opened s with
       sched := .recovery, recovery := some (s.params.recoveryHoldOff * 60), emgKept := false, emgLine := false }) ∧
     (s.sched ≠ .emergency → exec .emgRelease s = .next { opened s with emgKept := false, emgLine := false })) ∧
  (∀ s : State, s.phase = .operating → s.sched = .recovery → s.recovery = some 0 →
     ∃ u, exec .recoveryHoldOffExpiry s = .next (settle u) ∧
       u = { opened s with
         sched := s.resumeTo, recovery := none, trigger := decide (s.resumeTo = .active), outbox := u.outbox
         noticesLost := u.noticesLost, attn := u.attn } ∧
       (s.mask.getLsbD 16 = false → s.outbox.length < 32 →
         u.outbox = s.outbox ++ [⟨if s.quality = .unset then none else some s.campus, .emergencyCleared s.resumeTo⟩]))

/-! ### Campaigns -/

/-- CAMPAIGN-LOAD (R123): refused for a chunk of more than 32 entries or an entry out of range, in a state that does not admit it,
and past 64 entries; else the list is replaced or extended, the campaign is LOADED with its context at the start, and the reply
carries the loaded length. -/
def Obligations.CampaignLoadReplacesOrAppends : Prop :=
  (∀ (s : State) (tag cb newb cnt : Byte) (raw : List Byte), Serves s → raw.length = 4 * cnt.toNat → raw.length ≤ 245 →
    (4 ≤ cb.toNat ∨ 2 ≤ newb.toNat ∨ 32 < cnt.toNat ∨ entriesOf (entryBytes raw) = none) →
    exec (.campaignLoad tag (cb :: newb :: cnt :: raw)) s = .next (answered s (refusal tag .outOfRange))) ∧
  ∀ (s : State) (tag cb newb cnt : Byte) (raw : List Byte) (c : Fin 4) (new : Bool) (chunk : List Entry), Serves s →
    cb.toNat = c → newb = (if new then 1 else 0) → raw.length = 4 * cnt.toNat → cnt.toNat ≤ 32 →
    entriesOf (entryBytes raw) = some chunk →
    let ch := s.channels[c]
    let entries := if new then chunk else ch.entries ++ chunk
    (ch.state ≠ .empty → ch.state ≠ .loaded → ch.state ≠ .done →
      exec (.campaignLoad tag (cb :: newb :: cnt :: raw)) s = .next (answered s (refusal tag .state))) ∧
    (ch.state = .empty ∨ ch.state = .loaded ∨ ch.state = .done → 64 < entries.length →
      exec (.campaignLoad tag (cb :: newb :: cnt :: raw)) s = .next (answered s (refusal tag .full))) ∧
    (ch.state = .empty ∨ ch.state = .loaded ∨ ch.state = .done → entries.length ≤ 64 →
      exec (.campaignLoad tag (cb :: newb :: cnt :: raw)) s =
        .next { answered s (doneReply tag (u8 entries.length)) with
          channels := s.channels.set c { ch with
            entries := entries, state := .loaded, cursor := 0, member := 0, takenUp := false, atPosition := false
            snapshot := [], finishWatch := [], haltReason := none, heldEntry := none, skipped := 0, unstarted := 0 } })

/-- CAMPAIGN-START (R124 to R130, R137): from LOADED or DONE the campaign runs and takes up entry 0: a TEST of an enrolled
luminaire; a TEST of a missing or out-of-service one, or a GROUP-TEST of an undefined group, each of which halts it; a GROUP-TEST
of a defined group, whose members become the snapshot and are skipped while unused or out of service; a lone MARK or an empty
list, which go DONE at once. In RUNNING, HELD, PAUSED and DRAINING a restart is queued; else refused with STATE. The reply in
LOADED and DONE (assumption log 17), and that it is formed before the pass (log 16), are the model's reading. -/
def Obligations.CampaignStartRunsOrQueues : Prop :=
  ∀ (s : State) (tag cb fb : Byte) (c : Fin 4) (bypass : Bool), Serves s → cb.toNat = c → fb = (if bypass then 1 else 0) →
    let ch := s.channels[c]
    let started : Channel := { ch with
      state := .running, bypass := bypass, cursor := 0, member := 0, takenUp := false, atPosition := false, skipped := 0
      unstarted := 0, haltReason := none, heldEntry := none, finishWatch := [], restartQueued := false }
    (ch.state = .empty ∨ ch.state = .halted →
      exec (.campaignStart tag [cb, fb]) s = .next (answered s (refusal tag .state))) ∧
    (ch.state = .running ∨ ch.state = .held ∨ ch.state = .paused ∨ ch.state = .draining →
      exec (.campaignStart tag [cb, fb]) s = .next { answered s (doneReply tag [ch.state.code, 1]) with
        channels := s.channels.set c { ch with restartQueued := true, restartBypass := bypass } }) ∧
    (∀ n l e, ch.state = .loaded ∨ ch.state = .done → ch.entries[0]? = some e → e.kind = .test n →
      s.luminaires.get n = some l → l.state ≠ .outOfService → ch.stopPosition ≠ some 0 →
      exec (.campaignStart tag [cb, fb]) s = .next (settle { answered s (doneReply tag [2, 0]) with
        channels := s.channels.set c { started with takenUp := true }, trigger := true })) ∧
    (∀ n e, ch.state = .loaded ∨ ch.state = .done → ch.entries[0]? = some e → e.kind = .test n →
      s.luminaires.get n = none → ch.stopPosition ≠ some 0 →
      ∃ u, exec (.campaignStart tag [cb, fb]) s = .next (settle u) ∧
        u = { answered s (doneReply tag [5, 0]) with
          channels := s.channels.set c { started with state := .halted, haltReason := some (.luminaireMissing n) }
          trigger := true, outbox := u.outbox, noticesLost := u.noticesLost, attn := u.attn } ∧
        (s.mask.getLsbD 9 = false → s.outbox.length < 32 →
          u.outbox = s.outbox ++ [⟨if s.quality = .unset then none else some s.campus,
            .halted c 0 (.luminaireMissing n)⟩])) ∧
    (∀ why e, ch.state = .loaded ∨ ch.state = .done → ch.entries[0]? = some e → ch.stopPosition ≠ some 0 →
      (∃ n l, why = .luminaireOutOfService n ∧ e.kind = .test n ∧ s.luminaires.get n = some l ∧
          l.state = .outOfService) ∨
        (∃ g, why = .groupUndefined g ∧ e.kind = .groupTest g ∧ s.groups.get g = none) →
      ∃ u, exec (.campaignStart tag [cb, fb]) s = .next (settle u) ∧
        u = { answered s (doneReply tag [5, 0]) with
          channels := s.channels.set c { started with state := .halted, haltReason := some why }
          trigger := true, outbox := u.outbox, noticesLost := u.noticesLost, attn := u.attn } ∧
        (s.mask.getLsbD 9 = false → s.outbox.length < 32 →
          u.outbox = s.outbox ++ [⟨if s.quality = .unset then none else some s.campus, .halted c 0 why⟩])) ∧
    (∀ e g r j m x, ch.state = .loaded ∨ ch.state = .done → ch.entries[0]? = some e → e.kind = .groupTest g →
      s.groups.get g = some r → r.members[j]? = some m → s.luminaires.get m = some x → x.state ≠ .outOfService →
      (∀ i, i < j → ∀ y, r.members[i]? = some y → ∀ z, s.luminaires.get y = some z → z.state = .outOfService) →
      ch.stopPosition ≠ some 0 →
      exec (.campaignStart tag [cb, fb]) s = .next (settle { answered s (doneReply tag [2, 0]) with
        channels := s.channels.set c { started with
          takenUp := true, snapshot := r.members, member := j, skipped := min j 255 }
        trigger := true })) ∧
    (∀ e, ch.state = .loaded ∨ ch.state = .done → ch.entries = [e] → e.kind = .mark → ch.inFlight = [] →
      ch.stopPosition ≠ some 0 →
      ∃ u, exec (.campaignStart tag [cb, fb]) s = .next (settle u) ∧
        u = { answered s (doneReply tag [7, 0]) with
          channels := s.channels.set c { started with state := .done, cursor := 1 }
          trigger := true, outbox := u.outbox, noticesLost := u.noticesLost, attn := u.attn } ∧
        (s.mask.getLsbD 8 = false → s.mask.getLsbD 13 = false → s.outbox.length < 31 →
          u.outbox = s.outbox ++ [⟨if s.quality = .unset then none else some s.campus, .markReached c 0⟩,
            ⟨if s.quality = .unset then none else some s.campus, .done c ch.run 0 0⟩])) ∧
    (ch.state = .loaded ∨ ch.state = .done → ch.entries = [] → ch.inFlight = [] →
      ∃ u, exec (.campaignStart tag [cb, fb]) s = .next (settle u) ∧
        u = { answered s (doneReply tag [7, 0]) with
          channels := s.channels.set c { started with state := .done }
          trigger := true, outbox := u.outbox, noticesLost := u.noticesLost, attn := u.attn } ∧
        (s.mask.getLsbD 13 = false → s.outbox.length < 32 →
          u.outbox = s.outbox ++ [⟨if s.quality = .unset then none else some s.campus, .done c ch.run 0 0⟩]))

/-- CAMPAIGN-PAUSE (R138) and SET-STOP-POSITION (R135). CAMPAIGN-PAUSE from HELD is a placement trigger, since the campaign
leaves HELD (R66; the model's reading, assumption log 42). What a campaign makes of a slot's release (R134 to R137): a release of a slot that is not in its in-flight
list changes nothing; else the pair leaves the list, a release without a result counts as unstarted, the last test of a held
entry ends the hold, the last of a watched one raises POSITION-FINISHED, and the last of a DRAINING campaign ends it with DONE,
after which a queued restart begins again at entry 0. -/
def Obligations.CampaignsPauseAtAPosition : Prop :=
  (∀ (s : State) (c : Fin 4) (k e : Nat) (hasResult : Bool),
    let ch := s.channels[c]
    let left : Channel := { ch with
      inFlight := ch.inFlight.filter fun p => p.1 != k
      unstarted := if hasResult then ch.unstarted else min (ch.unstarted + 1) 255 }
    let time := if s.quality = .unset then none else some s.campus
    ((∀ p ∈ ch.inFlight, p.1 ≠ k) → campaignReleased c k hasResult s = s) ∧
    ((k, e) ∈ ch.inFlight → (∃ p ∈ ch.inFlight, p.1 ≠ k ∧ p.2 = e) → ch.state = .held → ch.heldEntry = some e →
      ch.finishWatch = [] → campaignReleased c k hasResult s = { s with channels := s.channels.set c left }) ∧
    (∀ e' m l, (k, e) ∈ ch.inFlight → (∀ p ∈ ch.inFlight, p.1 ≠ k → p.2 ≠ e) → ch.state = .held →
      ch.heldEntry = some e → ch.finishWatch = [] → ch.takenUp = false → ch.entries[ch.cursor]? = some e' →
      e'.kind = .test m → s.luminaires.get m = some l → l.state ≠ .outOfService → ch.stopPosition ≠ some ch.cursor →
      ∃ u, campaignReleased c k hasResult s = u ∧
        u = { s with
          channels := s.channels.set c { left with state := .running, heldEntry := none, takenUp := true }
          trigger := true, outbox := u.outbox, noticesLost := u.noticesLost, attn := u.attn } ∧
        (s.mask.getLsbD 10 = false → s.outbox.length < 32 → u.outbox = s.outbox ++ [⟨time, .holdReleased c e⟩])) ∧
    ((k, e) ∈ ch.inFlight → (∀ p ∈ ch.inFlight, p.1 ≠ k → p.2 ≠ e) → ch.state = .paused → ch.finishWatch = [e] →
      ch.heldEntry = none ∨ ch.heldEntry = some e →
      ∃ u, campaignReleased c k hasResult s = u ∧
        u = { s with
          channels := s.channels.set c { left with finishWatch := [], heldEntry := none }
          outbox := u.outbox, noticesLost := u.noticesLost, attn := u.attn } ∧
        (s.mask.getLsbD 12 = false → s.outbox.length < 32 → u.outbox = s.outbox ++ [⟨time, .positionFinished c e⟩])) ∧
    (ch.inFlight = [(k, e)] → ch.state = .draining → ch.finishWatch = [] → ch.heldEntry = none →
      ch.restartQueued = false →
      ∃ u, campaignReleased c k hasResult s = u ∧
        u = { s with
          channels := s.channels.set c { left with state := .done }
          outbox := u.outbox, noticesLost := u.noticesLost, attn := u.attn } ∧
        (s.mask.getLsbD 13 = false → s.outbox.length < 32 →
          u.outbox = s.outbox ++ [⟨time, .done c ch.run ch.skipped left.unstarted⟩])) ∧
    (∀ e' m l, ch.inFlight = [(k, e)] → ch.state = .draining → ch.finishWatch = [] → ch.heldEntry = none →
      ch.restartQueued = true → ch.entries[0]? = some e' → e'.kind = .test m → s.luminaires.get m = some l →
      l.state ≠ .outOfService → ch.stopPosition ≠ some 0 →
      ∃ u, campaignReleased c k hasResult s = u ∧
        u = { s with
          channels := s.channels.set c { left with
            state := .running, bypass := ch.restartBypass, cursor := 0, member := 0, takenUp := true, atPosition := false
            skipped := 0, unstarted := 0, haltReason := none, finishWatch := [], restartQueued := false }
          trigger := true, outbox := u.outbox, noticesLost := u.noticesLost, attn := u.attn } ∧
        (s.mask.getLsbD 13 = false → s.mask.getLsbD 14 = false → s.outbox.length < 31 →
          u.outbox = s.outbox ++ [⟨time, .done c ch.run ch.skipped left.unstarted⟩, ⟨time, .restarted c ch.run⟩]))) ∧
  ∀ (s : State) (tag cb i : Byte) (c : Fin 4), Serves s → cb.toNat = c →
    let ch := s.channels[c]
    (ch.state = .running → exec (.campaignPause tag [cb]) s =
      .next { answered s (doneReply tag []) with channels := s.channels.set c { ch with state := .paused } }) ∧
    (ch.state = .held → exec (.campaignPause tag [cb]) s = .next (settle
      { answered s (doneReply tag []) with
        channels := s.channels.set c { ch with state := .paused }, trigger := true })) ∧
    (ch.state = .paused → exec (.campaignPause tag [cb]) s = .next (answered s (doneReply tag []))) ∧
    (ch.state ≠ .running → ch.state ≠ .held → ch.state ≠ .paused →
      exec (.campaignPause tag [cb]) s = .next (answered s (refusal tag .state))) ∧
    exec (.setStopPosition tag [cb, 0, i]) s = .next { answered s (doneReply tag []) with
      channels := s.channels.set c { ch with stopPosition := none, atPosition := false } } ∧
    (63 < i.toNat → exec (.setStopPosition tag [cb, 1, i]) s = .next (answered s (refusal tag .outOfRange))) ∧
    (i.toNat ≤ 63 → (i.toNat ≠ ch.cursor ∨ ch.takenUp = false ∨ (ch.state ≠ .running ∧ ch.state ≠ .paused)) →
      exec (.setStopPosition tag [cb, 1, i]) s = .next { answered s (doneReply tag []) with
        channels := s.channels.set c { ch with
          stopPosition := some i.toNat, atPosition := ch.atPosition && decide (i.toNat = ch.cursor) } }) ∧
    (i.toNat ≤ 63 → i.toNat = ch.cursor → ch.takenUp = true → ch.atPosition = false →
      ch.state = .running ∨ ch.state = .paused →
      ∃ u, exec (.setStopPosition tag [cb, 1, i]) s = .next u ∧
        u = { answered s (doneReply tag []) with
          channels := s.channels.set c { ch with stopPosition := some i.toNat, atPosition := true }
          outbox := u.outbox, noticesLost := u.noticesLost, attn := u.attn } ∧
        (s.mask.getLsbD 11 = false → s.outbox.length < 32 →
          u.outbox = s.outbox ++ [⟨if s.quality = .unset then none else some s.campus,
            .positionReached c ch.cursor⟩]))

/-- CAMPAIGN-RESUME (R139, R140): from PAUSED to HELD while it was holding, else to RUNNING; at an index, at the halted entry
again, or after it with the skip flag (here where that entry is a TEST of an enrolled luminaire). An index above 63, or with the
skip flag, is refused with OUT-OF-RANGE in every state (R122). The member cursor on leaving HALTED is the model's choice
(assumption log 44). -/
def Obligations.CampaignResumeTakesUpAgain : Prop :=
  ∀ (s : State) (tag cb i : Byte) (c : Fin 4), Serves s → cb.toNat = c →
    let ch := s.channels[c]
    exec (.campaignResume tag [cb, 1, i, 1]) s = .next (answered s (refusal tag .outOfRange)) ∧
    (63 < i.toNat → exec (.campaignResume tag [cb, 1, i, 0]) s = .next (answered s (refusal tag .outOfRange))) ∧
    (ch.state ≠ .paused → ch.state ≠ .halted →
      exec (.campaignResume tag [cb, 0, i, 0]) s = .next (answered s (refusal tag .state)) ∧
      exec (.campaignResume tag [cb, 0, i, 1]) s = .next (answered s (refusal tag .state)) ∧
      (i.toNat ≤ 63 → exec (.campaignResume tag [cb, 1, i, 0]) s = .next (answered s (refusal tag .state)))) ∧
    (ch.state = .paused → exec (.campaignResume tag [cb, 0, i, 1]) s = .next (answered s (refusal tag .state))) ∧
    (ch.state = .paused → ch.heldEntry.isSome = true → exec (.campaignResume tag [cb, 0, i, 0]) s =
      .next { answered s (doneReply tag []) with channels := s.channels.set c { ch with state := .held } }) ∧
    (ch.state = .paused → ch.heldEntry = none → ch.takenUp = true → exec (.campaignResume tag [cb, 0, i, 0]) s =
      .next (settle { answered s (doneReply tag []) with
        channels := s.channels.set c { ch with state := .running }, trigger := true })) ∧
    (∀ e n l, ch.state = .paused ∨ ch.state = .halted → i.toNat ≤ 63 → ch.entries[i.toNat]? = some e → e.kind = .test n →
      s.luminaires.get n = some l → l.state ≠ .outOfService → ch.stopPosition ≠ some i.toNat →
      exec (.campaignResume tag [cb, 1, i, 0]) s = .next (settle { answered s (doneReply tag []) with
        channels := s.channels.set c { ch with
          state := .running, haltReason := none, heldEntry := none, atPosition := false, cursor := i.toNat, member := 0
          takenUp := true }
        trigger := true })) ∧
    (∀ e n l, ch.state = .halted → ch.entries[ch.cursor]? = some e → e.kind = .test n →
      s.luminaires.get n = some l → l.state ≠ .outOfService → ch.stopPosition ≠ some ch.cursor →
      exec (.campaignResume tag [cb, 0, i, 0]) s = .next (settle { answered s (doneReply tag []) with
        channels := s.channels.set c { ch with state := .running, haltReason := none, takenUp := true }
        trigger := true })) ∧
    (∀ e n l, ch.state = .halted → ch.entries[ch.cursor + 1]? = some e → e.kind = .test n →
      s.luminaires.get n = some l → l.state ≠ .outOfService → ch.stopPosition ≠ some (ch.cursor + 1) →
      exec (.campaignResume tag [cb, 0, i, 1]) s = .next (settle { answered s (doneReply tag []) with
        channels := s.channels.set c { ch with
          state := .running, haltReason := none, cursor := ch.cursor + 1, member := 0, takenUp := true }
        trigger := true }))

/-- CAMPAIGN-STOP (R141, R142): the campaign goes LOADED under the next run number; with the recall flag each slot of its
in-flight list is first recalled with reason CAMPAIGN-RECALL, as its status says (R105 to R108), and no other slot, luminaire or
branch changes. The reply with the recall flag is the model's (assumption log 18). -/
def Obligations.CampaignStopReturnsToLoaded : Prop :=
  ∀ (s : State) (tag cb : Byte) (c : Fin 4), Serves s → cb.toNat = c →
    let ch := s.channels[c]
    let run := (ch.run + 1) % 4294967296
    let stopped : Channel := { ch with
      state := .loaded, cursor := 0, member := 0, takenUp := false, atPosition := false, snapshot := [], heldEntry := none
      haltReason := none, finishWatch := [], restartQueued := false, inFlight := [], run := run }
    (ch.state = .empty →
      exec (.campaignStop tag [cb, 0]) s = .next (answered s (refusal tag .state)) ∧
      exec (.campaignStop tag [cb, 1]) s = .next (answered s (refusal tag .state))) ∧
    (ch.state ≠ .empty → exec (.campaignStop tag [cb, 0]) s =
      .next { answered s (doneReply tag (u32 run)) with channels := s.channels.set c stopped }) ∧
    (ch.state ≠ .empty →
      ∃ u, exec (.campaignStop tag [cb, 1]) s = .next (settle u) ∧ u.channels = s.channels.set c stopped ∧
        (∀ p ∈ ch.inFlight, ∀ sl, u.slots.get p.1 = some sl → sl.status ≠ .running) ∧
        (SlotsSound s → BranchesSound s → u.schedule = s.schedule ∧
          ∀ p ∈ ch.inFlight, ∀ sl, s.slots.get p.1 = some sl → Recalled .campaignRecall p.1 sl s u) ∧
        OnlyRecalled (ch.inFlight.map Prod.fst) s u ∧
        u = { withRecords (answered s (doneReply tag (u32 run ++ u8 ch.inFlight.length))) u with
          channels := u.channels, slots := u.slots, branches := u.branches, trigger := u.trigger })

/-! ### Branch lines -/

/-- BRANCH-ENABLE (R172). BRANCH-DISABLE (R171, R168 to R170): the branch is OFF and recorded so, nothing is queued or in flight
on it, no slot stands on it, and every other branch and the slots on it are as they were; the slots that stood on it are
released, RUNNING and CLOSING ones with a result (R169), RESERVED ones without (R170); a removed CHECK leaves the check-pending set
(R168). The ascending slot number in which the result records follow one another, and the setting's write after the releases', are
the model's choice (assumption log 26). -/
def Obligations.BranchesAreEnabledAndDisabled : Prop :=
  (∀ (s : State) (tag x : Byte) (b : Fin 8), Serves s → x.toNat = b →
     let br := s.branches[b]
     (br.state = .direct → exec (.branchEnable tag [x]) s = .next (answered s (refusal tag .state))) ∧
     (br.state ≠ .direct →
       ∃ u, exec (.branchEnable tag [x]) s = .next (settle u) ∧
         u.branches = s.branches.set b { br with state := .ready, chatter := 0, hostOff := false } ∧
         u.trigger = decide (br.state ≠ .ready) ∧
         (writeFails s = false → u.image.branchOff[b] = false) ∧
         Served (writeFails s) (storedReply (writeFails s) tag []) { s with branches := u.branches } u)) ∧
  (∀ (s : State) (tag x : Byte) (b : Fin 8), Serves s → x.toNat = b → s.slots.Rising → s.luminaires.Rising →
     ∃ u, exec (.branchDisable tag [x]) s = .next (settle u) ∧
       u.branches[b].state = .off ∧ u.branches[b].hostOff = true ∧ ExchangeEnded { s with receiver := .hunt } u ∧
       (s.branches[b].state = .ready ∨ s.branches[b].state = .direct →
         u.branches[b].queue = [] ∧ u.branches[b].inFlight = none ∧ occupiedOn u b = 0 ∧ ChecksRemoved b s u ∧
           (SlotsSound s → SlotsReleased b s u ∧ (occupiedOn s b ≠ 0 → u.trigger = true))) ∧
       (s.branches[b].state = .off ∨ s.branches[b].state = .faulted → u.checkPending = s.checkPending) ∧
       u.service = s.service ∧ u.ready = s.ready ∧
       (∀ a : Fin 8, a ≠ b → u.branches[a] = s.branches[a]) ∧
       (∀ k sl, s.slots.get k = some sl → sl.branch ≠ b → u.slots.get k = some sl) ∧
       (s.writeFates = [] → u.image.branchOff[b] = true ∧
         u.sending = some (doneReply tag
           (if s.branches[b].state = .ready ∨ s.branches[b].state = .direct then
             u8 (s.slots.filter fun p => p.2.branch == b && p.2.status != .reserved).length
               ++ u8 (s.slots.filter fun p => p.2.branch == b && p.2.status == .reserved).length
           else u8 0 ++ u8 0))))

/-- BRANCH-DIRECT-ENTER and BRANCH-DIRECT-LEAVE (R173, R176). NODE-EXCHANGE (R174, R195): a DIRECT exchange is queued and the
request enters service, with no reply yet; its checks. That the range is checked before the branch's state, and the state before
the free place, is the model's choice (assumption log 54). -/
def Obligations.DirectModeAndNodeExchange : Prop :=
  (∀ (s : State) (tag x : Byte) (b : Fin 8), Serves s → x.toNat = b →
     let br := s.branches[b]
     (br.state = .ready → occupiedOn s b = 0 → exec (.branchDirectEnter tag [x]) s =
       .next { answered s (doneReply tag []) with branches := s.branches.set b { br with state := .direct } }) ∧
     (br.state ≠ .ready ∨ occupiedOn s b ≠ 0 →
       exec (.branchDirectEnter tag [x]) s = .next (answered s (refusal tag .state))) ∧
     (br.state = .direct → exec (.branchDirectLeave tag [x]) s =
       .next (settle { answered s (doneReply tag []) with
         branches := s.branches.set b { br with state := .ready }, trigger := true })) ∧
     (br.state ≠ .direct → exec (.branchDirectLeave tag [x]) s = .next (answered s (refusal tag .state)))) ∧
  (∀ (s : State) (tag x a1 a0 kind cnt : Byte) (bytes : List Byte) (b : Fin 8), Serves s → x.toNat = b →
     bytes.length = cnt.toNat →
     let br := s.branches[b]
     let ranged := 1 ≤ be2 a1 a0 ∧ be2 a1 a0 ≤ 511 ∧ cnt.toNat ≤ 32
     (¬ranged → bytes.length ≤ 243 →
       exec (.nodeExchange tag (x :: a1 :: a0 :: kind :: cnt :: bytes)) s = .next (answered s (refusal tag .outOfRange))) ∧
     (ranged → br.state ≠ .direct →
       exec (.nodeExchange tag (x :: a1 :: a0 :: kind :: cnt :: bytes)) s = .next (answered s (refusal tag .state))) ∧
     (ranged → br.state = .direct → unreservedFree s b = 0 →
       exec (.nodeExchange tag (x :: a1 :: a0 :: kind :: cnt :: bytes)) s = .next (answered s (refusal tag .full))) ∧
     (ranged → br.state = .direct → 0 < unreservedFree s b →
       exec (.nodeExchange tag (x :: a1 :: a0 :: kind :: cnt :: bytes)) s = .next { opened s with
         receiver := .hunt, service := some ⟨tag, b⟩
         branches := s.branches.set b { br with queue := br.queue ++
           [⟨.direct, be2 a1 a0, kind, bytes, enrolledAt s b (be2 a1 a0), .host, false⟩] } }))

/-- EXCHANGE_SEND (R162): the STOP that has waited longest, else the exchange that has waited longest, is sent for the first
time; a branch that is busy, empty, OFF or FAULTED sends nothing. ANSWER_FIRST_BYTE, ANSWER_TIMEOUT, NODE_FRAME_BYTE_GAP and a
bad frame (R163, R164): the first byte ends the timeout's hold; below three sends the same frame is sent again. That a byte gap
is a bad frame whether or not a first byte was received is the model's choice (assumption log 24). -/
def Obligations.SendsGoOutAndAreRepeated : Prop :=
  (∀ (s : State) (b : Fin 8), s.phase = .operating →
     let br := s.branches[b]
     (∀ f, br.inFlight = some f → exec (.exchangeSend b) s = .next (opened s)) ∧
     (br.queue = [] → exec (.exchangeSend b) s = .next (opened s)) ∧
     (br.state = .off ∨ br.state = .faulted → exec (.exchangeSend b) s = .next (opened s)) ∧
     (∀ e, br.state = .ready ∨ br.state = .direct → br.inFlight = none →
       (br.queue.find? (fun e => e.kind == .stop) = some e ∨
         (br.queue.find? (fun e => e.kind == .stop) = none ∧ br.queue.head? = some e)) →
       exec (.exchangeSend b) s = .next { opened s with
         branches := s.branches.set b { br with
           queue := br.queue.erase e, inFlight := some ⟨e, 1, s.params.answerTimeout, false⟩ } })) ∧
  (∀ (s : State) (b : Fin 8) (f : InFlight) (bytes : List Byte), s.phase = .operating → s.branches[b].inFlight = some f →
     let resent := opened { s with branches := s.branches.set b { s.branches[b] with inFlight := some { f with
       sends := f.sends + 1, timeout := s.params.answerTimeout, receiving := false } } }
     exec (.answerFirstByte b) s = .next (opened { s with
       branches := s.branches.set b { s.branches[b] with inFlight := some { f with receiving := true } } }) ∧
     (f.receiving = true → exec (.answerTimeout b) s = .next (opened s)) ∧
     (f.receiving = false → f.sends < 3 → exec (.answerTimeout b) s = .next resent) ∧
     (f.sends < 3 → exec (.nodeFrameByteGap b) s = .next resent) ∧
     (f.sends < 3 → (∀ a, nodeFrameOf bytes = some a → a.suits f.exchange = false) →
       exec (.nodeAnswerFrame b bytes) s = .next resent))

/-- The third send without a matching answer, by ANSWER_TIMEOUT, NODE_FRAME_BYTE_GAP or a bad NODE_ANSWER_FRAME, ends the exchange
unanswered (R163, R164, R165): the luminaire's last exchange is
UNANSWERED and NO-ANSWER is latched (R19); a CHECK sets a hold-off and is a trigger (R75), a slot's READ is a missed poll
and at the third the slot is released with LOST (R97), a START releases its slot without a result and with a hold-off (R90, R92),
a STOP below three attempts starts the supervision timer and at three releases the slot, LOST unless an outcome is fixed (R101), a
NODE-EXCHANGE is answered DONE with answered no and 3 sends (R175). Where no record takes the end (R18), no record changes: a
NODE-EXCHANGE is answered in the same way, a stray or recall STOP just ends, and a withdrawn luminaire's CHECK leaves the
check-pending set and is a trigger (R8, R75). That a byte gap is a bad frame whether or not a first byte was received (assumption
log 24), that FAULT-LATCHED stands ahead of the STORE-FAULT of its own failed write (log 26), that the last reply has those two
fields and no more (log 9), and that it is DONE even where the write of NO-ANSWER fails (log 53), are the model's choice. -/
def Obligations.AThirdFailureEndsUnanswered : Prop :=
  (∀ (s : State) (b : Fin 8) (f : InFlight) (c : Instr), s.phase = .operating → s.branches[b].inFlight = some f →
    3 ≤ f.sends → SendFailure b f c → NoRecordTakes b f.exchange s →
    let ended := { opened s with branches := s.branches.set b { s.branches[b] with inFlight := none } }
    (∀ sv, f.exchange.issuer = .host → s.service = some sv → s.sending = none →
      exec c s = .next { ended with service := none, sending := some (doneReply sv.tag [0, 3]) }) ∧
    (f.exchange.issuer = .stray ∨ f.exchange.issuer = .recall → exec c s = .next ended) ∧
    (∀ n, f.exchange.issuer = .placement → f.exchange.luminaire = some n → s.luminaires.get n = none →
      exec c s = .next (settle { ended with checkPending := s.checkPending.erase n, trigger := true }))) ∧
  ∀ (s : State) (b : Fin 8) (f : InFlight) (n : Nat) (l : Luminaire) (c : Instr), s.phase = .operating →
    s.branches[b].inFlight = some f → 3 ≤ f.sends → SendFailure b f c → f.exchange.luminaire = some n →
    s.luminaires.get n = some l → l.branch = b → l.node = f.exchange.node →
    ∃ u, exec c s = .next (settle u) ∧ u.branches[b].inFlight = none ∧ ExchangeEnded s u ∧
      (f.exchange.issuer ≠ .placement → u.checkPending = s.checkPending) ∧ (f.exchange.issuer ≠ .host → LinkKept s u) ∧
      ((∀ k m, f.exchange.issuer = .slot k m → m = n) → OnlyLuminaire n s u) ∧
      (∃ l', u.luminaires.get n = some l' ∧ l'.lastExchange = some .unanswered ∧ l'.latches.noAnswer = true ∧
        (f.exchange.issuer = .placement → ∃ h, l'.holdOff = some h)) ∧
      (l.latches.noAnswer = false → s.mask.getLsbD 0 = false → s.outbox.length < 32 →
        u.outbox[s.outbox.length]? =
          some ⟨if s.quality = .unset then none else some s.campus, .faultLatched n .noAnswer⟩) ∧
      (f.exchange.issuer = .placement → u.checkPending = s.checkPending.erase n ∧ u.trigger = true) ∧
      (∀ k sl, f.exchange.issuer = .slot k n → f.exchange.kind = .read → s.slots.get k = some sl → sl.luminaire = n →
        sl.status = .running → sl.missedPolls + 1 < 3 →
        u.slots.get k = some { sl with missedPolls := sl.missedPolls + 1 }) ∧
      (∀ k sl, f.exchange.issuer = .slot k n → s.slots.Rising → s.slots.get k = some sl → sl.luminaire = n →
        (f.exchange.kind = .read ∧ sl.status = .running ∧ 3 ≤ sl.missedPolls + 1) ∨
          (f.exchange.kind = .stop ∧ sl.status = .closing ∧ 3 ≤ sl.stopAttempts) →
        u.slots.get k = none ∧ u.trigger = true ∧
          (∃ l', u.luminaires.get n = some l' ∧ l'.state = stateWith l) ∧
          u.results = s.results ++ [resultOf s n l sl (sl.outcome.getD .lost) (minutesOf s sl) sl.endVoltage]) ∧
      (∀ k sl, f.exchange.issuer = .slot k n → f.exchange.kind = .stop → s.slots.get k = some sl → sl.luminaire = n →
        sl.status = .closing → sl.stopAttempts < 3 →
        u.slots.get k = some { sl with supervision := some s.params.supervisionInterval }) ∧
      (∀ k sl, f.exchange.issuer = .slot k n → f.exchange.kind = .start → s.slots.Rising → s.slots.get k = some sl →
        sl.luminaire = n → sl.status = .reserved →
        u.slots.get k = none ∧ u.trigger = true ∧ u.results = s.results ∧
          ∃ l', u.luminaires.get n = some l' ∧ l'.state = stateWithout s l ∧ l'.openMarker = false ∧
            l'.cancelPending = none ∧ l'.outAtRelease = false ∧ HeldOff s l l') ∧
      (∀ sv, f.exchange.issuer = .host → s.service = some sv → s.sending = none →
        u.service = none ∧ u.sending = some (doneReply sv.tag [0, 3]))

/-- A matching answer (R165, R166, R18): nothing is in flight, a clean exchange sets the chatter count to 0, the record's last
exchange, last report and band follow; an answered CHECK leaves the check-pending set and is a trigger (R75). The band after a
reading (R23): the threshold band, but a fall waits until the reading is below the present band's lower threshold by more than
the hysteresis. A report of a running test from a luminaire that holds no slot (R116, R117): RECHARGING, STRAY-TEST and a STOP
where a place is free and none waits. A READ answer that reaches a RUNNING slot (R94 to R96): test over, FAIL-SHORT and the
release; lamp out, FAIL-LAMP or FAIL-SHORT and CLOSING; band HOT, ABORTED-THERMAL and CLOSING; else the test goes on. One that
reaches a CLOSING slot is recorded and judges nothing (R98). A DIRECT exchange ends answered with any well-formed frame of its node
(R163): the NODE-EXCHANGE leaves service, answered DONE with answered yes, the sends made and the frame's kind and body (R175), and
the luminaire's record, if one takes it, follows. That last node elapsed of a CLOSING slot stays (assumption log 50), that this
reply is DONE whatever becomes of the record's writes (log 53), that STRAY-TEST stands ahead of an OVERDUE of the same report
(log 26), that a stray STOP is looked for on every branch (log 31), and that the answer which makes the THERMAL recall gives its slot no end voltage (log 52), are the model's. -/
def Obligations.AMatchingAnswerIsTaken : Prop :=
  (∀ (p : Params) (t : Int), p.coldNormal < p.normalWarm → p.normalWarm < p.warmHot → 0 ≤ p.hysteresis →
    let reached : Band :=
      if p.warmHot ≤ t then .hot else if p.normalWarm ≤ t then .warm else if p.coldNormal ≤ t then .normal else .cold
    bandAfter p .unknown t = reached ∧ bandAfter p .cold t = reached ∧
    bandAfter p .normal t =
      (if p.coldNormal ≤ t then reached else if t < p.coldNormal - p.hysteresis then .cold else .normal) ∧
    bandAfter p .warm t =
      (if p.normalWarm ≤ t then reached else if t < p.normalWarm - p.hysteresis then reached else .warm) ∧
    bandAfter p .hot t =
      (if p.warmHot ≤ t then .hot else if t < p.warmHot - p.hysteresis then reached else .hot)) ∧
  (∀ (s : State) (b : Fin 8) (f : InFlight) (bytes : List Byte) (a : NodeFrame) (r : NodeRecord) (code : Option StartCode)
    (n : Nat) (l : Luminaire), AnswerMatches s b f bytes a r code n l → f.exchange.kind = .check →
    f.exchange.issuer = .placement → r.testing = true → l.state.holdsSlot = false →
    ∃ u l', exec (.nodeAnswerFrame b bytes) s = .next (settle u) ∧ u.luminaires.get n = some l' ∧
      l'.state = .recharging ∧
      l'.recharge = some (if s.quality = .unset then .pending
        else .until (campusSum s.campus (s.params.rechargePeriod * 3600))) ∧
      l'.due = l.due ∧ l'.lastResult = l.lastResult ∧ l'.holdOff = l.holdOff ∧ u.results = s.results ∧
      u.slots = s.slots ∧ OnlyLuminaire n s u ∧ ExchangeEnded s u ∧
      u.branches[b].queue = s.branches[b].queue ++
        (if strayStopWaits s n = false ∧ 0 < unreservedFree s b ∧ s.branches[b].state.works = true then
          [stopExchange l.node n .stray false] else []) ∧
      (r.chargerOk = true ∨ l.latches.charger = true → s.writeFates = [] → s.mask.getLsbD 2 = false →
        s.outbox.length < 32 → u.outbox[s.outbox.length]? = some
          ⟨if s.quality = .unset then none else some s.campus, .strayTest n b l.node l.state r.elapsed⟩)) ∧
  (∀ (s : State) (b : Fin 8) (f : InFlight) (bytes : List Byte) (a : NodeFrame) (r : NodeRecord) (code : Option StartCode)
    (n : Nat) (l : Luminaire) (k : Nat) (sl : Slot), AnswerMatches s b f bytes a r code n l → f.exchange.kind = .read →
    f.exchange.issuer = .slot k n → s.slots.Rising → s.slots.get k = some sl → sl.luminaire = n → sl.branch = b →
    sl.status = .running → sl.outcome = none → l.state = .testing → s.branches[b].state = .ready →
    let band := bandAfter s.params l.band r.temperature
    let seen : Slot := { sl with
      missedPolls := 0, lowest := some ((sl.lowest.map fun v => min v r.millivolts).getD r.millivolts)
      nodeElapsed := if r.testing then some r.elapsed else sl.nodeElapsed }
    let closing (o : TestOutcome) : Slot := { seen with
      status := .closing, supervision := none, endTimer := none, stopAttempts := 1, outcome := some o
      elapsedMinutes := some (elapsedNow s sl) }
    ∃ u l', exec (.nodeAnswerFrame b bytes) s = .next (settle u) ∧ u.luminaires.get n = some l' ∧
      l'.lastReport = some ⟨r, s.campus, code⟩ ∧ (∀ j, j ≠ k → u.slots.get j = s.slots.get j) ∧
      OnlyLuminaire n s u ∧ ExchangeEnded s u ∧
      (r.testing = false → u.slots.get k = none ∧ u.trigger = true ∧ l'.state = stateWith l ∧
        u.results = s.results ++
          [resultOf s n l sl .failShort (sl.nodeElapsed.getD 0 / 60) (some r.millivolts)]) ∧
      (r.testing = true → r.lamp = false ∨ band = .hot →
        l'.state = .stopping ∧ u.results = s.results ∧
        stopExchange l.node n (.slot k n) true ∈ u.branches[b].queue ∧
        u.slots.get k = some (if r.lamp then closing .abortedThermal
          else { closing (if sl.endMinimum band ≤ r.millivolts then .failLamp else .failShort) with
            endVoltage := some r.millivolts })) ∧
      (r.testing = true → r.lamp = true → band ≠ .hot →
        l'.state = .testing ∧ u.results = s.results ∧ u.slots.get k = some seen ∧
        u.branches = s.branches.set b { s.branches[b] with
          inFlight := none, chatter := if f.sends = 1 then 0 else s.branches[b].chatter })) ∧
  (∀ (s : State) (b : Fin 8) (f : InFlight) (bytes : List Byte) (a : NodeFrame) (r : NodeRecord) (code : Option StartCode)
    (n : Nat) (l : Luminaire) (k : Nat) (sl : Slot), AnswerMatches s b f bytes a r code n l → f.exchange.kind = .read →
    f.exchange.issuer = .slot k n → s.slots.get k = some sl → sl.luminaire = n → sl.status = .closing →
    l.state.holdsSlot = true →
    ∃ u, exec (.nodeAnswerFrame b bytes) s = .next (settle u) ∧ u.trigger = false ∧
      u.slots = s.slots.put k { sl with
        lowest := some ((sl.lowest.map fun v => min v r.millivolts).getD r.millivolts)
        endVoltage := if sl.outcome.isSome then some r.millivolts else sl.endVoltage } ∧
      u.branches = s.branches.set b (branchAnswered s b f.sends) ∧
      RecordMoves n (some (recordAnswered s l r code)) s u ∧
      Touches (withRecords { s with slots := u.slots, branches := u.branches } u) u) ∧
  (∀ (s : State) (b : Fin 8) (f : InFlight) (bytes : List Byte) (a : NodeFrame) (sv : Service), s.phase = .operating →
    s.branches[b].inFlight = some f → f.exchange.kind = .direct → f.exchange.issuer = .host → s.service = some sv →
    s.sending = none → nodeFrameOf bytes = some a → a.node = f.exchange.node →
    let reply := doneReply sv.tag ([1] ++ u8 f.sends ++ [a.kind, BitVec.ofNat 8 a.body.length] ++ a.body)
    let ended := { opened s with
      branches := s.branches.set b (branchAnswered s b f.sends), service := none, sending := some reply }
    (NoRecordTakes b f.exchange s → exec (.nodeAnswerFrame b bytes) s = .next ended) ∧
    ∀ n l, f.exchange.luminaire = some n → s.luminaires.get n = some l → l.branch = b → l.node = f.exchange.node →
      (a.record = none → ∃ u, exec (.nodeAnswerFrame b bytes) s = .next (settle u) ∧
        RecordMoves n (some { l with lastExchange := some .answered }) s u ∧ u = withRecords ended u) ∧
      (∀ r code, a.record = some (r, code) → r.testing = false ∨ l.state.holdsSlot = true →
        ∃ u, exec (.nodeAnswerFrame b bytes) s = .next (settle u) ∧ u.trigger = decide (l.state = .due) ∧
          RecordMoves n (some (recordAnswered s l r code)) s u ∧ Touches (withRecords ended u) u) ∧
      (∀ r code, a.record = some (r, code) → r.testing = true → l.state.holdsSlot = false →
        ∃ u l', exec (.nodeAnswerFrame b bytes) s = .next (settle u) ∧ u.luminaires.get n = some l' ∧
          l'.state = .recharging ∧ l'.lastReport = some ⟨r, s.campus, code⟩ ∧ u.service = none ∧ u.sending = some reply ∧
          OnlyLuminaire n s u ∧ ExchangeEnded s u)) ∧
  ∀ (s : State) (b : Fin 8) (f : InFlight) (bytes : List Byte) (a : NodeFrame) (r : NodeRecord) (n : Nat) (l : Luminaire),
    s.phase = .operating → s.branches[b].inFlight = some f → f.exchange.kind = .check → f.exchange.issuer = .placement →
    f.exchange.luminaire = some n → nodeFrameOf bytes = some a → a.node = f.exchange.node → a.kind = 0x81 →
    nodeRecordOf a.body = some r → r.testing = false → s.luminaires.get n = some l → l.branch = b →
    l.node = f.exchange.node →
    ∃ u, exec (.nodeAnswerFrame b bytes) s = .next (settle u) ∧
      u.branches = s.branches.set b { s.branches[b] with
        inFlight := none, chatter := if f.sends = 1 then 0 else s.branches[b].chatter } ∧
      u.checkPending = s.checkPending.erase n ∧ u.trigger = true ∧
      RecordMoves n (some { l with
        lastExchange := some .answered, lastReport := some ⟨r, s.campus, none⟩
        band := bandAfter s.params l.band r.temperature, bandTime := some s.campus, bandLife := some 86400
        latches := { l.latches with
          charger := l.latches.charger || !r.chargerOk, mainsLost := l.latches.mainsLost || !r.mains } }) s u ∧
      Touches (withRecords { s with branches := u.branches, checkPending := u.checkPending } u) u

/-- A START answered ACCEPTED (R88): the slot is RUNNING with its timers started, the luminaire TESTING with its watch disarmed;
then a cancel pending or a HOT band recalls it at once. A START refused with NOT-CHARGED, NO-MAINS or NODE-FAULT (R89, R92)
releases its slot without a result and with a hold-off; one answered ALREADY-TESTING (R91, R116) releases it without a hold-off,
and the stray rule puts the luminaire in RECHARGING with a STOP queued. -/
def Obligations.AnAcceptedStartBeginsTheTest : Prop :=
  (∀ (s : State) (b : Fin 8) (f : InFlight) (bytes : List Byte) (a : NodeFrame) (r : NodeRecord) (code : StartCode)
    (n : Nat) (l : Luminaire) (k : Nat) (sl : Slot), AnswerMatches s b f bytes a r (some code) n l →
    f.exchange.kind = .start → f.exchange.issuer = .slot k n → s.slots.Rising → s.slots.get k = some sl →
    sl.luminaire = n → sl.branch = b → sl.status = .reserved → l.state = .starting → code ≠ .accepted →
    ∃ u l', exec (.nodeAnswerFrame b bytes) s = .next (settle u) ∧ u.trigger = true ∧ u.slots.get k = none ∧
      (∀ j, j ≠ k → u.slots.get j = s.slots.get j) ∧ u.results = s.results ∧ u.luminaires.get n = some l' ∧
      l'.lastReport = some ⟨r, s.campus, some code⟩ ∧ l'.due = l.due ∧ l'.openMarker = false ∧
      l'.cancelPending = none ∧ l'.outAtRelease = false ∧ OnlyLuminaire n s u ∧ ExchangeEnded s u ∧
      (code ≠ .alreadyTesting → l'.state = stateWithout s l ∧ HeldOff s l l') ∧
      (code = .alreadyTesting → l'.state = .recharging ∧ l'.holdOff = l.holdOff ∧
        l'.recharge = some (if s.quality = .unset then .pending
          else .until (campusSum s.campus (s.params.rechargePeriod * 3600))) ∧
        (s.branches[b].state = .ready → strayStopWaits s n = false →
          occupiedOn s b + (s.branches[b].queue.filter fun e => !e.reserved).length ≤ queuePlaces →
          stopExchange l.node n .stray false ∈ u.branches[b].queue))) ∧
  ∀ (s : State) (b : Fin 8) (f : InFlight) (bytes : List Byte) (a : NodeFrame) (r : NodeRecord) (k n : Nat) (sl : Slot)
    (l : Luminaire), s.phase = .operating → s.branches[b].inFlight = some f → f.exchange.kind = .start →
    f.exchange.issuer = .slot k n → f.exchange.luminaire = some n → nodeFrameOf bytes = some a →
    a.node = f.exchange.node → a.kind = 0x82 → a.record = some (r, some .accepted) → s.slots.get k = some sl →
    sl.luminaire = n → sl.status = .reserved → s.luminaires.get n = some l → l.state = .starting → l.branch = b →
    l.node = f.exchange.node →
    ∃ u sl' l', exec (.nodeAnswerFrame b bytes) s = .next (settle u) ∧ u.slots.get k = some sl' ∧
      u.luminaires.get n = some l' ∧
      sl'.campusStart = some s.campus ∧ sl'.elapsedRef = some s.ownCount ∧ sl'.nodeElapsed = some 0 ∧
      sl'.lowest = some r.millivolts ∧ l'.watchArmed = false ∧ l'.cancelPending = none ∧
      l'.lastReport = some ⟨r, s.campus, some .accepted⟩ ∧
      (∀ j, j ≠ k → u.slots.get j = s.slots.get j) ∧ OnlyLuminaire n s u ∧ ExchangeEnded s u ∧
      (l.cancelPending = none → bandAfter s.params l.band r.temperature ≠ .hot →
        sl'.status = .running ∧ l'.state = .testing ∧ sl'.endTimer = some (sl.rated * 60) ∧
        sl'.supervision = some s.params.supervisionInterval ∧ sl'.outcome = sl.outcome) ∧
      (∀ reason, l.cancelPending = some reason → sl'.status = .closing ∧ l'.state = .stopping ∧
        sl'.outcome = some (sl.outcome.getD reason.outcome)) ∧
      (l.cancelPending = none → bandAfter s.params l.band r.temperature = .hot →
        sl'.status = .closing ∧ l'.state = .stopping ∧ sl'.outcome = some (sl.outcome.getD .abortedThermal))

/-- CHATTER_EVENT (R166, R167): the count rises to at most 255; at 8 the notice is raised, and with auto-disable the branch goes
FAULTED and is emptied, its slots released, RUNNING and CLOSING ones with a result (R169), RESERVED ones without (R170); an OFF
or FAULTED branch counts nothing (R158). A removed CHECK leaves the check-pending set, and a removed NODE-EXCHANGE leaves service,
answered REFUSED with STATE and the branch's new state (R168, R175). The ascending slot number in which the result records
follow one another (assumption log 26), an event counted with an exchange in flight too (log 24), and the notice at 8 whatever set the count to 0 before
(log 46) are the model's choice. -/
def Obligations.ChatterCountsAndFaults : Prop :=
  ∀ (s : State) (b : Fin 8), s.phase = .operating → s.slots.Rising → s.luminaires.Rising →
    let br := s.branches[b]
    let count := min (br.chatter + 1) 255
    (br.state = .off ∨ br.state = .faulted → exec (.chatterEvent b) s = .next (opened s)) ∧
    (br.state = .ready ∨ br.state = .direct → br.chatter ≠ 7 → (count < 8 ∨ s.params.autoDisable[b] = false) →
      exec (.chatterEvent b) s =
        .next { opened s with branches := s.branches.set b { br with chatter := count } }) ∧
    (br.state = .ready ∨ br.state = .direct → br.chatter = 7 →
      ∃ u, exec (.chatterEvent b) s = .next (settle u) ∧
        (s.mask.getLsbD 17 = false → s.outbox.length < 32 →
          u.outbox[s.outbox.length]? = some ⟨if s.quality = .unset then none else some s.campus,
            .chatter b 8 s.params.autoDisable[b]⟩) ∧ ExchangeEnded s u ∧
        (s.params.autoDisable[b] = false → u.branches = s.branches.set b { br with chatter := 8 } ∧
          Touches { s with branches := u.branches } u)) ∧
    (br.state = .ready ∨ br.state = .direct → 8 ≤ count → s.params.autoDisable[b] = true →
      ∃ u, exec (.chatterEvent b) s = .next (settle u) ∧ u.branches[b] = { br with
          state := .faulted, chatter := count, queue := [], inFlight := none } ∧
        occupiedOn u b = 0 ∧ (∀ a : Fin 8, a ≠ b → u.branches[a] = s.branches[a]) ∧ ExchangeEnded s u ∧
        ChecksRemoved b s u ∧
        (s.service = none ∨ (∀ e ∈ exchangesOn s b, e.issuer ≠ .host) → LinkKept s u) ∧
        (∀ sv e, s.service = some sv → s.sending = none → e ∈ exchangesOn s b → e.issuer = .host →
          u.service = none ∧ u.ready = s.ready ∧
            u.sending = some ⟨true, sv.tag, [Reason.state.code, BranchState.faulted.code]⟩) ∧
        (SlotsSound s → SlotsReleased b s u ∧ (occupiedOn s b ≠ 0 → u.trigger = true)) ∧
        ∀ k sl, s.slots.get k = some sl → sl.branch ≠ b → u.slots.get k = some sl)

/-! ### Supply, RESET and RESTART -/

/-- RESET_ASSERTION and POWER_LOSS (R205, R206, R208): all that is volatile is gone; the store image, with the writes cut off,
and the EMG line's level remain. The values shown meanwhile (assumption log 33), and which writes are cut off (log 7), are the
model's choice. -/
def Obligations.ResetAndPowerLossKeepOnlyTheStore : Prop :=
  ∀ (s : State) (cut : Nat), s.phase = .operating →
    exec (.resetAssertion cut) s = .next
      { pending := s.pending, phase := .inReset, resetLine := true, emgLine := s.emgLine, image := cutImage cut s
        writeFates := s.writeFates } ∧
    exec (.powerLoss cut) s = .next
      { pending := s.pending, phase := .unpowered, resetLine := s.resetLine, emgLine := s.emgLine
        image := cutImage cut s, writeFates := s.writeFates } ∧
    cutImage 0 s = s.image

/-- START_UP with a usable image (R208, R209): persistent fields from the image, volatile ones at their start-up values. With an
image that fails its check (R208): the blank-image values, a blank image written, store state BLANK, or FAULT with STORE-FAULT
for the first item whose write fails. With the EMG line found asserted (R144, R209) the part comes up as with it released, but
in EMERGENCY with resume-to SUSPENDED, no slot to recall and EMERGENCY-ENTERED raised. The own count of 0 (assumption log 23),
START_UP in every phase with the RESET line left released (log 21) and the blank image's order and count of writes (log 37) are
the model's choice. -/
def Obligations.StartUpLoadsTheImage : Prop :=
  (∀ s : State, imageOk s.image = true → s.writeFates = [] → s.emgLine = false →
     (∀ p ∈ s.image.luminaires, p.2.openMarker = false) → s.image.luminaires.Rising →
     ∃ t, exec .startUp s = .next t ∧
       t = { pending := s.pending, image := s.image, storeState := .ok, lastWrites := t.lastWrites
             classes := s.image.classes, windows := s.image.windows, blackouts := s.image.blackouts, mode := s.image.mode
             params := s.image.params, mask := s.image.mask, results := s.image.results
             resultCounter := s.image.counter, attn := !s.image.results.isEmpty
             branches := t.branches, luminaires := t.luminaires, groups := t.groups, schedule := t.schedule } ∧
       (∀ b : Fin 8, t.branches[b] = { state := if s.image.branchOff[b] then .off else .ready
                                       hostOff := s.image.branchOff[b] }) ∧
       (∀ n, t.luminaires.get n = (s.image.luminaires.get n).map restored) ∧
       (∀ n i, s.image.luminaires.get n = some i → i.service = .inService → (restored i).state = .idle) ∧
       (∀ g, t.groups.get g = (s.image.groups.get g).map fun cap => rebuiltGroup t.luminaires g ⟨cap, [], 0⟩)) ∧
  (∀ s : State, imageOk s.image = false → s.writeFates = [] → s.emgLine = false →
     exec .startUp s = .next { State.reset with pending := s.pending, lastWrites := [s.image] }) ∧
  (∀ (s : State) (j : Nat) (i : Item), imageOk s.image = false → s.emgLine = false → s.writeFates[j]? = some true →
     (∀ m, m < j → s.writeFates[m]? = some false) → allItems[j]? = some i →
     ∃ t, exec .startUp s = .next t ∧
       t = { State.reset with
         pending := s.pending, lastWrites := [s.image], image := t.image, storeState := .fault
         writeFates := s.writeFates.drop allItems.length, outbox := [⟨none, .storeFault i⟩], attn := true }) ∧
  (∀ s : State, s.emgLine = true →
     ∃ t u, exec .startUp { s with emgLine := false } = .next t ∧ exec .startUp s = .next u ∧
       u = { t with
         emgLine := true, emgKept := true, sched := .emergency, resumeTo := .suspended, outbox := u.outbox
         noticesLost := u.noticesLost, attn := u.attn } ∧
       (t.mask.getLsbD 15 = true → u.outbox = t.outbox ∧ u.noticesLost = t.noticesLost ∧ u.attn = t.attn) ∧
       (t.mask.getLsbD 15 = false → t.outbox.length < 32 →
         u.outbox = t.outbox ++ [⟨none, .emergencyEntered .suspended 0 false⟩] ∧ u.noticesLost = t.noticesLost ∧
           u.attn = true))

/-- The open-marker recall of START_UP (R210): each marked luminaire is RECHARGING with recharge until pending and its marker
cleared, written to the store, and the others are as the image has them. A LOST record of origin UNKNOWN, with the next result
number and the stored start time, stands for each in ascending luminaire number, as far as the queue has room (R181). A STOP for
each is queued on its branch in that order, in the unreserved places of the branch; none on a branch stored as OFF (R160). -/
def Obligations.TheRecallQueuesLostRecords : Prop :=
  ∀ s : State, imageOk s.image = true → s.writeFates = [] → s.emgLine = false → s.image.luminaires.Rising →
    let marked := s.image.luminaires.filter fun p => p.2.openMarker
    let counted := marked.take (256 - s.image.results.length)
    ∃ t, exec .startUp s = .next t ∧ t.storeState = .ok ∧ t.slots = [] ∧
      t.results = s.image.results ++ counted.mapIdx (fun j p =>
        { number := (s.image.counter + j) % 65536, luminaire := p.1, branch := p.2.branch, node := p.2.node
          origin := .unknown, outcome := .lost, startTime := p.2.storedStart, endTime := none, elapsed := 0
          endVoltage := none, bandAtStart := .unknown }) ∧
      t.resultCounter = (s.image.counter + counted.length) % 65536 ∧
      t.image.results = t.results ∧ t.image.counter = t.resultCounter ∧
      (∀ n i, s.image.luminaires.get n = some i → i.openMarker = true →
        t.luminaires.get n = some { restored i with state := .recharging, recharge := some .pending, openMarker := false } ∧
        t.image.luminaires.get n = some { i with
          service := .recharging, recharge := some .pending, openMarker := false, storedStart := none }) ∧
      (∀ n i, s.image.luminaires.get n = some i → i.openMarker = false →
        t.luminaires.get n = some (restored i) ∧ t.image.luminaires.get n = some i) ∧
      (∀ b : Fin 8, t.branches[b] =
        { state := if s.image.branchOff[b] then .off else .ready, hostOff := s.image.branchOff[b]
          queue := if s.image.branchOff[b] then []
            else ((marked.filter fun p => p.2.branch == b.val).take 24).map fun p =>
              stopExchange p.2.node p.1 .recall false }) ∧
      t.attn = !t.results.isEmpty

/-- RESTART (R211, R205): answered DONE at once; when that reply has left, the part restarts with campus time, time quality and
the staleness timer kept; the own count is kept by the model's choice (assumption log 23). The persistent fields come back from
the image when it passes its check; with time SET or STALE no recharge until is left pending and no stored instant that campus
time has reached is left, and a due time reached is a trigger. With the EMG line found asserted the part comes up in EMERGENCY
with resume-to SUSPENDED (R144, R209); that its notice is the last (log 26), and that a frame held
meanwhile is lost (log 49), are the model's choice. -/
def Obligations.RestartKeepsTime : Prop :=
  ∀ (s : State) (tag : Byte),
    (Serves s → exec (.restart tag []) s = .next { answered s (doneReply tag []) with restartWaiting := true }) ∧
    (s.phase = .operating → s.sending.isSome = true → s.restartWaiting = true →
      ∃ u, exec .replySent s = .next (settle u) ∧ u.campus = s.campus ∧ u.quality = s.quality ∧
        u.staleness = s.staleness ∧ u.ownCount = s.ownCount ∧
        u.sched = (if s.emgLine then .emergency else .suspended) ∧ u.resumeTo = .suspended ∧
        u.emgLine = s.emgLine ∧ u.emgKept = s.emgLine ∧
        (s.emgLine = true → u.mask.getLsbD 15 = false → u.noticesLost = false →
          u.outbox.getLast? = some
            ⟨if s.quality = .unset then none else some s.campus, .emergencyEntered .suspended 0 false⟩) ∧
        u.recovery = none ∧ u.slots = [] ∧ u.channels = Vector.replicate 4 {} ∧ u.checkPending = [] ∧
        u.lastServed = 3 ∧ u.noticesLost = (decide (32 ≤ u.outbox.length) && u.noticesLost) ∧ u.receiver = .hunt ∧
        u.held = none ∧ u.service = none ∧ u.sending = none ∧ u.ready = [] ∧ u.restartWaiting = false ∧
        u.windowOpen = openNow u ∧ u.attn = attnLevel u ∧
        (imageOk s.image = true → u.classes = s.image.classes ∧ u.windows = s.image.windows ∧
          u.blackouts = s.image.blackouts ∧ u.mode = s.image.mode ∧ u.params = s.image.params ∧ u.mask = s.image.mask ∧
          u.results.take s.image.results.length = s.image.results ∧ u.groups.keys = s.image.groups.keys ∧
          (∀ b : Fin 8, u.branches[b].state = if s.image.branchOff[b] then .off else .ready) ∧
          (∀ n, (u.luminaires.get n).map (fun l => (l.branch, l.node, l.cls, l.groups, l.due, l.latches, l.lastResult)) =
            ((s.image.luminaires.get n).map restored).map
              fun l => (l.branch, l.node, l.cls, l.groups, l.due, l.latches, l.lastResult))) ∧
        (s.quality ≠ .unset → ∀ n l, u.luminaires.get n = some l →
          l.recharge ≠ some .pending ∧ (∀ h, l.holdOff = some h → s.campus < h) ∧
          (l.state = .idle → s.campus < l.due) ∧
          (∀ x, l.state = .recharging → l.recharge = some (.until x) → s.campus < x) ∧
          (l.watchArmed = true → l.state = .idle ∨ l.state = .due ∨ l.state = .recharging →
            s.campus < l.due + u.params.overdueGrace * 86400)) ∧
        (imageOk s.image = true → s.quality ≠ .unset → ∀ n i, s.image.luminaires.get n = some i →
          i.service = .inService → i.openMarker = false → i.due ≤ s.campus →
          u.trigger = true ∧ (u.luminaires.get n).map Luminaire.state = some .due) ∧
        (imageOk s.image = true → s.quality = .unset → ∀ n i, s.image.luminaires.get n = some i →
          i.openMarker = false → u.luminaires.get n = some (restored i)))

/-! ### Properties that every step keeps -/

/-- Every property of this section holds at reset. -/
def Obligations.EveryPropertyHoldsAtReset : Prop :=
  OutboxFits State.reset ∧ AttnFollows State.reset ∧ SchedulerAgrees State.reset ∧ Canonical State.reset ∧
    ResultsFit State.reset ∧ ScheduleSound State.reset ∧ GroupsSound State.reset ∧ SlotsSound State.reset ∧
    BranchesSound State.reset ∧ CampaignsSound State.reset

/-- Every step keeps the outbox within 32 notices (R184), ATTN at its level (R190), and the scheduler state, resume-to, the
recovery timer and the kept EMG level together (R144). -/
def Obligations.EveryStepKeepsOutboxAttnAndScheduler : Prop :=
  (∀ s t : State, step s = .next t → (OutboxFits s → OutboxFits t) ∧ (AttnFollows s → AttnFollows t)) ∧
  (∀ s t : State, SchedulerAgrees s → step s = .next t → SchedulerAgrees t)

/-- Every step keeps every table in its canonical form. -/
def Obligations.EveryStepKeepsTablesCanonical : Prop :=
  ∀ s t : State, Canonical s → step s = .next t → Canonical t

/-- Every step keeps occupied slots plus queued results within 256 and the slots within 48 (R68). -/
def Obligations.EveryStepKeepsRoomForResults : Prop :=
  ∀ s t : State, Canonical s → ResultsFit s → step s = .next t → ResultsFit t

/-- Every step keeps the schedule list what R59 says. -/
def Obligations.EveryStepKeepsTheScheduleList : Prop :=
  ∀ s t : State, Canonical s → ScheduleSound s → step s = .next t → ScheduleSound t

/-- Every step keeps each group's member list and dark count what the luminaire records say (R28, R35). -/
def Obligations.EveryStepKeepsGroupCounts : Prop :=
  ∀ s t : State, Canonical s → GroupsSound s → step s = .next t → GroupsSound t

/-- Every step keeps slots and luminaires together (R86). -/
def Obligations.EveryStepKeepsSlotsAndLuminaires : Prop :=
  ∀ s t : State, Canonical s → SlotsSound s → step s = .next t → SlotsSound t

/-- Every step keeps every branch within its 24 places, slots on READY branches alone, and OFF and FAULTED branches empty
(R158, R160). -/
def Obligations.EveryStepKeepsBranchPlaces : Prop :=
  ∀ s t : State, Canonical s → BranchesSound s → step s = .next t → BranchesSound t

/-- Every step keeps each campaign's in-flight list on slots of its own (R121). -/
def Obligations.EveryStepKeepsInFlightLists : Prop :=
  ∀ s t : State, Canonical s → SlotsSound s → CampaignsSound s → step s = .next t → CampaignsSound t
end

