-- ==== Sys2Proof/Laws/Calendar.lean ====
section
/-! SUPPORT. The calendar's quantities: where coverage can break, the open interval's end and the next blackout start as first
instants (R52, R53). -/

namespace Sys2Proof.Machine

/-! ### The least of a list -/

theorem least_none (l : List Nat) : least l = none ↔ l = [] := by
  cases l <;> simp [least]

theorem least_some (l : List Nat) (m : Nat) : least l = some m ↔ m ∈ l ∧ ∀ x ∈ l, m ≤ x := by
  induction l generalizing m with
  | nil => simp [least]
  | cons n rest ih =>
    cases h : least rest with
    | none =>
      rw [least_none] at h
      subst h
      simp only [least, Option.elim, Option.some.injEq, List.mem_singleton]
      constructor
      · rintro rfl
        exact ⟨rfl, fun x hx => by omega⟩
      · rintro ⟨h, -⟩
        exact h.symm
    | some k =>
      have hk := (ih k).mp h
      simp only [least, h, Option.elim, Option.some.injEq, List.mem_cons, forall_eq_or_imp]
      constructor
      · rintro rfl
        refine ⟨?_, Nat.min_le_left _ _, fun x hx => Nat.le_trans (Nat.min_le_right _ _) (hk.2 x hx)⟩
        rcases Nat.le_total n k with h1 | h1
        · exact Or.inl (Nat.min_eq_left h1)
        · rw [Nat.min_eq_right h1]
          exact Or.inr hk.1
      · rintro ⟨h1 | h1, h2, h3⟩
        · have := h3 k hk.1
          omega
        · have := hk.2 m h1
          have := h3 k hk.1
          omega

/-! ### Where coverage breaks -/

theorem weekday_next_week (t : Nat) : weekday (t + 604800) = weekday t := by
  unfold weekday daySeconds
  omega

theorem secondOfDay_next_week (t : Nat) : secondOfDay (t + 604800) = secondOfDay t := by
  unfold secondOfDay daySeconds
  omega

/-- The pattern of a window entry repeats every week. -/
theorem covers_next_week (e : WindowEntry) (t : Nat) : e.covers (t + 604800) = e.covers t := by
  unfold WindowEntry.covers
  rw [weekday_next_week, secondOfDay_next_week]

theorem coveredAt_next_week (s : State) (t : Nat) : coveredAt s (t + 604800) = coveredAt s t := by
  unfold coveredAt
  simp only [covers_next_week]

theorem coveredAt_iff (s : State) (t : Nat) : coveredAt s t = true ↔
    ∃ p ∈ s.windows, p.2.modes.getLsbD s.mode.index = true ∧ p.2.covers t = true := by
  unfold coveredAt WindowEntry.enabled
  simp

/-- A window entry stops covering only at its end minute. -/
theorem covers_breaks_at_stop (e : WindowEntry) (t : Nat) (h2 : e.stop < 1440)
    (h : e.covers t = true) (h' : e.covers (t + 1) = false) : (t + 1) % 86400 = e.stop * 60 := by
  by_cases roll : t % 86400 = 86399
  · have hd : (t + 1) / 86400 = t / 86400 + 1 := by omega
    have hs : (t + 1) % 86400 = 0 := by omega
    have hw : (weekday (t + 1) + 6) % 7 = weekday t := by
      unfold weekday daySeconds
      omega
    rw [hs]
    unfold WindowEntry.covers secondOfDay daySeconds at h h'
    rw [roll] at h
    rw [hs, hw] at h'
    by_cases hlt : e.start < e.stop
    · simp only [hlt, if_true, Bool.and_eq_true, decide_eq_true_eq] at h
      omega
    · simp only [hlt, if_false, Bool.or_eq_true, Bool.and_eq_true, decide_eq_true_eq] at h
      simp only [hlt, if_false, Bool.or_eq_false_iff, Bool.and_eq_false_iff, decide_eq_false_iff_not] at h'
      rcases h with ⟨hb, -⟩ | ⟨-, hb⟩
      · rcases h'.2 with h3 | h3
        · rw [hb] at h3
          cases h3
        · omega
      · omega
  · have hd : (t + 1) / 86400 = t / 86400 := by omega
    have hs : (t + 1) % 86400 = t % 86400 + 1 := by omega
    have hw : weekday (t + 1) = weekday t := by
      unfold weekday daySeconds
      rw [hd]
    rw [hs]
    unfold WindowEntry.covers secondOfDay daySeconds at h h'
    rw [hs, hw] at h'
    by_cases hlt : e.start < e.stop
    · simp only [hlt, if_true, Bool.and_eq_true, decide_eq_true_eq] at h
      simp only [hlt, if_true, Bool.and_eq_false_iff, decide_eq_false_iff_not] at h'
      rcases h' with (h3 | h3) | h3
      · rw [h.1.1] at h3
        cases h3
      · omega
      · omega
    · simp only [hlt, if_false, Bool.or_eq_true, Bool.and_eq_true, decide_eq_true_eq] at h
      simp only [hlt, if_false, Bool.or_eq_false_iff, Bool.and_eq_false_iff, decide_eq_false_iff_not] at h'
      rcases h with ⟨hb, h4⟩ | ⟨hb, h4⟩
      · rcases h'.1 with h3 | h3
        · rw [hb] at h3
          cases h3
        · omega
      · rcases h'.2 with h3 | h3
        · rw [hb] at h3
          cases h3
        · omega

/-- The first instant after a covered one that nothing covers is one of `entryEnds`. -/
theorem first_gap_mem (s : State) (t f : Nat) (hw : ∀ p ∈ s.windows, p.2.start < 1440 ∧ p.2.stop < 1440)
    (h0 : coveredAt s t = true) (hf : t < f) (hgap : coveredAt s f = false)
    (hmin : ∀ x, t < x → x < f → coveredAt s x = true) : f ∈ entryEnds s t := by
  obtain ⟨g, rfl⟩ : ∃ g, f = g + 1 := ⟨f - 1, by omega⟩
  have hg : coveredAt s g = true := by
    rcases Nat.lt_or_ge t g with h | h
    · exact hmin g h (by omega)
    · have : g = t := by omega
      rw [this]
      exact h0
  obtain ⟨p, hp, hm, hc⟩ := (coveredAt_iff s g).mp hg
  have hc' : p.2.covers (g + 1) = false := by
    cases hx : p.2.covers (g + 1) with
    | false => rfl
    | true =>
      have := (coveredAt_iff s (g + 1)).mpr ⟨p, hp, hm, hx⟩
      rw [this] at hgap
      cases hgap
  have hend := covers_breaks_at_stop p.2 g (hw p hp).2 hc hc'
  have hnear : g + 1 ≤ t + 604800 := by
    by_contra hfar
    have h1 := hmin (g + 1 - 604800) (by omega) (by omega)
    have h2 := coveredAt_next_week s (g + 1 - 604800)
    rw [show g + 1 - 604800 + 604800 = g + 1 by omega, h1, hgap] at h2
    cases h2
  unfold entryEnds daySeconds
  rw [List.mem_flatMap]
  refine ⟨p, hp, List.mem_map.mpr ⟨(g + 1) / 86400 - t / 86400, List.mem_range.mpr (by omega), ?_⟩⟩
  omega

/-! ### The open interval's end (R52) -/

/-- The instant lies in the stretch that an open window makes: covered, and no blackout starts at it. -/
def Unbroken (s : State) (t : Nat) : Prop := coveredAt s t = true ∧ ∀ p ∈ s.blackouts, p.2.start ≠ t

theorem mem_laterBlackouts (s : State) (t e : Nat) :
    e ∈ laterBlackouts s t ↔ t < e ∧ ∃ p ∈ s.blackouts, p.2.start = e := by
  unfold laterBlackouts
  simp only [List.mem_filter, List.mem_map, decide_eq_true_eq]
  exact and_comm

theorem mem_gaps (s : State) (t e : Nat) :
    e ∈ (coverageEnd s t).toList → t < e ∧ coveredAt s e = false := by
  unfold coverageEnd
  intro h
  rw [Option.mem_toList] at h
  have h1 := ((least_some _ _).mp h).1
  simp only [List.mem_filter, Bool.and_eq_true, decide_eq_true_eq, Bool.not_eq_true'] at h1
  exact h1.2

/-- Every instant after a covered one that nothing covers has a gap of `coverageEnd` at or before it. -/
theorem coverageEnd_le (s : State) (t e : Nat) (hw : ∀ p ∈ s.windows, p.2.start < 1440 ∧ p.2.stop < 1440)
    (h0 : coveredAt s t = true) (he : t < e) (hgap : coveredAt s e = false) :
    ∃ f ∈ (coverageEnd s t).toList, f ≤ e := by
  classical
  have hex : ∃ f, t < f ∧ coveredAt s f = false := ⟨e, he, hgap⟩
  have hf := Nat.find_spec hex
  have hmem := first_gap_mem s t (Nat.find hex) hw h0 hf.1 hf.2 (fun x h1 h2 => by
    cases hx : coveredAt s x with
    | true => rfl
    | false => exact absurd ⟨h1, hx⟩ (Nat.find_min hex h2))
  have hin : Nat.find hex ∈ (entryEnds s t).filter fun e => decide (t < e) && !coveredAt s e := by
    simp only [List.mem_filter, Bool.and_eq_true, decide_eq_true_eq, Bool.not_eq_true']
    exact ⟨hmem, hf⟩
  cases hl : coverageEnd s t with
  | none =>
    unfold coverageEnd at hl
    rw [least_none] at hl
    rw [hl] at hin
    cases hin
  | some m =>
    have h1 : m ≤ Nat.find hex := by
      unfold coverageEnd at hl
      exact ((least_some _ _).mp hl).2 _ hin
    exact ⟨m, by simp, Nat.le_trans h1 (Nat.find_min' hex ⟨he, hgap⟩)⟩

/-- Every broken instant after an unbroken one has an end of `openIntervalEnd`'s list at or before it, and each of that list is
broken. -/
theorem openIntervalEnd_spec (s : State) (hw : ∀ p ∈ s.windows, p.2.start < 1440 ∧ p.2.stop < 1440)
    (h0 : coveredAt s s.campus = true) :
    (∀ e, openIntervalEnd s = some e ↔
      s.campus < e ∧ ¬Unbroken s e ∧ ∀ t, s.campus < t → t < e → Unbroken s t) ∧
    (openIntervalEnd s = none ↔ ∀ t, s.campus < t → Unbroken s t) := by
  have hbroken : ∀ x ∈ (coverageEnd s s.campus).toList ++ laterBlackouts s s.campus, s.campus < x ∧ ¬Unbroken s x := by
    intro x hx
    rcases List.mem_append.mp hx with h | h
    · have h1 := mem_gaps s _ _ h
      refine ⟨h1.1, fun h2 => ?_⟩
      have h3 := h2.1
      rw [h1.2] at h3
      cases h3
    · obtain ⟨h1, p, hp, h2⟩ := (mem_laterBlackouts s _ _).mp h
      exact ⟨h1, fun h3 => h3.2 p hp h2⟩
  have hbelow : ∀ x, s.campus < x → ¬Unbroken s x →
      ∃ f ∈ (coverageEnd s s.campus).toList ++ laterBlackouts s s.campus, f ≤ x := by
    intro x hx hb
    cases hc : coveredAt s x with
    | false =>
      obtain ⟨f, hf, hle⟩ := coverageEnd_le s _ x hw h0 hx hc
      exact ⟨f, List.mem_append_left _ hf, hle⟩
    | true =>
      have : ∃ p ∈ s.blackouts, p.2.start = x := by
        by_contra hno
        exact hb ⟨hc, fun p hp heq => hno ⟨p, hp, heq⟩⟩
      exact ⟨x, List.mem_append_right _ ((mem_laterBlackouts s _ _).mpr ⟨hx, this⟩), Nat.le_refl _⟩
  constructor
  · intro e
    unfold openIntervalEnd
    rw [least_some]
    constructor
    · rintro ⟨hmem, hle⟩
      refine ⟨(hbroken e hmem).1, (hbroken e hmem).2, fun t h1 h2 => ?_⟩
      by_contra hb
      obtain ⟨f, hf, hfe⟩ := hbelow t h1 hb
      have := hle f hf
      omega
    · rintro ⟨h1, hb, hmin⟩
      obtain ⟨f, hf, hfe⟩ := hbelow e h1 hb
      have hfeq : f = e := by
        rcases Nat.lt_or_eq_of_le hfe with h2 | h2
        · exact absurd (hmin f (hbroken f hf).1 h2) (hbroken f hf).2
        · exact h2
      subst hfeq
      refine ⟨hf, fun x hx => ?_⟩
      by_contra h2
      exact (hbroken x hx).2 (hmin x (hbroken x hx).1 (by omega))
  · unfold openIntervalEnd
    rw [least_none]
    constructor
    · intro hnil t ht
      by_contra hb
      obtain ⟨f, hf, -⟩ := hbelow t ht hb
      rw [hnil] at hf
      cases hf
    · intro h
      rw [List.eq_nil_iff_forall_not_mem]
      intro x hx
      exact (hbroken x hx).2 (h x (hbroken x hx).1)

/-! ### The next blackout start (R53) -/

theorem nextBlackout_later (s : State) (h : blackoutAt s s.campus = false) :
    (∀ e, nextBlackout s = some e ↔ s.campus < e ∧ (∃ p ∈ s.blackouts, p.2.start = e) ∧
      ∀ p ∈ s.blackouts, s.campus < p.2.start → e ≤ p.2.start) ∧
    (nextBlackout s = none ↔ ∀ p ∈ s.blackouts, p.2.start ≤ s.campus) := by
  have hn : nextBlackout s = least (laterBlackouts s s.campus) := by
    unfold nextBlackout
    rw [h]
    rfl
  constructor
  · intro e
    rw [hn, least_some, mem_laterBlackouts, and_assoc]
    refine and_congr_right fun _ => and_congr_right fun _ => ⟨fun h1 p hp h2 => ?_, fun h1 x hx => ?_⟩
    · exact h1 _ ((mem_laterBlackouts s _ _).mpr ⟨h2, p, hp, rfl⟩)
    · obtain ⟨h2, p, hp, rfl⟩ := (mem_laterBlackouts s _ _).mp hx
      exact h1 p hp h2
  · rw [hn, least_none, List.eq_nil_iff_forall_not_mem]
    constructor
    · intro h1 p hp
      by_contra h2
      exact h1 _ ((mem_laterBlackouts s _ _).mpr ⟨by omega, p, hp, rfl⟩)
    · intro h1 x hx
      obtain ⟨h2, p, hp, rfl⟩ := (mem_laterBlackouts s _ _).mp hx
      have := h1 p hp
      omega

end Sys2Proof.Machine
end

