-- ==== Sys2Proof/Laws/State.lean ====
section
/-! SUPPORT. What each small update of the state leaves in each field: one rewriting lemma per field, true by definition. -/

namespace Sys2Proof.Machine

/-! ### `begin` -/

@[simp] theorem begin_pending (s : State) : (begin s).pending = s.pending := rfl
@[simp] theorem begin_phase (s : State) : (begin s).phase = s.phase := rfl
@[simp] theorem begin_resetLine (s : State) : (begin s).resetLine = s.resetLine := rfl
@[simp] theorem begin_emgLine (s : State) : (begin s).emgLine = s.emgLine := rfl
@[simp] theorem begin_ownCount (s : State) : (begin s).ownCount = s.ownCount := rfl
@[simp] theorem begin_luminaires (s : State) : (begin s).luminaires = s.luminaires := rfl
@[simp] theorem begin_classes (s : State) : (begin s).classes = s.classes := rfl
@[simp] theorem begin_groups (s : State) : (begin s).groups = s.groups := rfl
@[simp] theorem begin_campus (s : State) : (begin s).campus = s.campus := rfl
@[simp] theorem begin_quality (s : State) : (begin s).quality = s.quality := rfl
@[simp] theorem begin_staleness (s : State) : (begin s).staleness = s.staleness := rfl
@[simp] theorem begin_windows (s : State) : (begin s).windows = s.windows := rfl
@[simp] theorem begin_blackouts (s : State) : (begin s).blackouts = s.blackouts := rfl
@[simp] theorem begin_mode (s : State) : (begin s).mode = s.mode := rfl
@[simp] theorem begin_staged (s : State) : (begin s).staged = s.staged := rfl
@[simp] theorem begin_windowOpen (s : State) : (begin s).windowOpen = s.windowOpen := rfl
@[simp] theorem begin_schedule (s : State) : (begin s).schedule = s.schedule := rfl
@[simp] theorem begin_checkPending (s : State) : (begin s).checkPending = s.checkPending := rfl
@[simp] theorem begin_lastServed (s : State) : (begin s).lastServed = s.lastServed := rfl
@[simp] theorem begin_slots (s : State) : (begin s).slots = s.slots := rfl
@[simp] theorem begin_channels (s : State) : (begin s).channels = s.channels := rfl
@[simp] theorem begin_sched (s : State) : (begin s).sched = s.sched := rfl
@[simp] theorem begin_resumeTo (s : State) : (begin s).resumeTo = s.resumeTo := rfl
@[simp] theorem begin_recovery (s : State) : (begin s).recovery = s.recovery := rfl
@[simp] theorem begin_emgKept (s : State) : (begin s).emgKept = s.emgKept := rfl
@[simp] theorem begin_branches (s : State) : (begin s).branches = s.branches := rfl
@[simp] theorem begin_results (s : State) : (begin s).results = s.results := rfl
@[simp] theorem begin_resultCounter (s : State) : (begin s).resultCounter = s.resultCounter := rfl
@[simp] theorem begin_outbox (s : State) : (begin s).outbox = s.outbox := rfl
@[simp] theorem begin_noticesLost (s : State) : (begin s).noticesLost = s.noticesLost := rfl
@[simp] theorem begin_mask (s : State) : (begin s).mask = s.mask := rfl
@[simp] theorem begin_attn (s : State) : (begin s).attn = s.attn := rfl
@[simp] theorem begin_params (s : State) : (begin s).params = s.params := rfl
@[simp] theorem begin_receiver (s : State) : (begin s).receiver = s.receiver := rfl
@[simp] theorem begin_held (s : State) : (begin s).held = s.held := rfl
@[simp] theorem begin_service (s : State) : (begin s).service = s.service := rfl
@[simp] theorem begin_sending (s : State) : (begin s).sending = s.sending := rfl
@[simp] theorem begin_ready (s : State) : (begin s).ready = s.ready := rfl
@[simp] theorem begin_restartWaiting (s : State) : (begin s).restartWaiting = s.restartWaiting := rfl
@[simp] theorem begin_image (s : State) : (begin s).image = s.image := rfl
@[simp] theorem begin_storeState (s : State) : (begin s).storeState = s.storeState := rfl
@[simp] theorem begin_writeFates (s : State) : (begin s).writeFates = s.writeFates := rfl
@[simp] theorem begin_lastWrites (s : State) : (begin s).lastWrites = [] := rfl
@[simp] theorem begin_trigger (s : State) : (begin s).trigger = false := rfl
@[simp] theorem begin_writeFailed (s : State) : (begin s).writeFailed = false := rfl

/-! ### `finish` -/

@[simp] theorem finish_pending (s : State) : (finish s).pending = s.pending := rfl
@[simp] theorem finish_phase (s : State) : (finish s).phase = s.phase := rfl
@[simp] theorem finish_resetLine (s : State) : (finish s).resetLine = s.resetLine := rfl
@[simp] theorem finish_emgLine (s : State) : (finish s).emgLine = s.emgLine := rfl
@[simp] theorem finish_ownCount (s : State) : (finish s).ownCount = s.ownCount := rfl
@[simp] theorem finish_luminaires (s : State) : (finish s).luminaires = s.luminaires := rfl
@[simp] theorem finish_classes (s : State) : (finish s).classes = s.classes := rfl
@[simp] theorem finish_groups (s : State) : (finish s).groups = s.groups := rfl
@[simp] theorem finish_campus (s : State) : (finish s).campus = s.campus := rfl
@[simp] theorem finish_quality (s : State) : (finish s).quality = s.quality := rfl
@[simp] theorem finish_staleness (s : State) : (finish s).staleness = s.staleness := rfl
@[simp] theorem finish_windows (s : State) : (finish s).windows = s.windows := rfl
@[simp] theorem finish_blackouts (s : State) : (finish s).blackouts = s.blackouts := rfl
@[simp] theorem finish_mode (s : State) : (finish s).mode = s.mode := rfl
@[simp] theorem finish_staged (s : State) : (finish s).staged = s.staged := rfl
@[simp] theorem finish_windowOpen (s : State) : (finish s).windowOpen = s.windowOpen := rfl
@[simp] theorem finish_schedule (s : State) : (finish s).schedule = s.schedule := rfl
@[simp] theorem finish_checkPending (s : State) : (finish s).checkPending = s.checkPending := rfl
@[simp] theorem finish_lastServed (s : State) : (finish s).lastServed = s.lastServed := rfl
@[simp] theorem finish_slots (s : State) : (finish s).slots = s.slots := rfl
@[simp] theorem finish_channels (s : State) : (finish s).channels = s.channels := rfl
@[simp] theorem finish_sched (s : State) : (finish s).sched = s.sched := rfl
@[simp] theorem finish_resumeTo (s : State) : (finish s).resumeTo = s.resumeTo := rfl
@[simp] theorem finish_recovery (s : State) : (finish s).recovery = s.recovery := rfl
@[simp] theorem finish_emgKept (s : State) : (finish s).emgKept = s.emgKept := rfl
@[simp] theorem finish_branches (s : State) : (finish s).branches = s.branches := rfl
@[simp] theorem finish_results (s : State) : (finish s).results = s.results := rfl
@[simp] theorem finish_resultCounter (s : State) : (finish s).resultCounter = s.resultCounter := rfl
@[simp] theorem finish_outbox (s : State) : (finish s).outbox = s.outbox := rfl
@[simp] theorem finish_noticesLost (s : State) : (finish s).noticesLost = s.noticesLost := rfl
@[simp] theorem finish_mask (s : State) : (finish s).mask = s.mask := rfl
@[simp] theorem finish_attn (s : State) : (finish s).attn = s.attn := rfl
@[simp] theorem finish_params (s : State) : (finish s).params = s.params := rfl
@[simp] theorem finish_receiver (s : State) : (finish s).receiver = s.receiver := rfl
@[simp] theorem finish_held (s : State) : (finish s).held = s.held := rfl
@[simp] theorem finish_service (s : State) : (finish s).service = s.service := rfl
@[simp] theorem finish_sending (s : State) : (finish s).sending = s.sending := rfl
@[simp] theorem finish_ready (s : State) : (finish s).ready = s.ready := rfl
@[simp] theorem finish_restartWaiting (s : State) : (finish s).restartWaiting = s.restartWaiting := rfl
@[simp] theorem finish_image (s : State) : (finish s).image = s.image := rfl
@[simp] theorem finish_storeState (s : State) : (finish s).storeState = s.storeState := rfl
@[simp] theorem finish_writeFates (s : State) : (finish s).writeFates = s.writeFates := rfl
@[simp] theorem finish_lastWrites (s : State) : (finish s).lastWrites = s.lastWrites := rfl
@[simp] theorem finish_trigger (s : State) : (finish s).trigger = false := rfl
@[simp] theorem finish_writeFailed (s : State) : (finish s).writeFailed = false := rfl

/-! ### `triggerIf` -/

@[simp] theorem triggerIf_pending (b : Bool) (s : State) : (triggerIf b s).pending = s.pending := rfl
@[simp] theorem triggerIf_phase (b : Bool) (s : State) : (triggerIf b s).phase = s.phase := rfl
@[simp] theorem triggerIf_resetLine (b : Bool) (s : State) : (triggerIf b s).resetLine = s.resetLine := rfl
@[simp] theorem triggerIf_emgLine (b : Bool) (s : State) : (triggerIf b s).emgLine = s.emgLine := rfl
@[simp] theorem triggerIf_ownCount (b : Bool) (s : State) : (triggerIf b s).ownCount = s.ownCount := rfl
@[simp] theorem triggerIf_luminaires (b : Bool) (s : State) : (triggerIf b s).luminaires = s.luminaires := rfl
@[simp] theorem triggerIf_classes (b : Bool) (s : State) : (triggerIf b s).classes = s.classes := rfl
@[simp] theorem triggerIf_groups (b : Bool) (s : State) : (triggerIf b s).groups = s.groups := rfl
@[simp] theorem triggerIf_campus (b : Bool) (s : State) : (triggerIf b s).campus = s.campus := rfl
@[simp] theorem triggerIf_quality (b : Bool) (s : State) : (triggerIf b s).quality = s.quality := rfl
@[simp] theorem triggerIf_staleness (b : Bool) (s : State) : (triggerIf b s).staleness = s.staleness := rfl
@[simp] theorem triggerIf_windows (b : Bool) (s : State) : (triggerIf b s).windows = s.windows := rfl
@[simp] theorem triggerIf_blackouts (b : Bool) (s : State) : (triggerIf b s).blackouts = s.blackouts := rfl
@[simp] theorem triggerIf_mode (b : Bool) (s : State) : (triggerIf b s).mode = s.mode := rfl
@[simp] theorem triggerIf_staged (b : Bool) (s : State) : (triggerIf b s).staged = s.staged := rfl
@[simp] theorem triggerIf_windowOpen (b : Bool) (s : State) : (triggerIf b s).windowOpen = s.windowOpen := rfl
@[simp] theorem triggerIf_schedule (b : Bool) (s : State) : (triggerIf b s).schedule = s.schedule := rfl
@[simp] theorem triggerIf_checkPending (b : Bool) (s : State) : (triggerIf b s).checkPending = s.checkPending := rfl
@[simp] theorem triggerIf_lastServed (b : Bool) (s : State) : (triggerIf b s).lastServed = s.lastServed := rfl
@[simp] theorem triggerIf_slots (b : Bool) (s : State) : (triggerIf b s).slots = s.slots := rfl
@[simp] theorem triggerIf_channels (b : Bool) (s : State) : (triggerIf b s).channels = s.channels := rfl
@[simp] theorem triggerIf_sched (b : Bool) (s : State) : (triggerIf b s).sched = s.sched := rfl
@[simp] theorem triggerIf_resumeTo (b : Bool) (s : State) : (triggerIf b s).resumeTo = s.resumeTo := rfl
@[simp] theorem triggerIf_recovery (b : Bool) (s : State) : (triggerIf b s).recovery = s.recovery := rfl
@[simp] theorem triggerIf_emgKept (b : Bool) (s : State) : (triggerIf b s).emgKept = s.emgKept := rfl
@[simp] theorem triggerIf_branches (b : Bool) (s : State) : (triggerIf b s).branches = s.branches := rfl
@[simp] theorem triggerIf_results (b : Bool) (s : State) : (triggerIf b s).results = s.results := rfl
@[simp] theorem triggerIf_resultCounter (b : Bool) (s : State) : (triggerIf b s).resultCounter = s.resultCounter := rfl
@[simp] theorem triggerIf_outbox (b : Bool) (s : State) : (triggerIf b s).outbox = s.outbox := rfl
@[simp] theorem triggerIf_noticesLost (b : Bool) (s : State) : (triggerIf b s).noticesLost = s.noticesLost := rfl
@[simp] theorem triggerIf_mask (b : Bool) (s : State) : (triggerIf b s).mask = s.mask := rfl
@[simp] theorem triggerIf_attn (b : Bool) (s : State) : (triggerIf b s).attn = s.attn := rfl
@[simp] theorem triggerIf_params (b : Bool) (s : State) : (triggerIf b s).params = s.params := rfl
@[simp] theorem triggerIf_receiver (b : Bool) (s : State) : (triggerIf b s).receiver = s.receiver := rfl
@[simp] theorem triggerIf_held (b : Bool) (s : State) : (triggerIf b s).held = s.held := rfl
@[simp] theorem triggerIf_service (b : Bool) (s : State) : (triggerIf b s).service = s.service := rfl
@[simp] theorem triggerIf_sending (b : Bool) (s : State) : (triggerIf b s).sending = s.sending := rfl
@[simp] theorem triggerIf_ready (b : Bool) (s : State) : (triggerIf b s).ready = s.ready := rfl
@[simp] theorem triggerIf_restartWaiting (b : Bool) (s : State) : (triggerIf b s).restartWaiting = s.restartWaiting := rfl
@[simp] theorem triggerIf_image (b : Bool) (s : State) : (triggerIf b s).image = s.image := rfl
@[simp] theorem triggerIf_storeState (b : Bool) (s : State) : (triggerIf b s).storeState = s.storeState := rfl
@[simp] theorem triggerIf_writeFates (b : Bool) (s : State) : (triggerIf b s).writeFates = s.writeFates := rfl
@[simp] theorem triggerIf_lastWrites (b : Bool) (s : State) : (triggerIf b s).lastWrites = s.lastWrites := rfl
@[simp] theorem triggerIf_trigger (b : Bool) (s : State) : (triggerIf b s).trigger = (s.trigger || b) := rfl
@[simp] theorem triggerIf_writeFailed (b : Bool) (s : State) : (triggerIf b s).writeFailed = s.writeFailed := rfl

/-! ### `triggerPass` -/

@[simp] theorem triggerPass_pending (s : State) : (triggerPass s).pending = s.pending := rfl
@[simp] theorem triggerPass_phase (s : State) : (triggerPass s).phase = s.phase := rfl
@[simp] theorem triggerPass_resetLine (s : State) : (triggerPass s).resetLine = s.resetLine := rfl
@[simp] theorem triggerPass_emgLine (s : State) : (triggerPass s).emgLine = s.emgLine := rfl
@[simp] theorem triggerPass_ownCount (s : State) : (triggerPass s).ownCount = s.ownCount := rfl
@[simp] theorem triggerPass_luminaires (s : State) : (triggerPass s).luminaires = s.luminaires := rfl
@[simp] theorem triggerPass_classes (s : State) : (triggerPass s).classes = s.classes := rfl
@[simp] theorem triggerPass_groups (s : State) : (triggerPass s).groups = s.groups := rfl
@[simp] theorem triggerPass_campus (s : State) : (triggerPass s).campus = s.campus := rfl
@[simp] theorem triggerPass_quality (s : State) : (triggerPass s).quality = s.quality := rfl
@[simp] theorem triggerPass_staleness (s : State) : (triggerPass s).staleness = s.staleness := rfl
@[simp] theorem triggerPass_windows (s : State) : (triggerPass s).windows = s.windows := rfl
@[simp] theorem triggerPass_blackouts (s : State) : (triggerPass s).blackouts = s.blackouts := rfl
@[simp] theorem triggerPass_mode (s : State) : (triggerPass s).mode = s.mode := rfl
@[simp] theorem triggerPass_staged (s : State) : (triggerPass s).staged = s.staged := rfl
@[simp] theorem triggerPass_windowOpen (s : State) : (triggerPass s).windowOpen = s.windowOpen := rfl
@[simp] theorem triggerPass_schedule (s : State) : (triggerPass s).schedule = s.schedule := rfl
@[simp] theorem triggerPass_checkPending (s : State) : (triggerPass s).checkPending = s.checkPending := rfl
@[simp] theorem triggerPass_lastServed (s : State) : (triggerPass s).lastServed = s.lastServed := rfl
@[simp] theorem triggerPass_slots (s : State) : (triggerPass s).slots = s.slots := rfl
@[simp] theorem triggerPass_channels (s : State) : (triggerPass s).channels = s.channels := rfl
@[simp] theorem triggerPass_sched (s : State) : (triggerPass s).sched = s.sched := rfl
@[simp] theorem triggerPass_resumeTo (s : State) : (triggerPass s).resumeTo = s.resumeTo := rfl
@[simp] theorem triggerPass_recovery (s : State) : (triggerPass s).recovery = s.recovery := rfl
@[simp] theorem triggerPass_emgKept (s : State) : (triggerPass s).emgKept = s.emgKept := rfl
@[simp] theorem triggerPass_branches (s : State) : (triggerPass s).branches = s.branches := rfl
@[simp] theorem triggerPass_results (s : State) : (triggerPass s).results = s.results := rfl
@[simp] theorem triggerPass_resultCounter (s : State) : (triggerPass s).resultCounter = s.resultCounter := rfl
@[simp] theorem triggerPass_outbox (s : State) : (triggerPass s).outbox = s.outbox := rfl
@[simp] theorem triggerPass_noticesLost (s : State) : (triggerPass s).noticesLost = s.noticesLost := rfl
@[simp] theorem triggerPass_mask (s : State) : (triggerPass s).mask = s.mask := rfl
@[simp] theorem triggerPass_attn (s : State) : (triggerPass s).attn = s.attn := rfl
@[simp] theorem triggerPass_params (s : State) : (triggerPass s).params = s.params := rfl
@[simp] theorem triggerPass_receiver (s : State) : (triggerPass s).receiver = s.receiver := rfl
@[simp] theorem triggerPass_held (s : State) : (triggerPass s).held = s.held := rfl
@[simp] theorem triggerPass_service (s : State) : (triggerPass s).service = s.service := rfl
@[simp] theorem triggerPass_sending (s : State) : (triggerPass s).sending = s.sending := rfl
@[simp] theorem triggerPass_ready (s : State) : (triggerPass s).ready = s.ready := rfl
@[simp] theorem triggerPass_restartWaiting (s : State) : (triggerPass s).restartWaiting = s.restartWaiting := rfl
@[simp] theorem triggerPass_image (s : State) : (triggerPass s).image = s.image := rfl
@[simp] theorem triggerPass_storeState (s : State) : (triggerPass s).storeState = s.storeState := rfl
@[simp] theorem triggerPass_writeFates (s : State) : (triggerPass s).writeFates = s.writeFates := rfl
@[simp] theorem triggerPass_lastWrites (s : State) : (triggerPass s).lastWrites = s.lastWrites := rfl
@[simp] theorem triggerPass_trigger (s : State) : (triggerPass s).trigger = (s.trigger || true) := rfl
@[simp] theorem triggerPass_writeFailed (s : State) : (triggerPass s).writeFailed = s.writeFailed := rfl

/-! ### `followAttn` -/

@[simp] theorem followAttn_pending (s : State) : (followAttn s).pending = s.pending := rfl
@[simp] theorem followAttn_phase (s : State) : (followAttn s).phase = s.phase := rfl
@[simp] theorem followAttn_resetLine (s : State) : (followAttn s).resetLine = s.resetLine := rfl
@[simp] theorem followAttn_emgLine (s : State) : (followAttn s).emgLine = s.emgLine := rfl
@[simp] theorem followAttn_ownCount (s : State) : (followAttn s).ownCount = s.ownCount := rfl
@[simp] theorem followAttn_luminaires (s : State) : (followAttn s).luminaires = s.luminaires := rfl
@[simp] theorem followAttn_classes (s : State) : (followAttn s).classes = s.classes := rfl
@[simp] theorem followAttn_groups (s : State) : (followAttn s).groups = s.groups := rfl
@[simp] theorem followAttn_campus (s : State) : (followAttn s).campus = s.campus := rfl
@[simp] theorem followAttn_quality (s : State) : (followAttn s).quality = s.quality := rfl
@[simp] theorem followAttn_staleness (s : State) : (followAttn s).staleness = s.staleness := rfl
@[simp] theorem followAttn_windows (s : State) : (followAttn s).windows = s.windows := rfl
@[simp] theorem followAttn_blackouts (s : State) : (followAttn s).blackouts = s.blackouts := rfl
@[simp] theorem followAttn_mode (s : State) : (followAttn s).mode = s.mode := rfl
@[simp] theorem followAttn_staged (s : State) : (followAttn s).staged = s.staged := rfl
@[simp] theorem followAttn_windowOpen (s : State) : (followAttn s).windowOpen = s.windowOpen := rfl
@[simp] theorem followAttn_schedule (s : State) : (followAttn s).schedule = s.schedule := rfl
@[simp] theorem followAttn_checkPending (s : State) : (followAttn s).checkPending = s.checkPending := rfl
@[simp] theorem followAttn_lastServed (s : State) : (followAttn s).lastServed = s.lastServed := rfl
@[simp] theorem followAttn_slots (s : State) : (followAttn s).slots = s.slots := rfl
@[simp] theorem followAttn_channels (s : State) : (followAttn s).channels = s.channels := rfl
@[simp] theorem followAttn_sched (s : State) : (followAttn s).sched = s.sched := rfl
@[simp] theorem followAttn_resumeTo (s : State) : (followAttn s).resumeTo = s.resumeTo := rfl
@[simp] theorem followAttn_recovery (s : State) : (followAttn s).recovery = s.recovery := rfl
@[simp] theorem followAttn_emgKept (s : State) : (followAttn s).emgKept = s.emgKept := rfl
@[simp] theorem followAttn_branches (s : State) : (followAttn s).branches = s.branches := rfl
@[simp] theorem followAttn_results (s : State) : (followAttn s).results = s.results := rfl
@[simp] theorem followAttn_resultCounter (s : State) : (followAttn s).resultCounter = s.resultCounter := rfl
@[simp] theorem followAttn_outbox (s : State) : (followAttn s).outbox = s.outbox := rfl
@[simp] theorem followAttn_noticesLost (s : State) : (followAttn s).noticesLost = s.noticesLost := rfl
@[simp] theorem followAttn_mask (s : State) : (followAttn s).mask = s.mask := rfl
@[simp] theorem followAttn_attn (s : State) : (followAttn s).attn = attnLevel s := rfl
@[simp] theorem followAttn_params (s : State) : (followAttn s).params = s.params := rfl
@[simp] theorem followAttn_receiver (s : State) : (followAttn s).receiver = s.receiver := rfl
@[simp] theorem followAttn_held (s : State) : (followAttn s).held = s.held := rfl
@[simp] theorem followAttn_service (s : State) : (followAttn s).service = s.service := rfl
@[simp] theorem followAttn_sending (s : State) : (followAttn s).sending = s.sending := rfl
@[simp] theorem followAttn_ready (s : State) : (followAttn s).ready = s.ready := rfl
@[simp] theorem followAttn_restartWaiting (s : State) : (followAttn s).restartWaiting = s.restartWaiting := rfl
@[simp] theorem followAttn_image (s : State) : (followAttn s).image = s.image := rfl
@[simp] theorem followAttn_storeState (s : State) : (followAttn s).storeState = s.storeState := rfl
@[simp] theorem followAttn_writeFates (s : State) : (followAttn s).writeFates = s.writeFates := rfl
@[simp] theorem followAttn_lastWrites (s : State) : (followAttn s).lastWrites = s.lastWrites := rfl
@[simp] theorem followAttn_trigger (s : State) : (followAttn s).trigger = s.trigger := rfl
@[simp] theorem followAttn_writeFailed (s : State) : (followAttn s).writeFailed = s.writeFailed := rfl

/-! ### `modBranch` -/

@[simp] theorem modBranch_pending (b : Fin 8) (f : Branch → Branch) (s : State) : (modBranch b f s).pending = s.pending := rfl
@[simp] theorem modBranch_phase (b : Fin 8) (f : Branch → Branch) (s : State) : (modBranch b f s).phase = s.phase := rfl
@[simp] theorem modBranch_resetLine (b : Fin 8) (f : Branch → Branch) (s : State) : (modBranch b f s).resetLine = s.resetLine := rfl
@[simp] theorem modBranch_emgLine (b : Fin 8) (f : Branch → Branch) (s : State) : (modBranch b f s).emgLine = s.emgLine := rfl
@[simp] theorem modBranch_ownCount (b : Fin 8) (f : Branch → Branch) (s : State) : (modBranch b f s).ownCount = s.ownCount := rfl
@[simp] theorem modBranch_luminaires (b : Fin 8) (f : Branch → Branch) (s : State) : (modBranch b f s).luminaires = s.luminaires := rfl
@[simp] theorem modBranch_classes (b : Fin 8) (f : Branch → Branch) (s : State) : (modBranch b f s).classes = s.classes := rfl
@[simp] theorem modBranch_groups (b : Fin 8) (f : Branch → Branch) (s : State) : (modBranch b f s).groups = s.groups := rfl
@[simp] theorem modBranch_campus (b : Fin 8) (f : Branch → Branch) (s : State) : (modBranch b f s).campus = s.campus := rfl
@[simp] theorem modBranch_quality (b : Fin 8) (f : Branch → Branch) (s : State) : (modBranch b f s).quality = s.quality := rfl
@[simp] theorem modBranch_staleness (b : Fin 8) (f : Branch → Branch) (s : State) : (modBranch b f s).staleness = s.staleness := rfl
@[simp] theorem modBranch_windows (b : Fin 8) (f : Branch → Branch) (s : State) : (modBranch b f s).windows = s.windows := rfl
@[simp] theorem modBranch_blackouts (b : Fin 8) (f : Branch → Branch) (s : State) : (modBranch b f s).blackouts = s.blackouts := rfl
@[simp] theorem modBranch_mode (b : Fin 8) (f : Branch → Branch) (s : State) : (modBranch b f s).mode = s.mode := rfl
@[simp] theorem modBranch_staged (b : Fin 8) (f : Branch → Branch) (s : State) : (modBranch b f s).staged = s.staged := rfl
@[simp] theorem modBranch_windowOpen (b : Fin 8) (f : Branch → Branch) (s : State) : (modBranch b f s).windowOpen = s.windowOpen := rfl
@[simp] theorem modBranch_schedule (b : Fin 8) (f : Branch → Branch) (s : State) : (modBranch b f s).schedule = s.schedule := rfl
@[simp] theorem modBranch_checkPending (b : Fin 8) (f : Branch → Branch) (s : State) : (modBranch b f s).checkPending = s.checkPending := rfl
@[simp] theorem modBranch_lastServed (b : Fin 8) (f : Branch → Branch) (s : State) : (modBranch b f s).lastServed = s.lastServed := rfl
@[simp] theorem modBranch_slots (b : Fin 8) (f : Branch → Branch) (s : State) : (modBranch b f s).slots = s.slots := rfl
@[simp] theorem modBranch_channels (b : Fin 8) (f : Branch → Branch) (s : State) : (modBranch b f s).channels = s.channels := rfl
@[simp] theorem modBranch_sched (b : Fin 8) (f : Branch → Branch) (s : State) : (modBranch b f s).sched = s.sched := rfl
@[simp] theorem modBranch_resumeTo (b : Fin 8) (f : Branch → Branch) (s : State) : (modBranch b f s).resumeTo = s.resumeTo := rfl
@[simp] theorem modBranch_recovery (b : Fin 8) (f : Branch → Branch) (s : State) : (modBranch b f s).recovery = s.recovery := rfl
@[simp] theorem modBranch_emgKept (b : Fin 8) (f : Branch → Branch) (s : State) : (modBranch b f s).emgKept = s.emgKept := rfl
@[simp] theorem modBranch_branches (b : Fin 8) (f : Branch → Branch) (s : State) : (modBranch b f s).branches = s.branches.set b (f s.branches[b]) := rfl
@[simp] theorem modBranch_results (b : Fin 8) (f : Branch → Branch) (s : State) : (modBranch b f s).results = s.results := rfl
@[simp] theorem modBranch_resultCounter (b : Fin 8) (f : Branch → Branch) (s : State) : (modBranch b f s).resultCounter = s.resultCounter := rfl
@[simp] theorem modBranch_outbox (b : Fin 8) (f : Branch → Branch) (s : State) : (modBranch b f s).outbox = s.outbox := rfl
@[simp] theorem modBranch_noticesLost (b : Fin 8) (f : Branch → Branch) (s : State) : (modBranch b f s).noticesLost = s.noticesLost := rfl
@[simp] theorem modBranch_mask (b : Fin 8) (f : Branch → Branch) (s : State) : (modBranch b f s).mask = s.mask := rfl
@[simp] theorem modBranch_attn (b : Fin 8) (f : Branch → Branch) (s : State) : (modBranch b f s).attn = s.attn := rfl
@[simp] theorem modBranch_params (b : Fin 8) (f : Branch → Branch) (s : State) : (modBranch b f s).params = s.params := rfl
@[simp] theorem modBranch_receiver (b : Fin 8) (f : Branch → Branch) (s : State) : (modBranch b f s).receiver = s.receiver := rfl
@[simp] theorem modBranch_held (b : Fin 8) (f : Branch → Branch) (s : State) : (modBranch b f s).held = s.held := rfl
@[simp] theorem modBranch_service (b : Fin 8) (f : Branch → Branch) (s : State) : (modBranch b f s).service = s.service := rfl
@[simp] theorem modBranch_sending (b : Fin 8) (f : Branch → Branch) (s : State) : (modBranch b f s).sending = s.sending := rfl
@[simp] theorem modBranch_ready (b : Fin 8) (f : Branch → Branch) (s : State) : (modBranch b f s).ready = s.ready := rfl
@[simp] theorem modBranch_restartWaiting (b : Fin 8) (f : Branch → Branch) (s : State) : (modBranch b f s).restartWaiting = s.restartWaiting := rfl
@[simp] theorem modBranch_image (b : Fin 8) (f : Branch → Branch) (s : State) : (modBranch b f s).image = s.image := rfl
@[simp] theorem modBranch_storeState (b : Fin 8) (f : Branch → Branch) (s : State) : (modBranch b f s).storeState = s.storeState := rfl
@[simp] theorem modBranch_writeFates (b : Fin 8) (f : Branch → Branch) (s : State) : (modBranch b f s).writeFates = s.writeFates := rfl
@[simp] theorem modBranch_lastWrites (b : Fin 8) (f : Branch → Branch) (s : State) : (modBranch b f s).lastWrites = s.lastWrites := rfl
@[simp] theorem modBranch_trigger (b : Fin 8) (f : Branch → Branch) (s : State) : (modBranch b f s).trigger = s.trigger := rfl
@[simp] theorem modBranch_writeFailed (b : Fin 8) (f : Branch → Branch) (s : State) : (modBranch b f s).writeFailed = s.writeFailed := rfl

/-! ### `modChan` -/

@[simp] theorem modChan_pending (c : Fin 4) (f : Channel → Channel) (s : State) : (modChan c f s).pending = s.pending := rfl
@[simp] theorem modChan_phase (c : Fin 4) (f : Channel → Channel) (s : State) : (modChan c f s).phase = s.phase := rfl
@[simp] theorem modChan_resetLine (c : Fin 4) (f : Channel → Channel) (s : State) : (modChan c f s).resetLine = s.resetLine := rfl
@[simp] theorem modChan_emgLine (c : Fin 4) (f : Channel → Channel) (s : State) : (modChan c f s).emgLine = s.emgLine := rfl
@[simp] theorem modChan_ownCount (c : Fin 4) (f : Channel → Channel) (s : State) : (modChan c f s).ownCount = s.ownCount := rfl
@[simp] theorem modChan_luminaires (c : Fin 4) (f : Channel → Channel) (s : State) : (modChan c f s).luminaires = s.luminaires := rfl
@[simp] theorem modChan_classes (c : Fin 4) (f : Channel → Channel) (s : State) : (modChan c f s).classes = s.classes := rfl
@[simp] theorem modChan_groups (c : Fin 4) (f : Channel → Channel) (s : State) : (modChan c f s).groups = s.groups := rfl
@[simp] theorem modChan_campus (c : Fin 4) (f : Channel → Channel) (s : State) : (modChan c f s).campus = s.campus := rfl
@[simp] theorem modChan_quality (c : Fin 4) (f : Channel → Channel) (s : State) : (modChan c f s).quality = s.quality := rfl
@[simp] theorem modChan_staleness (c : Fin 4) (f : Channel → Channel) (s : State) : (modChan c f s).staleness = s.staleness := rfl
@[simp] theorem modChan_windows (c : Fin 4) (f : Channel → Channel) (s : State) : (modChan c f s).windows = s.windows := rfl
@[simp] theorem modChan_blackouts (c : Fin 4) (f : Channel → Channel) (s : State) : (modChan c f s).blackouts = s.blackouts := rfl
@[simp] theorem modChan_mode (c : Fin 4) (f : Channel → Channel) (s : State) : (modChan c f s).mode = s.mode := rfl
@[simp] theorem modChan_staged (c : Fin 4) (f : Channel → Channel) (s : State) : (modChan c f s).staged = s.staged := rfl
@[simp] theorem modChan_windowOpen (c : Fin 4) (f : Channel → Channel) (s : State) : (modChan c f s).windowOpen = s.windowOpen := rfl
@[simp] theorem modChan_schedule (c : Fin 4) (f : Channel → Channel) (s : State) : (modChan c f s).schedule = s.schedule := rfl
@[simp] theorem modChan_checkPending (c : Fin 4) (f : Channel → Channel) (s : State) : (modChan c f s).checkPending = s.checkPending := rfl
@[simp] theorem modChan_lastServed (c : Fin 4) (f : Channel → Channel) (s : State) : (modChan c f s).lastServed = s.lastServed := rfl
@[simp] theorem modChan_slots (c : Fin 4) (f : Channel → Channel) (s : State) : (modChan c f s).slots = s.slots := rfl
@[simp] theorem modChan_channels (c : Fin 4) (f : Channel → Channel) (s : State) : (modChan c f s).channels = s.channels.set c (f s.channels[c]) := rfl
@[simp] theorem modChan_sched (c : Fin 4) (f : Channel → Channel) (s : State) : (modChan c f s).sched = s.sched := rfl
@[simp] theorem modChan_resumeTo (c : Fin 4) (f : Channel → Channel) (s : State) : (modChan c f s).resumeTo = s.resumeTo := rfl
@[simp] theorem modChan_recovery (c : Fin 4) (f : Channel → Channel) (s : State) : (modChan c f s).recovery = s.recovery := rfl
@[simp] theorem modChan_emgKept (c : Fin 4) (f : Channel → Channel) (s : State) : (modChan c f s).emgKept = s.emgKept := rfl
@[simp] theorem modChan_branches (c : Fin 4) (f : Channel → Channel) (s : State) : (modChan c f s).branches = s.branches := rfl
@[simp] theorem modChan_results (c : Fin 4) (f : Channel → Channel) (s : State) : (modChan c f s).results = s.results := rfl
@[simp] theorem modChan_resultCounter (c : Fin 4) (f : Channel → Channel) (s : State) : (modChan c f s).resultCounter = s.resultCounter := rfl
@[simp] theorem modChan_outbox (c : Fin 4) (f : Channel → Channel) (s : State) : (modChan c f s).outbox = s.outbox := rfl
@[simp] theorem modChan_noticesLost (c : Fin 4) (f : Channel → Channel) (s : State) : (modChan c f s).noticesLost = s.noticesLost := rfl
@[simp] theorem modChan_mask (c : Fin 4) (f : Channel → Channel) (s : State) : (modChan c f s).mask = s.mask := rfl
@[simp] theorem modChan_attn (c : Fin 4) (f : Channel → Channel) (s : State) : (modChan c f s).attn = s.attn := rfl
@[simp] theorem modChan_params (c : Fin 4) (f : Channel → Channel) (s : State) : (modChan c f s).params = s.params := rfl
@[simp] theorem modChan_receiver (c : Fin 4) (f : Channel → Channel) (s : State) : (modChan c f s).receiver = s.receiver := rfl
@[simp] theorem modChan_held (c : Fin 4) (f : Channel → Channel) (s : State) : (modChan c f s).held = s.held := rfl
@[simp] theorem modChan_service (c : Fin 4) (f : Channel → Channel) (s : State) : (modChan c f s).service = s.service := rfl
@[simp] theorem modChan_sending (c : Fin 4) (f : Channel → Channel) (s : State) : (modChan c f s).sending = s.sending := rfl
@[simp] theorem modChan_ready (c : Fin 4) (f : Channel → Channel) (s : State) : (modChan c f s).ready = s.ready := rfl
@[simp] theorem modChan_restartWaiting (c : Fin 4) (f : Channel → Channel) (s : State) : (modChan c f s).restartWaiting = s.restartWaiting := rfl
@[simp] theorem modChan_image (c : Fin 4) (f : Channel → Channel) (s : State) : (modChan c f s).image = s.image := rfl
@[simp] theorem modChan_storeState (c : Fin 4) (f : Channel → Channel) (s : State) : (modChan c f s).storeState = s.storeState := rfl
@[simp] theorem modChan_writeFates (c : Fin 4) (f : Channel → Channel) (s : State) : (modChan c f s).writeFates = s.writeFates := rfl
@[simp] theorem modChan_lastWrites (c : Fin 4) (f : Channel → Channel) (s : State) : (modChan c f s).lastWrites = s.lastWrites := rfl
@[simp] theorem modChan_trigger (c : Fin 4) (f : Channel → Channel) (s : State) : (modChan c f s).trigger = s.trigger := rfl
@[simp] theorem modChan_writeFailed (c : Fin 4) (f : Channel → Channel) (s : State) : (modChan c f s).writeFailed = s.writeFailed := rfl

end Sys2Proof.Machine
end

