-- ==== Sys2Proof/Laws/Frames.lean ====
section
/-! SUPPORT. Frames: which fields an operation may touch, each as one equation, how frames compose, and the frame of every
shared operation. -/

namespace Sys2Proof.Machine

/-- Only what a raised notice touches differs. -/
def OnlyNotices (s t : State) : Prop :=
  t = { s with
    outbox := t.outbox, noticesLost := t.noticesLost, attn := t.attn }

/-- Only what a store write touches differs. -/
def OnlyWrites (s t : State) : Prop :=
  t = { s with
    outbox := t.outbox, noticesLost := t.noticesLost, attn := t.attn, image := t.image, lastWrites :=
    t.lastWrites, storeState := t.storeState, writeFates := t.writeFates, writeFailed := t.writeFailed }

/-- Only what a campaign on its own touches differs. -/
def OnlyCampaign (s t : State) : Prop :=
  t = { s with
    outbox := t.outbox, noticesLost := t.noticesLost, attn := t.attn, channels := t.channels, trigger := t.trigger }

/-- Only what a branch queue touches differs. -/
def OnlyBranches (s t : State) : Prop :=
  t = { s with
    branches := t.branches }

/-- Only what a luminaire record touches differs. -/
def OnlyRecords (s t : State) : Prop :=
  t = { s with
    outbox := t.outbox, noticesLost := t.noticesLost, attn := t.attn, image := t.image, lastWrites :=
    t.lastWrites, storeState := t.storeState, writeFates := t.writeFates, writeFailed := t.writeFailed, luminaires
    := t.luminaires, groups := t.groups, schedule := t.schedule, trigger := t.trigger }

/-- Only what an evaluation of the window touches differs. -/
def OnlyCalendar (s t : State) : Prop :=
  t = { s with
    outbox := t.outbox, noticesLost := t.noticesLost, attn := t.attn, image := t.image, lastWrites :=
    t.lastWrites, storeState := t.storeState, writeFates := t.writeFates, writeFailed := t.writeFailed, windowOpen
    := t.windowOpen, mode := t.mode, staged := t.staged, trigger := t.trigger }

/-- Only what a slot, its luminaire and its campaign touch differs. -/
def OnlyTests (s t : State) : Prop :=
  t = { s with
    outbox := t.outbox, noticesLost := t.noticesLost, attn := t.attn, image := t.image, lastWrites :=
    t.lastWrites, storeState := t.storeState, writeFates := t.writeFates, writeFailed := t.writeFailed, luminaires
    := t.luminaires, groups := t.groups, schedule := t.schedule, trigger := t.trigger, channels := t.channels
    slots := t.slots, branches := t.branches, results := t.results, resultCounter
    := t.resultCounter }

/-- Only what the end of a CHECK touches differs. -/
def OnlyChecks (s t : State) : Prop :=
  t = { s with
    outbox := t.outbox, noticesLost := t.noticesLost, attn := t.attn, image := t.image, lastWrites :=
    t.lastWrites, storeState := t.storeState, writeFates := t.writeFates, writeFailed := t.writeFailed, luminaires
    := t.luminaires, groups := t.groups, schedule := t.schedule, trigger := t.trigger, checkPending := t.checkPending }

/-- Only what the end of an exchange touches differs. -/
def OnlyEnds (s t : State) : Prop :=
  t = { s with
    outbox := t.outbox, noticesLost := t.noticesLost, attn := t.attn, image := t.image, lastWrites :=
    t.lastWrites, storeState := t.storeState, writeFates := t.writeFates, writeFailed := t.writeFailed, luminaires
    := t.luminaires, groups := t.groups, schedule := t.schedule, trigger := t.trigger, channels := t.channels
    slots := t.slots, branches := t.branches, checkPending := t.checkPending, results := t.results, resultCounter
    := t.resultCounter, service := t.service, sending := t.sending, ready := t.ready }

/-- Only what a placement pass touches differs. -/
def OnlyPass (s t : State) : Prop :=
  t = { s with
    outbox := t.outbox, noticesLost := t.noticesLost, attn := t.attn, image := t.image, lastWrites :=
    t.lastWrites, storeState := t.storeState, writeFates := t.writeFates, writeFailed := t.writeFailed, luminaires
    := t.luminaires, groups := t.groups, schedule := t.schedule, trigger := t.trigger, channels := t.channels
    slots := t.slots, branches := t.branches, checkPending := t.checkPending, lastServed := t.lastServed }

theorem OnlyNotices.rfl' (s : State) : OnlyNotices s s := rfl

theorem OnlyNotices.trans {s t u : State} (h1 : OnlyNotices s t) (h2 : OnlyNotices t u) : OnlyNotices s u := by
  unfold OnlyNotices at *
  rw [h2, h1]

theorem OnlyWrites.rfl' (s : State) : OnlyWrites s s := rfl

theorem OnlyWrites.trans {s t u : State} (h1 : OnlyWrites s t) (h2 : OnlyWrites t u) : OnlyWrites s u := by
  unfold OnlyWrites at *
  rw [h2, h1]

theorem OnlyCampaign.rfl' (s : State) : OnlyCampaign s s := rfl

theorem OnlyCampaign.trans {s t u : State} (h1 : OnlyCampaign s t) (h2 : OnlyCampaign t u) : OnlyCampaign s u := by
  unfold OnlyCampaign at *
  rw [h2, h1]

theorem OnlyBranches.rfl' (s : State) : OnlyBranches s s := rfl

theorem OnlyBranches.trans {s t u : State} (h1 : OnlyBranches s t) (h2 : OnlyBranches t u) : OnlyBranches s u := by
  unfold OnlyBranches at *
  rw [h2, h1]

theorem OnlyRecords.rfl' (s : State) : OnlyRecords s s := rfl

theorem OnlyRecords.trans {s t u : State} (h1 : OnlyRecords s t) (h2 : OnlyRecords t u) : OnlyRecords s u := by
  unfold OnlyRecords at *
  rw [h2, h1]

theorem OnlyCalendar.rfl' (s : State) : OnlyCalendar s s := rfl

theorem OnlyCalendar.trans {s t u : State} (h1 : OnlyCalendar s t) (h2 : OnlyCalendar t u) : OnlyCalendar s u := by
  unfold OnlyCalendar at *
  rw [h2, h1]

theorem OnlyTests.rfl' (s : State) : OnlyTests s s := rfl

theorem OnlyTests.trans {s t u : State} (h1 : OnlyTests s t) (h2 : OnlyTests t u) : OnlyTests s u := by
  unfold OnlyTests at *
  rw [h2, h1]

theorem OnlyEnds.rfl' (s : State) : OnlyEnds s s := rfl

theorem OnlyEnds.trans {s t u : State} (h1 : OnlyEnds s t) (h2 : OnlyEnds t u) : OnlyEnds s u := by
  unfold OnlyEnds at *
  rw [h2, h1]

theorem OnlyPass.rfl' (s : State) : OnlyPass s s := rfl

theorem OnlyPass.trans {s t u : State} (h1 : OnlyPass s t) (h2 : OnlyPass t u) : OnlyPass s u := by
  unfold OnlyPass at *
  rw [h2, h1]

theorem OnlyNotices.writes {s t : State} (h : OnlyNotices s t) : OnlyWrites s t := by
  unfold OnlyNotices at h
  unfold OnlyWrites
  rw [h]

theorem OnlyNotices.campaign {s t : State} (h : OnlyNotices s t) : OnlyCampaign s t := by
  unfold OnlyNotices at h
  unfold OnlyCampaign
  rw [h]

theorem OnlyNotices.records {s t : State} (h : OnlyNotices s t) : OnlyRecords s t := by
  unfold OnlyNotices at h
  unfold OnlyRecords
  rw [h]

theorem OnlyNotices.calendar {s t : State} (h : OnlyNotices s t) : OnlyCalendar s t := by
  unfold OnlyNotices at h
  unfold OnlyCalendar
  rw [h]

theorem OnlyNotices.tests {s t : State} (h : OnlyNotices s t) : OnlyTests s t := by
  unfold OnlyNotices at h
  unfold OnlyTests
  rw [h]

theorem OnlyNotices.ends {s t : State} (h : OnlyNotices s t) : OnlyEnds s t := by
  unfold OnlyNotices at h
  unfold OnlyEnds
  rw [h]

theorem OnlyNotices.pass {s t : State} (h : OnlyNotices s t) : OnlyPass s t := by
  unfold OnlyNotices at h
  unfold OnlyPass
  rw [h]

theorem OnlyWrites.records {s t : State} (h : OnlyWrites s t) : OnlyRecords s t := by
  unfold OnlyWrites at h
  unfold OnlyRecords
  rw [h]

theorem OnlyWrites.calendar {s t : State} (h : OnlyWrites s t) : OnlyCalendar s t := by
  unfold OnlyWrites at h
  unfold OnlyCalendar
  rw [h]

theorem OnlyWrites.tests {s t : State} (h : OnlyWrites s t) : OnlyTests s t := by
  unfold OnlyWrites at h
  unfold OnlyTests
  rw [h]

theorem OnlyWrites.ends {s t : State} (h : OnlyWrites s t) : OnlyEnds s t := by
  unfold OnlyWrites at h
  unfold OnlyEnds
  rw [h]

theorem OnlyWrites.pass {s t : State} (h : OnlyWrites s t) : OnlyPass s t := by
  unfold OnlyWrites at h
  unfold OnlyPass
  rw [h]

theorem OnlyCampaign.tests {s t : State} (h : OnlyCampaign s t) : OnlyTests s t := by
  unfold OnlyCampaign at h
  unfold OnlyTests
  rw [h]

theorem OnlyCampaign.ends {s t : State} (h : OnlyCampaign s t) : OnlyEnds s t := by
  unfold OnlyCampaign at h
  unfold OnlyEnds
  rw [h]

theorem OnlyCampaign.pass {s t : State} (h : OnlyCampaign s t) : OnlyPass s t := by
  unfold OnlyCampaign at h
  unfold OnlyPass
  rw [h]

theorem OnlyBranches.tests {s t : State} (h : OnlyBranches s t) : OnlyTests s t := by
  unfold OnlyBranches at h
  unfold OnlyTests
  rw [h]

theorem OnlyBranches.ends {s t : State} (h : OnlyBranches s t) : OnlyEnds s t := by
  unfold OnlyBranches at h
  unfold OnlyEnds
  rw [h]

theorem OnlyBranches.pass {s t : State} (h : OnlyBranches s t) : OnlyPass s t := by
  unfold OnlyBranches at h
  unfold OnlyPass
  rw [h]

theorem OnlyRecords.tests {s t : State} (h : OnlyRecords s t) : OnlyTests s t := by
  unfold OnlyRecords at h
  unfold OnlyTests
  rw [h]

theorem OnlyRecords.ends {s t : State} (h : OnlyRecords s t) : OnlyEnds s t := by
  unfold OnlyRecords at h
  unfold OnlyEnds
  rw [h]

theorem OnlyRecords.pass {s t : State} (h : OnlyRecords s t) : OnlyPass s t := by
  unfold OnlyRecords at h
  unfold OnlyPass
  rw [h]

theorem OnlyChecks.trans {s t u : State} (h1 : OnlyChecks s t) (h2 : OnlyChecks t u) : OnlyChecks s u := by
  unfold OnlyChecks at h1 h2 ⊢
  rw [h2, h1]

theorem OnlyRecords.checks {s t : State} (h : OnlyRecords s t) : OnlyChecks s t := by
  unfold OnlyRecords at h
  unfold OnlyChecks
  rw [h]

theorem OnlyChecks.ends {s t : State} (h : OnlyChecks s t) : OnlyEnds s t := by
  unfold OnlyChecks at h
  unfold OnlyEnds
  rw [h]

theorem OnlyTests.ends {s t : State} (h : OnlyTests s t) : OnlyEnds s t := by
  unfold OnlyTests at h
  unfold OnlyEnds
  rw [h]
/-! ### Notices, writes, triggers -/

theorem raise_only (b : NoticeBody) (s : State) : OnlyNotices s (raise b s) := by
  unfold raise OnlyNotices followAttn
  split <;> [rfl; (split <;> rfl)]

theorem failWrite_only (i : Item) (s : State) : OnlyWrites s (failWrite i s) :=
  OnlyWrites.trans (t := { s with writeFates := s.writeFates.tail, storeState := .fault, writeFailed := true }) rfl
    (raise_only _ _).writes

theorem landWrite_only (i : Item) (s : State) : OnlyWrites s (landWrite i s) := rfl

theorem writeItem_only (i : Item) (s : State) : OnlyWrites s (writeItem i s) := by
  unfold writeItem
  split
  · exact failWrite_only i s
  · exact landWrite_only i s

theorem triggerIf_records (b : Bool) (s : State) : OnlyRecords s (triggerIf b s) := rfl

theorem triggerIf_calendar (b : Bool) (s : State) : OnlyCalendar s (triggerIf b s) := rfl

theorem triggerIf_campaign (b : Bool) (s : State) : OnlyCampaign s (triggerIf b s) := rfl

/-! ### Records -/

theorem relist_only (n : Nat) (old new : Option Luminaire) (s : State) : OnlyRecords s (relist n old new s) := by
  unfold relist
  split
  · rfl
  · split <;> rfl

theorem putLum_only (n : Nat) (new : Option Luminaire) (s : State) : OnlyRecords s (putLum n new s) :=
  OnlyRecords.trans (t := regroup n (s.luminaires.get n) new { s with luminaires := s.luminaires.set n new }) rfl
    ((relist_only n (s.luminaires.get n) new _).trans (triggerIf_records _ _))

theorem modLum_only (n : Nat) (f : Luminaire → Luminaire) (s : State) : OnlyRecords s (modLum n f s) := by
  unfold modLum
  split
  · exact putLum_only _ _ _
  · rfl

theorem checkOverdue_only (n : Nat) (s : State) : OnlyRecords s (checkOverdue n s) := by
  unfold checkOverdue
  split
  · split
    · exact ((raise_only _ _).records.trans (putLum_only _ _ _)).trans (writeItem_only _ _).records
    · rfl
  · rfl

theorem setLatch_only (n : Nat) (k : Latch) (s : State) : OnlyRecords s (setLatch n k s) := by
  unfold setLatch
  split
  · split
    · rfl
    · exact (putLum_only _ _ _).trans (raise_only _ _).records
  · rfl

theorem block_only (n : Nat) (r : BlockedBy) (s : State) : OnlyRecords s (block n r s) := modLum_only _ _ _

theorem storeRecord_only (n : Nat) (l : Luminaire) (s : State) : OnlyRecords s (storeRecord n l s) :=
  (putLum_only _ _ _).trans (writeItem_only _ _).records

/-! ### Branch queues -/

theorem modBranch_only (b : Fin 8) (f : Branch → Branch) (s : State) : OnlyBranches s (modBranch b f s) := rfl

theorem enqueue_only (b : Fin 8) (e : Exchange) (s : State) : OnlyBranches s (enqueue b e s) := by
  unfold enqueue
  split <;> rfl

theorem offer_only (b : Fin 8) (e : Exchange) (s : State) : OnlyBranches s (offer b e s) := by
  unfold offer
  split
  · exact enqueue_only _ _ _
  · rfl

theorem unqueue_only (b : Fin 8) (p : Exchange → Bool) (s : State) : OnlyBranches s (unqueue b p s) := rfl

/-! ### The calendar -/

theorem windowEvent_only (s : State) : OnlyCalendar s (windowEvent s) := by
  unfold windowEvent
  split
  · rfl
  · split
    · exact OnlyCalendar.trans (t := { s with windowOpen := true }) rfl
        ((raise_only _ _).calendar.trans (triggerIf_calendar _ _))
    · exact OnlyCalendar.trans (t := { s with windowOpen := false }) rfl (raise_only _ _).calendar

theorem modeTakesEffect_only (m : Mode) (w : Bool) (s : State) : OnlyCalendar s (modeTakesEffect m w s) := by
  unfold modeTakesEffect
  split
  · rfl
  · exact OnlyCalendar.trans (t := { s with mode := m }) rfl
      ((((writeItem_only _ _).calendar.trans (raise_only _ _).calendar).trans (triggerIf_calendar _ _)).trans
        (windowEvent_only _))

theorem evaluateWindow_only (s : State) : OnlyCalendar s (evaluateWindow s) := by
  unfold evaluateWindow
  simp only
  split
  · exact (windowEvent_only s).trans
      (OnlyCalendar.trans (t := { windowEvent s with staged := none }) rfl (modeTakesEffect_only _ _ _))
  · exact windowEvent_only s

/-! ### Stored instants -/

theorem holdOffArrives_only (n : Nat) (s : State) : OnlyRecords s (holdOffArrives n s) := by
  unfold holdOffArrives
  split
  · split
    · exact ((putLum_only _ _ _).trans (writeItem_only _ _).records).trans (triggerIf_records _ _)
    · rfl
  · rfl

theorem rechargeArrives_only (n : Nat) (s : State) : OnlyRecords s (rechargeArrives n s) := by
  unfold rechargeArrives
  split
  · split
    · exact (((putLum_only _ _ _).trans (writeItem_only _ _).records).trans (triggerIf_records _ _)).trans
        (checkOverdue_only _ _)
    · rfl
  · rfl

theorem dueArrives_only (n : Nat) (s : State) : OnlyRecords s (dueArrives n s) := by
  unfold dueArrives
  split
  · split
    · exact putLum_only _ _ _
    · rfl
  · rfl

theorem instantsArrive_only (n : Nat) (s : State) : OnlyRecords s (instantsArrive n s) :=
  (((holdOffArrives_only n s).trans (rechargeArrives_only _ _)).trans (dueArrives_only _ _)).trans
    (checkOverdue_only _ _)

/-- A frame that every step of a fold keeps, the fold keeps. -/
theorem foldl_only {α : Type} {F : State → State → Prop} (hr : ∀ s, F s s)
    (ht : ∀ {s t u}, F s t → F t u → F s u) {f : State → α → State} (hf : ∀ s a, F s (f s a)) (l : List α) (s : State) :
    F s (l.foldl f s) := by
  induction l generalizing s with
  | nil => exact hr s
  | cons a l ih => exact ht (hf s a) (ih (f s a))

theorem allInstantsArrive_only (s : State) : OnlyRecords s (allInstantsArrive s) :=
  foldl_only OnlyRecords.rfl' OnlyRecords.trans (fun s n => instantsArrive_only n s) _ s

theorem resolvePending_only (n : Nat) (s : State) : OnlyRecords s (resolvePending n s) := by
  unfold resolvePending
  split
  · split
    · exact (putLum_only _ _ _).trans (writeItem_only _ _).records
    · rfl
  · rfl

theorem resolveAllPending_only (s : State) : OnlyRecords s (resolveAllPending s) :=
  foldl_only OnlyRecords.rfl' OnlyRecords.trans (fun s n => resolvePending_only n s) _ s

/-! ### Campaigns -/

theorem modChan_only (c : Fin 4) (f : Channel → Channel) (s : State) : OnlyCampaign s (modChan c f s) := rfl

theorem checkWatch_only (c : Fin 4) (s : State) : OnlyCampaign s (checkWatch c s) := by
  unfold checkWatch
  exact (modChan_only _ _ _).trans
    (foldl_only OnlyCampaign.rfl' OnlyCampaign.trans (fun s e => (raise_only _ s).campaign) _ _)

theorem campaignDone_only (c : Fin 4) (s : State) : OnlyCampaign s (campaignDone c s) := by
  have h := (modChan_only c (fun ch => { ch with state := .done }) s).trans
    (raise_only (.done c s.channels[c].run s.channels[c].skipped s.channels[c].unstarted) _).campaign
  unfold campaignDone
  simp only
  split
  · exact (((h.trans (modChan_only _ _ _)).trans (raise_only _ _).campaign)).trans (triggerIf_campaign _ _)
  · exact h

theorem drainedDone_only (c : Fin 4) (s : State) : OnlyCampaign s (drainedDone c s) := by
  unfold drainedDone
  simp only
  split
  · exact campaignDone_only _ _
  · rfl

theorem endOfList_only (c : Fin 4) (last cursor : Nat) (s : State) : OnlyCampaign s (endOfList c last cursor s) :=
  ((modChan_only _ _ _).trans (checkWatch_only _ _)).trans (drainedDone_only _ _)

theorem finishEntry_only (c : Fin 4) (s : State) : OnlyCampaign s (finishEntry c s) := by
  unfold finishEntry
  simp only
  split
  · exact endOfList_only _ _ _ _
  · split
    · exact (modChan_only _ _ _).trans (checkWatch_only _ _)
    · split <;> exact modChan_only _ _ _

theorem halt_only (c : Fin 4) (r : HaltReason) (s : State) : OnlyCampaign s (halt c r s) :=
  (modChan_only _ _ _).trans (raise_only _ _).campaign

theorem reachMember_only (c : Fin 4) (s : State) : OnlyCampaign s (reachMember c s) := by
  unfold reachMember
  simp only
  split
  · exact (modChan_only _ _ _).trans (finishEntry_only _ _)
  · exact modChan_only _ _ _

theorem examineTest_only (c : Fin 4) (n : Nat) (s : State) : OnlyCampaign s (examineTest c n s) := by
  unfold examineTest
  split
  · exact halt_only _ _ _
  · split
    · exact halt_only _ _ _
    · rfl

theorem markTakenUp_only (c : Fin 4) (s : State) : OnlyCampaign s (markTakenUp c s) := by
  unfold markTakenUp
  simp only
  split
  · exact (modChan_only _ _ _).trans (raise_only _ _).campaign
  · exact modChan_only _ _ _

theorem takeUpOne_only (c : Fin 4) (s : State) : OnlyCampaign s (takeUpOne c s) := by
  unfold takeUpOne
  simp only
  split
  · exact endOfList_only _ _ _ _
  · refine (markTakenUp_only c s).trans ?_
    split
    · exact examineTest_only _ _ _
    · split
      · exact halt_only _ _ _
      · exact (modChan_only _ _ _).trans (reachMember_only _ _)
    · exact (raise_only _ _).campaign.trans (finishEntry_only _ _)

theorem takeUpAll_only (k : Nat) (c : Fin 4) (s : State) : OnlyCampaign s (takeUpAll k c s) := by
  induction k generalizing s with
  | zero => rfl
  | succ k ih =>
    unfold takeUpAll
    split
    · exact (takeUpOne_only c s).trans (ih _)
    · rfl

theorem takeUp_only (c : Fin 4) (s : State) : OnlyCampaign s (takeUp c s) := takeUpAll_only _ _ _

theorem reexamine_only (c : Fin 4) (s : State) : OnlyCampaign s (reexamine c s) := by
  unfold reexamine
  simp only
  split
  · split
    · exact examineTest_only _ _ _
    · exact (reachMember_only _ _).trans (takeUp_only _ _)
    · rfl
  · rfl

theorem present_only (c : Fin 4) (s : State) : OnlyCampaign s (present c s).1 := reexamine_only c s

theorem campaignReserved_only (c : Fin 4) (k : Nat) (s : State) : OnlyCampaign s (campaignReserved c k s) := by
  unfold campaignReserved
  simp only
  refine (modChan_only c (fun ch => { ch with inFlight := ch.inFlight ++ [(k, s.channels[c].cursor)] }) s).trans ?_
  split
  · exact ((modChan_only _ _ _).trans (reachMember_only _ _)).trans (takeUp_only _ _)
  · exact (finishEntry_only _ _).trans (takeUp_only _ _)

theorem endHold_only (c : Fin 4) (s : State) : OnlyCampaign s (endHold c s) := by
  unfold endHold
  simp only
  split
  · rfl
  · split
    · rfl
    · split
      · exact (((modChan_only _ _ _).trans (raise_only _ _).campaign).trans (triggerIf_campaign _ _)).trans (takeUp_only _ _)
      · exact modChan_only _ _ _

theorem campaignReleased_only (c : Fin 4) (k : Nat) (b : Bool) (s : State) :
    OnlyCampaign s (campaignReleased c k b s) := by
  unfold campaignReleased
  split
  · exact ((((modChan_only _ _ _).trans (endHold_only _ _)).trans (checkWatch_only _ _)).trans (drainedDone_only _ _)).trans
      (takeUp_only _ _)
  · rfl

theorem tellReleased_only (o : Origin) (k : Nat) (b : Bool) (s : State) : OnlyCampaign s (tellReleased o k b s) := by
  unfold tellReleased
  split
  · exact campaignReleased_only _ _ _ _
  · rfl

/-! ### Slots -/

theorem queueStop_only (k : Nat) (sl : Slot) (s : State) : OnlyBranches s (queueStop k sl s) := by
  unfold queueStop
  split
  · exact enqueue_only _ _ _
  · rfl

theorem slots_tests (t : Table Slot) (s : State) : OnlyTests s { s with slots := t } := rfl

theorem close_only (k : Nat) (sl : Slot) (s : State) : OnlyTests s (close k sl s) :=
  (((slots_tests _ s).trans (unqueue_only _ _ _).tests).trans (modLum_only _ _ _).tests).trans (queueStop_only _ _ _).tests

theorem recallSlot_only (r : RecallReason) (k : Nat) (s : State) : OnlyTests s (recallSlot r k s) := by
  unfold recallSlot
  split
  · rfl
  · split
    · exact (modLum_only _ _ _).tests
    · exact close_only _ _ _
    · rfl

theorem recallAll_only (r : RecallReason) (ks : List Nat) (s : State) : OnlyTests s (recallAll r ks s) :=
  foldl_only OnlyTests.rfl' OnlyTests.trans (fun s k => recallSlot_only r k s) _ s

theorem freeSlot_only (k : Nat) (sl : Slot) (s : State) : OnlyTests s (freeSlot k sl s) :=
  (slots_tests _ s).trans (unqueue_only _ _ _).tests

theorem releaseWithout_only (k : Nat) (s : State) : OnlyTests s (releaseWithout k s) := by
  unfold releaseWithout
  split
  · rfl
  · exact (((((freeSlot_only _ _ s).trans (modLum_only _ _ _).tests).trans (writeItem_only _ _).tests).trans
      (checkOverdue_only _ _).tests).trans (tellReleased_only _ _ _ _).tests).trans (triggerIf_records _ _).tests

theorem releaseHeldOff_only (k : Nat) (s : State) : OnlyTests s (releaseHeldOff k s) := by
  unfold releaseHeldOff
  split
  · rfl
  · exact (modLum_only _ _ _).tests.trans (releaseWithout_only _ _)

theorem addResult_only (r : ResultRecord) (s : State) : OnlyTests s (addResult r s) :=
  OnlyTests.trans (t := followAttn { s with results := s.results ++ [r], resultCounter := (s.resultCounter + 1) % 65536 })
    rfl (writeItem_only _ _).tests

theorem raiseOutcomeLatch_only (n : Nat) (l : Luminaire) (o : TestOutcome) (s : State) :
    OnlyNotices s (raiseOutcomeLatch n l o s) := by
  unfold raiseOutcomeLatch
  split
  · split
    · rfl
    · exact raise_only _ _
  · rfl

theorem releaseResult_only (k : Nat) (s : State) : OnlyTests s (releaseResult k s) := by
  unfold releaseResult
  split
  · rfl
  · simp only
    split
    · exact freeSlot_only _ _ _
    · exact (((((((addResult_only _ s).trans (putLum_only _ _ _).tests).trans (freeSlot_only _ _ _)).trans
        (writeItem_only _ _).tests).trans (raiseOutcomeLatch_only _ _ _ _).tests).trans (checkOverdue_only _ _).tests).trans
        (tellReleased_only _ _ _ _).tests).trans (triggerIf_records _ _).tests

theorem stray_only (n : Nat) (r : NodeRecord) (s : State) : OnlyTests s (stray n r s) := by
  unfold stray
  split
  · rfl
  · rename_i l _
    simp only
    have h1 : OnlyTests s (if strayStopWaits s n then s else offer l.branch (stopExchange l.node n .stray false) s) := by
      split
      · rfl
      · exact (offer_only _ _ _).tests
    have h2 := ((h1.trans (putLum_only n (some (l.toRecharging s)) _).tests).trans (writeItem_only (.luminaire n) _).tests).trans
      (raise_only (.strayTest n l.branch l.node l.state r.elapsed) _).tests
    split
    · exact h2
    · exact h2.trans (checkOverdue_only _ _).tests

theorem startAccepted_only (k : Nat) (sl : Slot) (r : NodeRecord) (s : State) : OnlyTests s (startAccepted k sl r s) := by
  unfold startAccepted
  simp only
  split
  · rfl
  · have h := fun t l => ((slots_tests t s).trans (putLum_only sl.luminaire l _).tests).trans
      (writeItem_only (.luminaire sl.luminaire) _).tests
    split
    · exact (h _ _).trans (recallSlot_only _ _ _)
    · split
      · exact (h _ _).trans (recallSlot_only _ _ _)
      · exact h _ _

theorem startAnswered_only (k : Nat) (sl : Slot) (r : NodeRecord) (c : StartCode) (s : State) :
    OnlyTests s (startAnswered k sl r c s) := by
  unfold startAnswered
  split
  · exact startAccepted_only _ _ _ _
  · exact (releaseWithout_only _ _).trans (stray_only _ _ _)
  · exact releaseHeldOff_only _ _

theorem readAnswered_only (k : Nat) (sl : Slot) (r : NodeRecord) (s : State) : OnlyTests s (readAnswered k sl r s) := by
  unfold readAnswered
  simp only
  split
  · exact (slots_tests _ s).trans (releaseResult_only _ _)
  · split
    · exact close_only _ _ _
    · split
      · exact (slots_tests _ s).trans (recallSlot_only _ _ _)
      · rfl

theorem slotAnswered_only (k n : Nat) (kind : ExchangeKind) (r : NodeRecord) (c : Option StartCode) (s : State) :
    OnlyTests s (slotAnswered k n kind r c s) := by
  unfold slotAnswered
  split
  · rfl
  · split
    · rfl
    · split
      · exact startAnswered_only _ _ _ _ _
      · exact readAnswered_only _ _ _ _
      · rfl
      · exact (slots_tests _ s).trans (releaseResult_only _ _)
      · rfl

theorem slotUnanswered_only (k n : Nat) (kind : ExchangeKind) (s : State) : OnlyTests s (slotUnanswered k n kind s) := by
  unfold slotUnanswered
  split
  · rfl
  · split
    · rfl
    · split
      · exact releaseHeldOff_only _ _
      · unfold readMissed
        simp only
        split
        · rfl
        · exact (slots_tests _ s).trans (releaseResult_only _ _)
      · unfold stopMissed
        split
        · rfl
        · exact releaseResult_only _ _
      · rfl

theorem supervisionExpires_only (k : Nat) (s : State) : OnlyTests s (supervisionExpires k s) := by
  unfold supervisionExpires
  split
  · rfl
  · split
    · rfl
    · split
      · simp only
        split
        · exact (slots_tests _ s).trans (offer_only _ _ _).tests
        · rfl
      · exact (slots_tests _ s).trans (queueStop_only _ _ _).tests
      · rfl

theorem endExpires_only (k : Nat) (s : State) : OnlyTests s (endExpires k s) := by
  unfold endExpires
  split
  · rfl
  · split
    · exact close_only _ _ _
    · rfl

/-! ### The ends of exchanges -/

theorem latchFault_only (n : Nat) (k : Latch) (b : Bool) (s : State) : OnlyRecords s (latchFault n k b s) := by
  unfold latchFault
  split
  · exact (setLatch_only _ _ _).trans (writeItem_only _ _).records
  · rfl

theorem takeRecord_only (n : Nat) (r : NodeRecord) (c : Option StartCode) (s : State) :
    OnlyTests s (takeRecord n r c s) := by
  have h := ((((modLum_only n (fun l => l.reported s r c) s).trans
    (triggerIf_records ((s.luminaires.get n).any fun l => l.state == .due) _)).trans
    (latchFault_only n .charger (!r.chargerOk) _)).trans (latchFault_only n .mainsLost (!r.mains && !r.testing) _)).tests
  unfold takeRecord
  simp only
  split
  · exact h.trans (stray_only _ _ _)
  · exact h

theorem tableAnswered_only (b : Fin 8) (e : Exchange) (r : Option (NodeRecord × Option StartCode)) (s : State) :
    OnlyTests s (tableAnswered b e r s) := by
  unfold tableAnswered
  split
  · rfl
  · split
    · exact (modLum_only _ _ _).tests.trans (takeRecord_only _ _ _ _)
    · exact (modLum_only _ _ _).tests

theorem tableUnanswered_only (b : Fin 8) (e : Exchange) (s : State) : OnlyRecords s (tableUnanswered b e s) := by
  unfold tableUnanswered
  split
  · rfl
  · exact (modLum_only _ _ _).trans (latchFault_only _ _ _ _)

theorem endService_only (f : Bool) (body : List Byte) (s : State) : OnlyEnds s (endService f body s) := by
  unfold endService
  split
  · unfold reply
    split <;> rfl
  · rfl

theorem checkEnds_only (e : Exchange) (s : State) : OnlyChecks s (checkEnds e s) := by
  unfold checkEnds
  split <;> rfl

theorem checkUnanswered_only (e : Exchange) (s : State) : OnlyChecks s (checkUnanswered e s) := by
  unfold checkUnanswered
  split
  · exact ((checkEnds_only _ _).trans (modLum_only _ _ _).checks).trans (writeItem_only _ _).records.checks
  · exact checkEnds_only _ _

theorem issuerAnswered_only (e : Exchange) (n : Nat) (f : NodeFrame) (s : State) : OnlyEnds s (issuerAnswered e n f s) := by
  unfold issuerAnswered
  split
  · exact (slotAnswered_only _ _ _ _ _ _).ends
  · rfl
  · exact (checkEnds_only _ _).ends
  · rfl
  · rfl
  · exact endService_only _ _ _

theorem issuerUnanswered_only (e : Exchange) (s : State) : OnlyEnds s (issuerUnanswered e s) := by
  unfold issuerUnanswered
  split
  · exact (slotUnanswered_only _ _ _ _).ends
  · exact (checkUnanswered_only _ _).ends
  · rfl
  · rfl
  · exact endService_only _ _ _

theorem endAnswered_only (b : Fin 8) (f : InFlight) (a : NodeFrame) (s : State) : OnlyEnds s (endAnswered b f a s) :=
  ((modBranch_only _ _ _).ends.trans (tableAnswered_only _ _ _ _).ends).trans (issuerAnswered_only _ _ _ _)

theorem endUnanswered_only (b : Fin 8) (f : InFlight) (s : State) : OnlyEnds s (endUnanswered b f s) :=
  ((modBranch_only _ _ _).ends.trans (tableUnanswered_only _ _ _).ends).trans (issuerUnanswered_only _ _)

theorem sendFails_only (b : Fin 8) (f : InFlight) (s : State) : OnlyEnds s (sendFails b f s) := by
  unfold sendFails
  split
  · exact (modBranch_only _ _ _).ends
  · exact endUnanswered_only _ _ _

theorem sendNext_only (b : Fin 8) (s : State) : OnlyBranches s (sendNext b s) := by
  unfold sendNext
  simp only
  split
  · split
    · exact modBranch_only _ _ _
    · rfl
  · rfl

theorem answerTimesOut_only (b : Fin 8) (s : State) : OnlyEnds s (answerTimesOut b s) := by
  unfold answerTimesOut
  split
  · split
    · rfl
    · exact sendFails_only _ _ _
  · rfl

theorem answerBreaksOff_only (b : Fin 8) (s : State) : OnlyEnds s (answerBreaksOff b s) := by
  unfold answerBreaksOff
  split
  · exact sendFails_only _ _ _
  · rfl

theorem answerBegins_only (b : Fin 8) (s : State) : OnlyBranches s (answerBegins b s) := rfl

theorem answerArrives_only (b : Fin 8) (bytes : List Byte) (s : State) : OnlyEnds s (answerArrives b bytes s) := by
  unfold answerArrives
  split
  · rfl
  · split
    · split
      · exact endAnswered_only _ _ _ _
      · exact sendFails_only _ _ _
    · exact sendFails_only _ _ _

theorem issuerRemoved_only (c : Byte) (e : Exchange) (s : State) : OnlyEnds s (issuerRemoved c e s) := by
  unfold issuerRemoved
  split
  · rfl
  · exact endService_only _ _ _
  · rfl

theorem flush_only (b : Fin 8) (s : State) : OnlyEnds s (flush b s) := by
  unfold flush
  exact (modBranch_only _ _ _).ends.trans
    (foldl_only OnlyEnds.rfl' OnlyEnds.trans (fun s e => issuerRemoved_only _ e s) _ _)

theorem releaseLost_only (k : Nat) (s : State) : OnlyTests s (releaseLost k s) := by
  unfold releaseLost
  split
  · rfl
  · split
    · exact releaseHeldOff_only _ _
    · exact releaseResult_only _ _

theorem leaveReady_only (b : Fin 8) (st : BranchState) (s : State) : OnlyEnds s (leaveReady b st s) := by
  unfold leaveReady
  exact ((modBranch_only _ _ _).ends.trans (flush_only _ _)).trans
    (foldl_only OnlyEnds.rfl' OnlyEnds.trans (fun s k => (releaseLost_only k s).ends) _ _)

theorem chatterHappens_only (b : Fin 8) (s : State) : OnlyEnds s (chatterHappens b s) := by
  unfold chatterHappens
  simp only
  split
  · have h1 := (modBranch_only b (fun br => { br with chatter := saturate (s.branches[b].chatter + 1) }) s).ends
    have h2 : OnlyEnds s (if s.branches[b].chatter + 1 = 8 then
        raise (.chatter b (saturate (s.branches[b].chatter + 1)) s.params.autoDisable[b])
          (modBranch b (fun br => { br with chatter := saturate (s.branches[b].chatter + 1) }) s)
        else modBranch b (fun br => { br with chatter := saturate (s.branches[b].chatter + 1) }) s) := by
      split
      · exact h1.trans (raise_only _ _).ends
      · exact h1
    split
    · exact h2.trans (leaveReady_only _ _ _)
    · exact h2
  · rfl

/-! ### The placement pass -/

theorem queueCheck_only (n : Nat) (l : Luminaire) (s : State) : OnlyPass s (queueCheck n l s) :=
  (OnlyPass.trans (t := { s with checkPending := s.checkPending ++ [n] }) rfl (enqueue_only _ _ _).pass).trans
    (block_only _ _ _).pass

theorem setLastServed_only (c : Fin 4) (s : State) : OnlyPass s { s with lastServed := c } := rfl

theorem setSlots_only (t : Table Slot) (s : State) : OnlyPass s { s with slots := t } := rfl

theorem tellReserved_only (f : Option (Fin 4)) (k : Nat) (s : State) : OnlyPass s (tellReserved f k s) := by
  unfold tellReserved
  split
  · rename_i c
    have h := (campaignReserved_only c k { s with lastServed := c }).pass
    exact (setLastServed_only c s).trans h
  · exact OnlyPass.rfl' s

theorem reserve_only (n : Nat) (l : Luminaire) (f : Option (Fin 4)) (s : State) : OnlyPass s (reserve n l f s) := by
  unfold reserve
  split
  · exact OnlyPass.rfl' s
  · rename_i k _
    refine OnlyPass.trans ?_ (tellReserved_only f k _)
    refine OnlyPass.trans ?_ (writeItem_only (.luminaire n) _).pass
    refine OnlyPass.trans ?_ (putLum_only n _ _).pass
    exact OnlyPass.trans (setSlots_only _ s) (enqueue_only l.branch _ _).pass

theorem consider_only (n : Nat) (f : Option (Fin 4)) (s : State) : OnlyPass s (consider n f s).1 := by
  unfold consider
  split
  · rfl
  · split
    · exact reserve_only _ _ _ _
    · exact queueCheck_only _ _ _
    · rfl
    · exact (block_only _ _ _).pass

theorem blockWaiting_only (n : Nat) (r : BlockedBy) (s : State) : OnlyPass s (blockWaiting n r s) := by
  unfold blockWaiting
  split
  · exact (block_only _ _ _).pass
  · rfl

theorem campaignPart_only (k : Nat) (done : List (Fin 4)) (s : State) : OnlyPass s (campaignPart k done s) := by
  induction k generalizing done s with
  | zero => rfl
  | succ k ih =>
    unfold campaignPart
    split
    · rfl
    · rename_i c _
      have hp := (present_only c s).pass
      simp only
      split
      · exact hp.trans (ih _ _)
      · exact (hp.trans (blockWaiting_only _ _ _)).trans (ih _ _)
      · exact (hp.trans (consider_only _ _ _)).trans (ih _ _)

theorem periodicStep_only (s : State) (n : Nat) : OnlyPass s (periodicStep s n) := by
  unfold periodicStep
  split
  · split
    · exact (block_only _ _ _).pass
    · exact consider_only _ _ _
  · rfl

theorem pass_only (s : State) : OnlyPass s (pass s) :=
  (campaignPart_only _ _ s).trans (foldl_only OnlyPass.rfl' OnlyPass.trans periodicStep_only _ _)

theorem passes_only (k : Nat) (s : State) : OnlyPass s (passes k s) := by
  induction k generalizing s with
  | zero => rfl
  | succ k ih =>
    unfold passes
    split
    · exact ((OnlyPass.trans (t := { s with trigger := false }) rfl (pass_only _)).trans (ih _))
    · rfl

theorem settle_only (s : State) : OnlyPass s (settle s) := (passes_only 6 s).trans rfl

end Sys2Proof.Machine
end

