-- ==== Sys2Proof/Laws/Table.lean ====
section
/-! SUPPORT. What reading, writing and clearing a position of a sparse table do to each other and to the canonical form. -/

namespace Sys2Proof.Machine.Table

variable {α β : Type}

@[simp] theorem get_nil (k : Nat) : Table.get ([] : Table α) k = none := rfl

theorem get_cons (j k : Nat) (a : α) (t : Table α) : Table.get ((j, a) :: t) k = if j = k then some a else t.get k := rfl

@[simp] theorem get_put_self (t : Table α) (k : Nat) (a : α) : (t.put k a).get k = some a := by
  induction t with
  | nil => simp [put, get]
  | cons p t ih =>
    obtain ⟨j, b⟩ := p
    simp only [put]
    split
    · simp [get]
    · split
      · simp [get]
      · rename_i h1 h2
        simp [get, Ne.symm h2, ih]

theorem get_put_other (t : Table α) {k m : Nat} (a : α) (h : m ≠ k) : (t.put k a).get m = t.get m := by
  induction t with
  | nil => simp [put, get, Ne.symm h]
  | cons p t ih =>
    obtain ⟨j, b⟩ := p
    simp only [put]
    split
    · simp [get, Ne.symm h]
    · split
      · rename_i h2
        subst h2
        simp [get, Ne.symm h]
      · simp only [get, ih]

theorem get_put (t : Table α) (k m : Nat) (a : α) : (t.put k a).get m = if m = k then some a else t.get m := by
  split
  · rename_i h
    rw [h, get_put_self]
  · rename_i h
    exact get_put_other t a h

theorem get_drop_other (t : Table α) {k m : Nat} (h : m ≠ k) : (t.drop k).get m = t.get m := by
  induction t with
  | nil => rfl
  | cons p t ih =>
    obtain ⟨j, b⟩ := p
    simp only [drop]
    split
    · rename_i hj
      subst hj
      simp [get, Ne.symm h]
    · simp only [get, ih]

theorem get_set_other (t : Table α) {k m : Nat} (a? : Option α) (h : m ≠ k) : (t.set k a?).get m = t.get m := by
  cases a? with
  | none => exact get_drop_other t h
  | some a => exact get_put_other t a h

@[simp] theorem get_mapValues (t : Table α) (f : Nat → α → β) (k : Nat) :
    (t.mapValues f).get k = (t.get k).map (f k) := by
  induction t with
  | nil => rfl
  | cons p t ih =>
    obtain ⟨j, a⟩ := p
    change (if j = k then some (f j a) else Table.get (mapValues f t) k) = _
    rw [ih, get_cons]
    split
    · rename_i h
      subst h
      rfl
    · rfl

@[simp] theorem keys_mapValues (t : Table α) (f : Nat → α → β) : (t.mapValues f).keys = t.keys := by
  simp [keys, mapValues, Function.comp_def]

theorem mem_of_get {t : Table α} {k : Nat} {a : α} (h : t.get k = some a) : (k, a) ∈ t := by
  induction t with
  | nil => simp at h
  | cons p t ih =>
    obtain ⟨j, b⟩ := p
    rw [get_cons] at h
    split at h
    · rename_i hj
      cases h
      subst hj
      simp
    · exact List.mem_cons_of_mem _ (ih h)

theorem mem_keys_of_get {t : Table α} {k : Nat} {a : α} (h : t.get k = some a) : k ∈ t.keys :=
  List.mem_map.mpr ⟨(k, a), mem_of_get h, rfl⟩

theorem get_none_of_lt {t : Table α} {k : Nat} (h : ∀ j ∈ t.keys, k < j) : t.get k = none := by
  induction t with
  | nil => rfl
  | cons p t ih =>
    obtain ⟨j, b⟩ := p
    have hj : k < j := h j (by simp [keys])
    rw [get_cons, if_neg (Nat.ne_of_gt hj)]
    exact ih fun i hi => h i (by
      simp only [keys, List.map_cons, List.mem_cons]
      exact Or.inr hi)

theorem rising_cons {j : Nat} {b : α} {t : Table α} :
    Rising ((j, b) :: t) ↔ (∀ i ∈ t.keys, j < i) ∧ t.Rising := by
  simp [Rising, keys]

theorem get_of_mem {t : Table α} (hr : t.Rising) {k : Nat} {a : α} (h : (k, a) ∈ t) : t.get k = some a := by
  induction t with
  | nil => simp at h
  | cons p t ih =>
    obtain ⟨j, b⟩ := p
    obtain ⟨h1, h2⟩ := rising_cons.mp hr
    rw [get_cons]
    rcases List.mem_cons.mp h with e | m
    · cases e
      simp
    · have hk : k ∈ Table.keys t := List.mem_map.mpr ⟨(k, a), m, rfl⟩
      rw [if_neg (Nat.ne_of_lt (h1 k hk))]
      exact ih h2 m

theorem get_drop_self {t : Table α} (hr : t.Rising) (k : Nat) : (t.drop k).get k = none := by
  induction t with
  | nil => rfl
  | cons p t ih =>
    obtain ⟨j, b⟩ := p
    obtain ⟨h1, h2⟩ := rising_cons.mp hr
    simp only [drop]
    split
    · rename_i h
      subst h
      exact get_none_of_lt h1
    · rename_i h
      rw [get_cons, if_neg h]
      exact ih h2

theorem get_set_self {t : Table α} (hr : t.Rising) (k : Nat) (a? : Option α) : (t.set k a?).get k = a? := by
  cases a? with
  | none => exact get_drop_self hr k
  | some a => exact get_put_self t k a

theorem mem_keys_put {t : Table α} {k i : Nat} {a : α} (h : i ∈ (t.put k a).keys) : i = k ∨ i ∈ t.keys := by
  induction t with
  | nil => simpa [put, keys] using h
  | cons p t ih =>
    obtain ⟨j, b⟩ := p
    simp only [put] at h
    split at h
    · simpa [keys] using h
    · split at h
      · rename_i h2
        subst h2
        rcases (by simpa [keys] using h : i = k ∨ _) with e | m
        · exact Or.inl e
        · right
          simp only [keys, List.map_cons, List.mem_cons, List.mem_map]
          exact Or.inr (by simpa using m)
      · rcases (by simpa only [keys, List.map_cons, List.mem_cons] using h : i = j ∨ i ∈ Table.keys (Table.put t k a)) with e | m
        · right
          simp [keys, e]
        · rcases ih m with e | m'
          · exact Or.inl e
          · right
            simp only [keys, List.map_cons, List.mem_cons]
            exact Or.inr m'

theorem mem_keys_drop {t : Table α} {k i : Nat} (h : i ∈ (t.drop k).keys) : i ∈ t.keys := by
  induction t with
  | nil => simpa [drop] using h
  | cons p t ih =>
    obtain ⟨j, b⟩ := p
    simp only [drop] at h
    split at h
    · simp only [keys, List.map_cons, List.mem_cons]
      exact Or.inr h
    · rcases (by simpa only [keys, List.map_cons, List.mem_cons] using h : i = j ∨ i ∈ Table.keys (Table.drop t k)) with e | m
      · simp [keys, e]
      · simp only [keys, List.map_cons, List.mem_cons]
        exact Or.inr (ih m)

theorem rising_put {t : Table α} (hr : t.Rising) (k : Nat) (a : α) : (t.put k a).Rising := by
  induction t with
  | nil => simp [put, Rising, keys]
  | cons p t ih =>
    obtain ⟨j, b⟩ := p
    obtain ⟨h1, h2⟩ := rising_cons.mp hr
    simp only [put]
    split
    · rename_i hkj
      refine rising_cons.mpr ⟨?_, hr⟩
      intro i hi
      rcases (by simpa only [keys, List.map_cons, List.mem_cons] using hi : i = j ∨ i ∈ Table.keys t) with e | m
      · exact e ▸ hkj
      · exact Nat.lt_trans hkj (h1 i m)
    · split
      · rename_i h
        subst h
        exact rising_cons.mpr ⟨h1, h2⟩
      · rename_i hlt hne
        refine rising_cons.mpr ⟨?_, ih h2⟩
        intro i hi
        rcases mem_keys_put hi with e | m
        · omega
        · exact h1 i m

theorem rising_drop {t : Table α} (hr : t.Rising) (k : Nat) : (t.drop k).Rising := by
  induction t with
  | nil => exact hr
  | cons p t ih =>
    obtain ⟨j, b⟩ := p
    obtain ⟨h1, h2⟩ := rising_cons.mp hr
    simp only [drop]
    split
    · exact h2
    · exact rising_cons.mpr ⟨fun i hi => h1 i (mem_keys_drop hi), ih h2⟩

theorem rising_set {t : Table α} (hr : t.Rising) (k : Nat) (a? : Option α) : (t.set k a?).Rising := by
  cases a? with
  | none => exact rising_drop hr k
  | some a => exact rising_put hr k a

theorem rising_mapValues {t : Table α} (hr : t.Rising) (f : Nat → α → β) : (t.mapValues f).Rising := by
  simpa [Rising] using hr

/-- Writing a position in use keeps the number of positions in use. -/
theorem length_put_of_get {t : Table α} (hr : t.Rising) {k : Nat} {b : α} (h : t.get k = some b) (a : α) :
    (t.put k a).length = t.length := by
  induction t with
  | nil => simp at h
  | cons p t ih =>
    obtain ⟨j, c⟩ := p
    obtain ⟨h1, h2⟩ := rising_cons.mp hr
    rw [get_cons] at h
    simp only [put]
    split at h
    · rename_i hj
      subst hj
      simp
    · rename_i hj
      have hk := h1 k (mem_keys_of_get h)
      rw [if_neg (by omega), if_neg (Ne.symm hj)]
      simp [ih h2 h]

/-- Writing a position adds at most one. -/
theorem length_put_le (t : Table α) (k : Nat) (a : α) : (t.put k a).length ≤ t.length + 1 := by
  induction t with
  | nil => simp [put]
  | cons p t ih =>
    obtain ⟨j, c⟩ := p
    simp only [put]
    split
    · simp
    · split
      · simp
      · simpa using ih

/-- Clearing a position in use takes one away. -/
theorem length_drop_of_get {t : Table α} {k : Nat} {b : α} (h : t.get k = some b) :
    (t.drop k).length + 1 = t.length := by
  induction t with
  | nil => simp at h
  | cons p t ih =>
    obtain ⟨j, c⟩ := p
    rw [get_cons] at h
    simp only [drop]
    split at h
    · rename_i hj
      simp [hj]
    · rename_i hj
      rw [if_neg hj]
      simp [ih h]

theorem length_drop_le (t : Table α) (k : Nat) : (t.drop k).length ≤ t.length := by
  induction t with
  | nil => simp [drop]
  | cons p t ih =>
    obtain ⟨j, c⟩ := p
    simp only [drop]
    split
    · simp
    · simpa using ih

@[simp] theorem length_mapValues (t : Table α) (f : Nat → α → β) : (t.mapValues f).length = t.length := by
  simp [mapValues]

theorem lowestFree_spec {t : Table α} {n k : Nat} (h : t.lowestFree n = some k) : k < n ∧ t.get k = none := by
  unfold lowestFree at h
  have h1 := List.find?_some h
  have h2 := List.mem_of_find?_eq_some h
  refine ⟨List.mem_range.mp h2, ?_⟩
  simpa [has] using h1

end Sys2Proof.Machine.Table
end

