-- ==== Sys2Proof/Laws/Instants.lean ====
section
/-! SUPPORT. What an operation does to one luminaire record, and what the arrivals of all stored instants leave (R42, R45,
R211): no instant that campus time has reached. -/

namespace Sys2Proof.Machine

/-! ### One luminaire record -/

@[simp] theorem raise_luminaires (b : NoticeBody) (s : State) : (raise b s).luminaires = s.luminaires := by
  rw [show raise b s = _ from raise_only b s]

@[simp] theorem writeItem_luminaires (i : Item) (s : State) : (writeItem i s).luminaires = s.luminaires := by
  rw [show writeItem i s = _ from writeItem_only i s]

theorem relist_luminaires (n : Nat) (old new : Option Luminaire) (s : State) :
    (relist n old new s).luminaires = s.luminaires := by
  unfold relist
  repeat' split
  all_goals rfl

@[simp] theorem putLum_luminaires (n : Nat) (new : Option Luminaire) (s : State) :
    (putLum n new s).luminaires = s.luminaires.set n new := by
  unfold putLum
  rw [triggerIf_luminaires, relist_luminaires]
  rfl

theorem get_putLum (n m : Nat) (l : Luminaire) (s : State) :
    (putLum n (some l) s).luminaires.get m = if m = n then some l else s.luminaires.get m := by
  rw [putLum_luminaires]
  exact Table.get_put _ _ _ _

/-- A change that leaves record `n` as it is changes no record. -/
theorem get_same {t : Table Luminaire} {n m : Nat} {f : Luminaire → Luminaire} (h : ∀ l, t.get n = some l → f l = l) :
    t.get m = if m = n then (t.get n).map f else t.get m := by
  split
  · rename_i hm
    rw [hm]
    cases ht : t.get n with
    | none => rfl
    | some l => rw [Option.map_some, h l ht]
  · rfl

theorem get_modLum (n m : Nat) (f : Luminaire → Luminaire) (s : State) :
    (modLum n f s).luminaires.get m = if m = n then (s.luminaires.get n).map f else s.luminaires.get m := by
  unfold modLum
  split
  · rename_i l h
    rw [get_putLum, h, Option.map_some]
  · rename_i h
    exact get_same fun l hl => by rw [h] at hl; cases hl

/-! ### Arrivals, record by record -/

/-- The record after the arrival of its hold-off until, if that is reached (R64). -/
def holdOffDone (s : State) (l : Luminaire) : Luminaire :=
  if l.holdOff.any (fun t => t ≤ s.campus) then { l with holdOff := none } else l

/-- The record after its overdue threshold, if that is reached (R63). -/
def overdueDone (s : State) (l : Luminaire) : Luminaire :=
  if l.watchArmed && l.state.reportsOverdue && overdueReached s l then
    { l with overdueReported := true, watchArmed := false }
  else l

/-- The record after the arrival of its recharge until, if that is reached (R114). -/
def rechargeDone (s : State) (l : Luminaire) : Luminaire :=
  if l.state = .recharging ∧ (l.recharge.any fun r => r.reached s) then
    overdueDone s { l.enter (waitState s l.due) with recharge := none }
  else l

/-- The record after the arrival of its due time, if that is reached (R61). -/
def dueDone (s : State) (l : Luminaire) : Luminaire :=
  if l.state = .idle ∧ waitState s l.due = .due then l.enter .due else l

/-- What the arrivals read of the part beside the record is the same. -/
def SameClock (s t : State) : Prop := t.campus = s.campus ∧ t.quality = s.quality ∧ t.params = s.params

theorem OnlyRecords.sameClock {s t : State} (h : OnlyRecords s t) : SameClock s t := by
  unfold SameClock
  rw [show t = _ from h]
  exact ⟨rfl, rfl, rfl⟩

theorem overdueReached_same {s t : State} (h : SameClock s t) (l : Luminaire) :
    overdueReached t l = overdueReached s l := by
  unfold overdueReached
  rw [h.1, h.2.1, h.2.2]

theorem waitState_same {s t : State} (h : SameClock s t) (due : Nat) : waitState t due = waitState s due := by
  unfold waitState
  rw [h.1, h.2.1]

theorem overdueDone_same {s t : State} (h : SameClock s t) (l : Luminaire) : overdueDone t l = overdueDone s l := by
  unfold overdueDone
  rw [overdueReached_same h]

theorem reached_same {s t : State} (h : SameClock s t) (r : Recharge) : r.reached t = r.reached s := by
  unfold Recharge.reached
  rw [h.1]

theorem rechargeDone_same {s t : State} (h : SameClock s t) (l : Luminaire) : rechargeDone t l = rechargeDone s l := by
  unfold rechargeDone
  simp only [reached_same h, waitState_same h, overdueDone_same h]

theorem dueDone_same {s t : State} (h : SameClock s t) (l : Luminaire) : dueDone t l = dueDone s l := by
  unfold dueDone
  rw [waitState_same h]

theorem get_holdOffArrives (n m : Nat) (s : State) (hq : s.quality ≠ .unset) :
    (holdOffArrives n s).luminaires.get m =
      if m = n then (s.luminaires.get n).map (holdOffDone s) else s.luminaires.get m := by
  unfold holdOffArrives
  split
  · rename_i l h
    split
    · rename_i hc
      rw [triggerPass_luminaires, writeItem_luminaires, get_putLum, h, Option.map_some, holdOffDone, if_pos hc.2]
    · rename_i hc
      refine get_same fun l' hl => ?_
      rw [h] at hl
      cases hl
      exact if_neg fun hh => hc ⟨hq, hh⟩
  · rename_i h
    exact get_same fun l hl => by rw [h] at hl; cases hl

theorem get_checkOverdue (n m : Nat) (s : State) :
    (checkOverdue n s).luminaires.get m =
      if m = n then (s.luminaires.get n).map (overdueDone s) else s.luminaires.get m := by
  unfold checkOverdue
  split
  · rename_i l h
    split
    · rename_i hc
      rw [writeItem_luminaires, get_putLum, raise_luminaires, h, Option.map_some, overdueDone, if_pos hc]
    · rename_i hc
      refine get_same fun l' hl => ?_
      rw [h] at hl
      cases hl
      exact if_neg hc
  · rename_i h
    exact get_same fun l hl => by rw [h] at hl; cases hl

theorem get_rechargeArrives (n m : Nat) (s : State) (hq : s.quality ≠ .unset) :
    (rechargeArrives n s).luminaires.get m =
      if m = n then (s.luminaires.get n).map (rechargeDone s) else s.luminaires.get m := by
  unfold rechargeArrives
  split
  · rename_i l h
    split
    · rename_i hc
      have hs := OnlyRecords.sameClock (((putLum_only n
        (some { l.enter (waitState s l.due) with recharge := none }) s).trans
          (writeItem_only (.luminaire n) _).records).trans (triggerIf_records true _))
      rw [get_checkOverdue, h, Option.map_some, rechargeDone, if_pos hc.2]
      split
      · rw [triggerPass_luminaires, writeItem_luminaires, get_putLum, if_pos rfl, Option.map_some]
        exact congrArg some (overdueDone_same hs _)
      · rename_i hm
        rw [triggerPass_luminaires, writeItem_luminaires, get_putLum, if_neg hm]
    · rename_i hc
      refine get_same fun l' hl => ?_
      rw [h] at hl
      cases hl
      exact if_neg fun hh => hc ⟨hq, hh⟩
  · rename_i h
    exact get_same fun l hl => by rw [h] at hl; cases hl

theorem get_dueArrives (n m : Nat) (s : State) :
    (dueArrives n s).luminaires.get m =
      if m = n then (s.luminaires.get n).map (dueDone s) else s.luminaires.get m := by
  unfold dueArrives
  split
  · rename_i l h
    split
    · rename_i hc
      rw [get_putLum, h, Option.map_some, dueDone, if_pos hc]
    · rename_i hc
      refine get_same fun l' hl => ?_
      rw [h] at hl
      cases hl
      exact if_neg hc
  · rename_i h
    exact get_same fun l hl => by rw [h] at hl; cases hl

/-- The arrivals of luminaire `n`'s reached instants change its record alone, to this. -/
theorem get_instantsArrive (n m : Nat) (s : State) (hq : s.quality ≠ .unset) :
    (instantsArrive n s).luminaires.get m =
      if m = n then (s.luminaires.get n).map fun l => overdueDone s (dueDone s (rechargeDone s (holdOffDone s l)))
      else s.luminaires.get m := by
  have h1 := OnlyRecords.sameClock (holdOffArrives_only n s)
  have h2 := OnlyRecords.sameClock ((holdOffArrives_only n s).trans (rechargeArrives_only n _))
  have h3 := OnlyRecords.sameClock
    (((holdOffArrives_only n s).trans (rechargeArrives_only n _)).trans (dueArrives_only n _))
  have hq1 : (holdOffArrives n s).quality ≠ .unset := by
    rw [h1.2.1]
    exact hq
  unfold instantsArrive
  simp only [get_checkOverdue, get_dueArrives, get_rechargeArrives _ _ _ hq1, get_holdOffArrives _ _ _ hq, if_true,
    Option.map_map, Function.comp_def, overdueDone_same h3, dueDone_same h2, rechargeDone_same h1]
  by_cases hm : m = n
  · simp only [hm, if_true]
  · simp only [hm, if_false]

/-! ### All arrivals -/

/-- No stored instant of the record that campus time has reached is left (R42). -/
def Settled (s : State) (l : Luminaire) : Prop :=
  (∀ h, l.holdOff = some h → s.campus < h) ∧ (l.state = .idle → s.campus < l.due) ∧
    (∀ x, l.state = .recharging → l.recharge = some (.until x) → s.campus < x) ∧
    (l.watchArmed = true → l.state = .idle ∨ l.state = .due ∨ l.state = .recharging →
      s.campus < l.due + s.params.overdueGrace * 86400)

theorem Settled.same {s t : State} (h : SameClock s t) {l : Luminaire} (hl : Settled t l) : Settled s l := by
  unfold Settled at hl ⊢
  rw [h.1, h.2.2] at hl
  exact hl

theorem holdOffDone_clear (s : State) (l : Luminaire) (h : Nat) (hh : (holdOffDone s l).holdOff = some h) : s.campus < h := by
  unfold holdOffDone at hh
  split at hh
  · cases hh
  · rename_i hc
    rw [hh] at hc
    simp only [Option.any_some, decide_eq_true_eq] at hc
    omega

@[simp] theorem overdueDone_holdOff (s : State) (l : Luminaire) : (overdueDone s l).holdOff = l.holdOff := by
  unfold overdueDone
  split <;> rfl

@[simp] theorem overdueDone_state (s : State) (l : Luminaire) : (overdueDone s l).state = l.state := by
  unfold overdueDone
  split <;> rfl

@[simp] theorem overdueDone_due (s : State) (l : Luminaire) : (overdueDone s l).due = l.due := by
  unfold overdueDone
  split <;> rfl

@[simp] theorem overdueDone_recharge (s : State) (l : Luminaire) : (overdueDone s l).recharge = l.recharge := by
  unfold overdueDone
  split <;> rfl

@[simp] theorem enter_holdOff (l : Luminaire) (st : LumState) : (l.enter st).holdOff = l.holdOff := by
  unfold Luminaire.enter
  split <;> rfl

@[simp] theorem enter_due (l : Luminaire) (st : LumState) : (l.enter st).due = l.due := by
  unfold Luminaire.enter
  split <;> rfl

@[simp] theorem enter_recharge (l : Luminaire) (st : LumState) : (l.enter st).recharge = l.recharge := by
  unfold Luminaire.enter
  split <;> rfl

@[simp] theorem enter_state (l : Luminaire) (st : LumState) : (l.enter st).state = st := by
  unfold Luminaire.enter
  split
  · rename_i h
    exact h.symm
  · rfl

@[simp] theorem rechargeDone_holdOff (s : State) (l : Luminaire) : (rechargeDone s l).holdOff = l.holdOff := by
  unfold rechargeDone
  split
  · rw [overdueDone_holdOff, enter_holdOff]
  · rfl

@[simp] theorem dueDone_holdOff (s : State) (l : Luminaire) : (dueDone s l).holdOff = l.holdOff := by
  unfold dueDone
  split
  · rw [enter_holdOff]
  · rfl

theorem overdueDone_clear (s : State) (l : Luminaire) (hq : s.quality ≠ .unset) (ha : (overdueDone s l).watchArmed = true)
    (hst : l.state = .idle ∨ l.state = .due ∨ l.state = .recharging) :
    s.campus < l.due + s.params.overdueGrace * 86400 := by
  have hr : l.state.reportsOverdue = true := by
    rcases hst with h | h | h <;> rw [h] <;> rfl
  unfold overdueDone at ha
  split at ha
  · cases ha
  · rename_i hc
    rw [ha, hr, Bool.true_and, Bool.true_and] at hc
    unfold overdueReached daySeconds at hc
    simp only [ne_eq, hq, not_false_eq_true, decide_true, Bool.true_and, decide_eq_true_eq] at hc
    omega

theorem waitState_known (s : State) (due : Nat) (hq : s.quality ≠ .unset) :
    waitState s due = if due ≤ s.campus then .due else .idle := by
  unfold waitState
  simp only [hq, ne_eq, not_false_eq_true, true_and]

/-- After its arrivals a record is settled. -/
theorem arrived_settled (s : State) (l : Luminaire) (hq : s.quality ≠ .unset) :
    Settled s (overdueDone s (dueDone s (rechargeDone s (holdOffDone s l)))) := by
  refine ⟨fun h hh => ?_, fun hst => ?_, fun x hst hx => ?_, fun ha hst => ?_⟩
  · rw [overdueDone_holdOff, dueDone_holdOff, rechargeDone_holdOff] at hh
    exact holdOffDone_clear s l h hh
  · rw [overdueDone_state] at hst
    rw [overdueDone_due]
    unfold dueDone at hst ⊢
    split at hst
    · rw [enter_state] at hst
      cases hst
    · rename_i hc
      rw [if_neg hc]
      rw [hst, waitState_known s _ hq] at hc
      simp only [true_and] at hc
      split at hc
      · exact absurd rfl hc
      · omega
  · rw [overdueDone_state] at hst
    rw [overdueDone_recharge] at hx
    unfold dueDone at hst hx
    split at hst
    · rw [enter_state] at hst
      cases hst
    · rename_i hc
      rw [if_neg hc] at hx
      unfold rechargeDone at hst hx
      split at hst
      · rw [overdueDone_state] at hst
        change ((holdOffDone s l).enter _).state = _ at hst
        rw [enter_state, waitState_known s _ hq] at hst
        split at hst <;> cases hst
      · rename_i hr
        rw [if_neg hr] at hx
        rw [hst, hx] at hr
        simp only [Recharge.reached, Option.any_some, true_and, decide_eq_true_eq] at hr
        omega
  · rw [overdueDone_state] at hst
    rw [overdueDone_due]
    exact overdueDone_clear s _ hq ha hst

/-- Once all instants have arrived, every record is settled (R42, R45, R211). -/
theorem allInstantsArrive_settled (s : State) (hq : s.quality ≠ .unset) (n : Nat) (l : Luminaire)
    (h : (allInstantsArrive s).luminaires.get n = some l) : Settled s l := by
  have main : ∀ (ks : List Nat) (t : State), SameClock s t → ∀ l,
      (ks.foldl (fun u k => instantsArrive k u) t).luminaires.get n = some l →
        (n ∈ ks → Settled s l) ∧ (n ∉ ks → t.luminaires.get n = some l) := by
    intro ks
    induction ks with
    | nil => exact fun t _ l hl => ⟨fun hn => absurd hn List.not_mem_nil, fun _ => hl⟩
    | cons k ks ih =>
      intro t ht l hl
      have hqt : t.quality ≠ .unset := by
        rw [ht.2.1]
        exact hq
      have hk := OnlyRecords.sameClock (instantsArrive_only k t)
      have hs : SameClock s (instantsArrive k t) :=
        ⟨hk.1.trans ht.1, hk.2.1.trans ht.2.1, hk.2.2.trans ht.2.2⟩
      have hi := ih _ hs l hl
      by_cases hn : n ∈ ks
      · exact ⟨fun _ => hi.1 hn, fun hno => absurd (List.mem_cons_of_mem k hn) hno⟩
      · have hget := hi.2 hn
        rw [get_instantsArrive _ _ _ hqt] at hget
        by_cases hnk : n = k
        · rw [if_pos hnk] at hget
          refine ⟨fun _ => ?_, fun hno => absurd (hnk ▸ List.mem_cons_self) hno⟩
          obtain ⟨l0, -, rfl⟩ := Option.map_eq_some_iff.mp hget
          exact Settled.same ht (arrived_settled t l0 hqt)
        · rw [if_neg hnk] at hget
          refine ⟨fun hmem => ?_, fun _ => hget⟩
          rcases List.mem_cons.mp hmem with h1 | h1
          · exact absurd h1 hnk
          · exact absurd h1 hn
  have hm := main s.luminaires.keys s ⟨rfl, rfl, rfl⟩ l h
  by_cases hn : n ∈ s.luminaires.keys
  · exact hm.1 hn
  · exact absurd (Table.mem_keys_of_get (hm.2 hn)) hn

end Sys2Proof.Machine
end

