-- ==== Sys2Proof/Laws/Candidates.lean ====
section
/-! SUPPORT. What a pass makes of one candidate: the verdict by the first condition that fails, blocked by, and the CHECK
(R72, R74). -/

namespace Sys2Proof.Machine

/-! ### Lists of conditions -/

theorem AllHold.cons {c : Prop} {q : BlockedBy} {rest : List (Prop × BlockedBy)} :
    AllHold ((c, q) :: rest) ↔ c ∧ AllHold rest := by
  simp [AllHold]

theorem AllHold.append {xs ys : List (Prop × BlockedBy)} : AllHold (xs ++ ys) ↔ AllHold xs ∧ AllHold ys := by
  simp only [AllHold, List.mem_append]
  exact ⟨fun h => ⟨fun x hx => h x (.inl hx), fun x hx => h x (.inr hx)⟩,
    fun h x hx => hx.elim (h.1 x) (h.2 x)⟩

theorem FirstFailing.append {xs ys : List (Prop × BlockedBy)} {r : BlockedBy} :
    FirstFailing (xs ++ ys) r ↔ FirstFailing xs r ∨ (AllHold xs ∧ FirstFailing ys r) := by
  induction xs with
  | nil => simp [FirstFailing, AllHold]
  | cons x xs ih =>
    obtain ⟨c, q⟩ := x
    simp only [List.cons_append, FirstFailing, ih, AllHold.cons]
    tauto

/-! ### The groups -/

theorem coverageFailure_some {s : State} {l : Luminaire} {r : BlockedBy}
    (h : FirstFailing (l.groups.map fun g =>
      (∀ x, s.groups.get g = some x → x.dark - (if l.dark then 1 else 0) < x.cap, BlockedBy.group g)) r) :
    ∃ g, coverageFailure s l = some g ∧ r = .group g := by
  unfold coverageFailure
  generalize l.groups = gs at *
  induction gs with
  | nil => exact h.elim
  | cons g gs ih =>
    have hd : l.dark.toNat = if l.dark then 1 else 0 := by cases l.dark <;> rfl
    simp only [List.map_cons, FirstFailing] at h
    rcases h with ⟨hn, hr⟩ | ⟨hy, hrest⟩
    · refine ⟨g, ?_, hr⟩
      rw [List.find?_cons_of_pos]
      simp only [not_forall] at hn
      obtain ⟨x, hx, hc⟩ := hn
      rw [hx, hd]
      simp only [Option.any_some, decide_eq_true_eq]
      omega
    · obtain ⟨g', hg, hr⟩ := ih hrest
      refine ⟨g', ?_, hr⟩
      rw [List.find?_cons_of_neg, hg]
      cases hx : s.groups.get g with
      | none => simp
      | some x =>
        have := hy x hx
        rw [hd]
        simp only [Option.any_some, decide_eq_true_eq]
        omega

theorem coverageFailure_none {s : State} {l : Luminaire}
    (h : AllHold (l.groups.map fun g =>
      (∀ x, s.groups.get g = some x → x.dark - (if l.dark then 1 else 0) < x.cap, BlockedBy.group g))) :
    coverageFailure s l = none := by
  unfold coverageFailure
  rw [List.find?_eq_none]
  intro g hg
  have hy := h _ (List.mem_map_of_mem hg)
  have hd : l.dark.toNat = if l.dark then 1 else 0 := by cases l.dark <;> rfl
  cases hx : s.groups.get g with
  | none => simp
  | some x =>
    have := hy x hx
    rw [hd]
    simp only [Option.any_some, decide_eq_true_eq]
    omega

/-! ### The verdict -/

theorem heldOff_false {s : State} {l : Luminaire} : l.heldOff s = false ↔ ∀ t, l.holdOff = some t → t ≤ s.campus := by
  unfold Luminaire.heldOff
  cases l.holdOff <;> simp

theorem admits_true {from? : Option (Fin 4)} {st : LumState} :
    admits from? st = true ↔ st = .due ∨ (from?.isSome = true ∧ st = .idle) := by
  unfold admits LumState.waits
  cases from? <;> cases st <;> simp

theorem windowApplies_true {s : State} {from? : Option (Fin 4)} :
    windowApplies s from? = true ↔ ∀ c, from? = some c → s.channels[c].bypass = false := by
  unfold windowApplies
  cases from? <;> simp

theorem guardHolds_true {s : State} {l : Luminaire} {from? : Option (Fin 4)} :
    guardHolds s l from? = true ↔
      ∀ e, guardEnd s from? = some e → s.campus + s.classes[l.cls].rated * 60 + s.params.guardMargin * 60 ≤ e := by
  unfold guardHolds
  cases guardEnd s from? <;> simp

/-- The late conditions give their reason in their order (R72). -/
theorem lateVerdict_reason {s : State} {l : Luminaire} {from? : Option (Fin 4)} {r : BlockedBy}
    (h : FirstFailing (lateConditions s l from?) r) : lateVerdict s l from? = .pass (some r) := by
  unfold lateConditions at h
  simp only [FirstFailing, ← windowApplies_true, ← guardHolds_true, or_false, and_false] at h
  unfold lateVerdict
  cases hw : windowApplies s from? <;> cases ho : openNow s <;> cases hg : guardHolds s l from? <;>
    simp [hw, ho, hg] at h ⊢ <;> try exact h.symm
  all_goals
    rw [if_pos (by omega), h.2]

/-- Conditions 2 to 6 of R72. -/
def headConditions (s : State) (l : Luminaire) (from? : Option (Fin 4)) : List (Prop × BlockedBy) :=
  [(∀ t, l.holdOff = some t → t ≤ s.campus, .holdOff),
    (l.latches.charger = false ∧ l.latches.mainsLost = false, .latch),
    (s.branches[l.branch].state = .ready, .branch),
    (occupiedOn s l.branch < s.params.concurrency[l.branch], .branchLimit),
    (from?.isSome = true → campaignSlots s < s.params.campaignShare, .share)]

theorem verdict_head {s : State} {n : Nat} {l : Luminaire} {from? : Option (Fin 4)}
    (ha : l.state = .due ∨ (from?.isSome = true ∧ l.state = .idle)) :
    (∀ r, FirstFailing (headConditions s l from?) r → verdict s n l from? = .pass (some r)) ∧
    (AllHold (headConditions s l from?) → verdict s n l from? =
      match coverageFailure s l with
      | some g => .pass (some (.group g))
      | none => bandVerdict s n l from?) := by
  have hadm := admits_true.mpr ha
  unfold verdict
  rw [if_neg (by simp [hadm])]
  by_cases h1 : l.heldOff s = true
  · have h1' : ¬∀ t, l.holdOff = some t → t ≤ s.campus := by rw [← heldOff_false, h1]; simp
    rw [if_pos h1]
    refine ⟨fun r h => ?_, fun h => absurd (AllHold.cons.mp h).1 h1'⟩
    rcases h with ⟨_, hr⟩ | ⟨c, _⟩
    · rw [hr]
    · exact absurd c h1'
  have h1' : ∀ t, l.holdOff = some t → t ≤ s.campus := heldOff_false.mp (by simpa using h1)
  rw [if_neg h1]
  by_cases h2 : (l.latches.charger || l.latches.mainsLost) = true
  · have h2' : ¬(l.latches.charger = false ∧ l.latches.mainsLost = false) := fun h => by rw [h.1, h.2] at h2; cases h2
    rw [if_pos h2]
    refine ⟨fun r h => ?_, fun h => absurd (AllHold.cons.mp (AllHold.cons.mp h).2).1 h2'⟩
    rcases h with ⟨c, _⟩ | ⟨_, h⟩
    · exact absurd h1' c
    rcases h with ⟨_, hr⟩ | ⟨c, _⟩
    · rw [hr]
    · exact absurd c h2'
  have h2' : l.latches.charger = false ∧ l.latches.mainsLost = false := by simpa using h2
  rw [if_neg h2]
  by_cases h3 : s.branches[l.branch].state ≠ .ready
  · have h3' : ¬s.branches[l.branch].state = .ready := h3
    rw [if_pos h3]
    refine ⟨fun r h => ?_, fun h => absurd (AllHold.cons.mp (AllHold.cons.mp (AllHold.cons.mp h).2).2).1 h3'⟩
    rcases h with ⟨c, _⟩ | ⟨_, h⟩
    · exact absurd h1' c
    rcases h with ⟨c, _⟩ | ⟨_, h⟩
    · exact absurd h2' c
    rcases h with ⟨_, hr⟩ | ⟨c, _⟩
    · rw [hr]
    · exact absurd c h3'
  have h3' : s.branches[l.branch].state = .ready := not_not.mp h3
  rw [if_neg h3]
  by_cases h4 : s.params.concurrency[l.branch] ≤ occupiedOn s l.branch
  · have h4' : ¬occupiedOn s l.branch < s.params.concurrency[l.branch] := Nat.not_lt.mpr h4
    rw [if_pos h4]
    refine ⟨fun r h => ?_, fun h => absurd (AllHold.cons.mp (AllHold.cons.mp (AllHold.cons.mp (AllHold.cons.mp h).2).2).2).1 h4'⟩
    rcases h with ⟨c, _⟩ | ⟨_, h⟩
    · exact absurd h1' c
    rcases h with ⟨c, _⟩ | ⟨_, h⟩
    · exact absurd h2' c
    rcases h with ⟨c, _⟩ | ⟨_, h⟩
    · exact absurd h3' c
    rcases h with ⟨_, hr⟩ | ⟨c, _⟩
    · rw [hr]
    · exact absurd c h4'
  have h4' : occupiedOn s l.branch < s.params.concurrency[l.branch] := Nat.not_le.mp h4
  rw [if_neg h4]
  by_cases h5 : (from?.isSome && decide (s.params.campaignShare ≤ campaignSlots s)) = true
  · have h5' : ¬(from?.isSome = true → campaignSlots s < s.params.campaignShare) := fun h => by
      rw [Bool.and_eq_true, decide_eq_true_eq] at h5
      exact absurd (h h5.1) (Nat.not_lt.mpr h5.2)
    rw [if_pos h5]
    refine ⟨fun r h => ?_, fun h => absurd (AllHold.cons.mp (AllHold.cons.mp (AllHold.cons.mp (AllHold.cons.mp (AllHold.cons.mp h).2).2).2).2).1 h5'⟩
    rcases h with ⟨c, _⟩ | ⟨_, h⟩
    · exact absurd h1' c
    rcases h with ⟨c, _⟩ | ⟨_, h⟩
    · exact absurd h2' c
    rcases h with ⟨c, _⟩ | ⟨_, h⟩
    · exact absurd h3' c
    rcases h with ⟨c, _⟩ | ⟨_, h⟩
    · exact absurd h4' c
    rcases h with ⟨_, hr⟩ | ⟨c, _⟩
    · rw [hr]
    · exact absurd c h5'
  have h5' : from?.isSome = true → campaignSlots s < s.params.campaignShare := fun h => by
    rw [h] at h5
    simpa using h5
  rw [if_neg h5]
  refine ⟨fun r h => ?_, fun _ => rfl⟩
  rcases h with ⟨c, _⟩ | ⟨_, h⟩
  · exact absurd h1' c
  rcases h with ⟨c, _⟩ | ⟨_, h⟩
  · exact absurd h2' c
  rcases h with ⟨c, _⟩ | ⟨_, h⟩
  · exact absurd h3' c
  rcases h with ⟨c, _⟩ | ⟨_, h⟩
  · exact absurd h4' c
  rcases h with ⟨c, _⟩ | ⟨_, h⟩
  · exact absurd h5' c
  exact h.elim

theorem bandVerdict_early {s : State} {n : Nat} {l : Luminaire} {from? : Option (Fin 4)} :
    let conditions : List (Prop × BlockedBy) :=
      [(n ∉ s.checkPending, .checkPending), (l.band ≠ .cold ∧ l.band ≠ .hot, .band),
        (l.band = .unknown → 0 < unreservedFree s l.branch, .branch)]
    (∀ r, FirstFailing conditions r → bandVerdict s n l from? = .pass (some r)) ∧
    (AllHold conditions →
      (l.band = .unknown → bandVerdict s n l from? = .check) ∧
      (l.band ≠ .unknown → bandVerdict s n l from? = lateVerdict s l from?)) := by
  intro conditions
  unfold bandVerdict
  by_cases hc : n ∈ s.checkPending
  · simp [conditions, FirstFailing, AllHold, hc]
  · cases hb : l.band <;> simp [conditions, FirstFailing, AllHold, hc, hb]
    omega

/-- Up to condition 8 the early conditions give their reason in their order; when all hold, the band decides (R72, R74). -/
theorem verdict_early {s : State} {n : Nat} {l : Luminaire} {from? : Option (Fin 4)}
    (ha : l.state = .due ∨ (from?.isSome = true ∧ l.state = .idle)) :
    (∀ r, FirstFailing (earlyConditions s n l from?) r → verdict s n l from? = .pass (some r)) ∧
    (AllHold (earlyConditions s n l from?) →
      (l.band = .unknown → verdict s n l from? = .check) ∧
      (l.band ≠ .unknown → verdict s n l from? = lateVerdict s l from?)) := by
  obtain ⟨hfail, hhold⟩ := verdict_head (s := s) (n := n) ha
  obtain ⟨bfail, bhold⟩ := bandVerdict_early (s := s) (n := n) (l := l) (from? := from?)
  have he : earlyConditions s n l from? = headConditions s l from? ++ _ ++ _ := rfl
  rw [he]
  refine ⟨fun r h => ?_, fun h => ?_⟩
  · rcases FirstFailing.append.mp h with h | ⟨hb, h⟩
    · rcases FirstFailing.append.mp h with h | ⟨hb, h⟩
      · exact hfail r h
      · obtain ⟨g, hg, hr⟩ := coverageFailure_some h
        rw [hhold hb, hg, hr]
    · obtain ⟨h1, h2⟩ := AllHold.append.mp hb
      rw [hhold h1, coverageFailure_none h2]
      exact bfail r h
  · obtain ⟨hb, h3⟩ := AllHold.append.mp h
    obtain ⟨h1, h2⟩ := AllHold.append.mp hb
    rw [hhold h1, coverageFailure_none h2]
    exact bhold h3

/-! ### Blocked by -/

theorem groupsMove_putLum (n : Nat) (new : Option Luminaire) (s : State) :
    GroupsMove n (s.luminaires.get n) new s (putLum n new s) := by
  have hg : (putLum n new s).groups = s.groups.mapValues (regroupOne n (s.luminaires.get n) new) := by
    unfold putLum relist
    simp only [triggerIf]
    repeat' split
    all_goals rfl
  intro g
  rw [hg, Table.get_mapValues]
  refine ⟨fun h => by rw [h]; rfl, fun r h => ⟨regroupOne n (s.luminaires.get n) new g r, by rw [h]; rfl, rfl, ?_, ?_, ?_, ?_⟩⟩
  · unfold regroupOne
    cases darkIn new g <;> cases darkIn (s.luminaires.get n) g <;> rfl
  · intro hi
    exact if_pos hi
  · intro hi ho
    exact (if_neg (by simp [hi])).trans (if_pos ho)
  · intro hi ho
    exact (if_neg (by simp [hi])).trans (if_neg (by simp [ho]))

theorem recordMoves_putLum (n : Nat) (l : Luminaire) (s : State) : RecordMoves n (some l) s (putLum n (some l) s) :=
  ⟨by rw [get_putLum, if_pos rfl], fun m hm => by rw [get_putLum, if_neg hm], groupsMove_putLum n (some l) s⟩

/-- A change of blocked by moves nothing but the record: neither its darkness nor its state is another (R73). -/
theorem block_moves (n : Nat) (l : Luminaire) (r : BlockedBy) (s : State) (hl : s.luminaires.get n = some l) :
    RecordMoves n (some { l with blockedBy := some r }) s (block n r s) ∧ block n r s = withRecords s (block n r s) := by
  have hb : block n r s = putLum n (some { l with blockedBy := some r }) s := by
    unfold block modLum
    rw [hl]
  rw [hb]
  refine ⟨recordMoves_putLum _ _ _, ?_⟩
  unfold putLum entersDue
  simp only [hl, Option.any_some, Bool.and_not_self, triggerIf, Bool.or_false]
  have hk : listKey (some l) = listKey (some { l with blockedBy := some r }) := rfl
  have hd : (s.groups.any fun p => darkIn (some l) p.1 && !darkIn (some { l with blockedBy := some r }) p.1) = false :=
    List.any_eq_false.mpr fun p _ => by
      rw [show darkIn (some { l with blockedBy := some r }) p.1 = darkIn (some l) p.1 from rfl, Bool.and_not_self]
      exact Bool.false_ne_true
  unfold relist
  rw [if_pos hk]
  unfold regroup
  rw [hd, Bool.or_false]
  rfl

end Sys2Proof.Machine
end

