-- ==== Sys2Proof/Laws/Requests.lean ====
section
/-! SUPPORT. What a request does before and after its owner's part: the link's checks, the reply, the end of an event that is no
trigger. A proof about a request cites these and then looks at the owner alone. -/

namespace Sys2Proof.Machine

/-! ### The end of an event -/

theorem settle_of_no_trigger (s : State) (h : s.trigger = false) : settle s = finish s := by
  unfold settle passes
  simp [h]

theorem event_operating (f : State → State) (s : State) (h : s.phase = .operating) :
    event f s = .next (settle (f (begin s))) := by
  unfold event
  rw [if_pos h]

theorem event_not_operating (f : State → State) (s : State) (h : s.phase ≠ .operating) : event f s = .next s := by
  unfold event
  rw [if_neg h]

theorem branchEvent_operating (b : Fin 8) (f : Fin 8 → State → State) (s : State) (h : s.phase = .operating) :
    branchEvent b f s = .next (settle (f b (begin s))) := by
  unfold branchEvent
  rw [event_operating _ _ h]
  simp [branchOf]

theorem begin_eq_opened (s : State) : begin s = opened s := rfl

/-! ### Replies -/

theorem reply_free (r : Reply) (s : State) (h : s.sending = none) : reply r s = { s with sending := some r } := by
  unfold reply
  simp [h]

theorem reply_busy (r x : Reply) (s : State) (h : s.sending = some x) : reply r s = { s with ready := s.ready ++ [r] } := by
  unfold reply
  simp [h]

theorem answer_refused (tag : Byte) (r : Reason) (s : State) (h : s.sending = none) :
    answer tag (s, .refused r) = { s with sending := some (refusal tag r) } := reply_free _ _ h

theorem answer_done (tag : Byte) (body : List Byte) (s : State) (h : s.sending = none) :
    answer tag (s, .done body) = { s with sending := some (storedReply s.writeFailed tag body) } := by
  unfold answer storedReply doneReply
  simp only
  split <;> rw [reply_free _ _ h]

theorem answer_later (tag : Byte) (s : State) : answer tag (s, .later) = s := rfl

/-! ### The link's part of a request -/

/-- A frame that completes while no reply is being sent is taken. -/
theorem frameComplete_free (f : Frame) (s : State) (hsend : s.sending = none) (hb : f.body.length ≤ 248) :
    frameComplete f (begin s) = takeFrame f (atOwner s) := by
  have hm : maxBody = 248 := rfl
  have hb' : ¬ maxBody < f.body.length := by omega
  have hn : (begin s).sending.isNone = true := by
    show s.sending.isNone = true
    rw [hsend]
    rfl
  unfold frameComplete
  rw [if_neg hb']
  simp only [hn, if_true]
  rfl

theorem takeFrame_busy (f : Frame) (s : State) (h : s.service.isSome = true) :
    takeFrame f s = reply (refusal f.tag .linkBusy) s := by
  unfold takeFrame
  rw [if_pos h]
  rfl

theorem takeFrame_unknown (f : Frame) (s : State) (h : s.service = none) (ho : ownerOf f.kind.toNat f.tag = none) :
    takeFrame f s = reply (refusal f.tag .unknownKind) s := by
  unfold takeFrame
  rw [if_neg (by simp [h]), ho]
  rfl

theorem takeFrame_owner (f : Frame) (s : State) (owner : List Byte → State → State × Answer) (h : s.service = none)
    (ho : ownerOf f.kind.toNat f.tag = some owner) : takeFrame f s = answer f.tag (owner f.body s) := by
  unfold takeFrame
  rw [if_neg (by simp [h]), ho]

/-- A complete frame of a kind in the catalogue, at a link that serves, is its owner's part and the reply to it. -/
theorem request_served (kind : Nat) (tag : Byte) (body : List Byte) (s : State)
    (owner : List Byte → State → State × Answer) (hs : Serves s) (hb : body.length ≤ 248) (hk : kind < 256)
    (ho : ownerOf kind tag = some owner) :
    request kind tag body s = .next (settle (answer tag (owner body (atOwner s)))) := by
  obtain ⟨hp, hsend, hserv⟩ := hs
  have hkind : (BitVec.ofNat 8 kind).toNat = kind := by simp; omega
  unfold request
  rw [event_operating _ _ hp, frameComplete_free ⟨BitVec.ofNat 8 kind, tag, body⟩ s hsend hb,
    takeFrame_owner ⟨BitVec.ofNat 8 kind, tag, body⟩ (atOwner s) owner hserv (by rw [hkind]; exact ho)]

/-- A request that its owner refuses without a change leaves the part answered. -/
theorem request_refused (kind : Nat) (tag : Byte) (body : List Byte) (s : State)
    (owner : List Byte → State → State × Answer) (r : Reason) (hs : Serves s) (hb : body.length ≤ 248) (hk : kind < 256)
    (ho : ownerOf kind tag = some owner) (h : owner body (atOwner s) = (atOwner s, .refused r)) :
    request kind tag body s = .next (answered s (refusal tag r)) := by
  rw [request_served kind tag body s owner hs hb hk ho, h]
  have hn : (atOwner s).sending = none := hs.2.1
  rw [answer_refused tag r _ hn, settle_of_no_trigger _ rfl]
  rfl

/-- A request that its owner answers DONE without a change leaves the part answered. -/
theorem request_unchanged (kind : Nat) (tag : Byte) (body : List Byte) (s : State)
    (owner : List Byte → State → State × Answer) (out : List Byte) (hs : Serves s) (hb : body.length ≤ 248)
    (hk : kind < 256) (ho : ownerOf kind tag = some owner)
    (h : owner body (atOwner s) = (atOwner s, .done out)) :
    request kind tag body s = .next (answered s (doneReply tag out)) := by
  rw [request_served kind tag body s owner hs hb hk ho, h]
  have hn : (atOwner s).sending = none := hs.2.1
  rw [answer_done tag out _ hn, settle_of_no_trigger _ rfl]
  rfl

/-- The link refuses a frame while a NODE-EXCHANGE is in service. -/
theorem frame_linkBusy (f : Frame) (s : State) (hp : s.phase = .operating) (hsend : s.sending = none)
    (hserv : s.service.isSome = true) (hb : f.body.length ≤ 248) :
    event (frameComplete f) s = .next (answered s (refusal f.tag .linkBusy)) := by
  have hn : (atOwner s).sending = none := hsend
  rw [event_operating _ _ hp, frameComplete_free f s hsend hb, takeFrame_busy f (atOwner s) hserv, reply_free _ _ hn,
    settle_of_no_trigger _ rfl]
  rfl

/-- The link refuses a frame of a kind outside the catalogue. -/
theorem frame_unknownKind (f : Frame) (s : State) (hs : Serves s) (ho : ownerOf f.kind.toNat f.tag = none)
    (hb : f.body.length ≤ 248) : event (frameComplete f) s = .next (answered s (refusal f.tag .unknownKind)) := by
  have hn : (atOwner s).sending = none := hs.2.1
  rw [event_operating _ _ hs.1, frameComplete_free f s hs.2.1 hb, takeFrame_unknown f (atOwner s) hs.2.2 ho,
    reply_free _ _ hn, settle_of_no_trigger _ rfl]
  rfl

/-! ### Store writes -/

theorem writeItem_lands (i : Item) (s : State) (h : writeFails s = false) : writeItem i s = landWrite i s := by
  unfold writeItem
  unfold writeFails at h
  rw [if_neg]
  intro hh
  simp [hh] at h

theorem writeItem_fails (i : Item) (s : State) (h : writeFails s = true) : writeItem i s = failWrite i s := by
  unfold writeItem
  unfold writeFails at h
  rw [if_pos]
  simpa using h

/-! ### Notices -/

theorem raise_masked (b : NoticeBody) (s : State) (h : s.mask.getLsbD b.kind = true) : raise b s = s := by
  unfold raise
  rw [if_pos h]

theorem raise_full (b : NoticeBody) (s : State) (h : s.mask.getLsbD b.kind = false) (hf : 32 ≤ s.outbox.length) :
    raise b s = { s with noticesLost := true } := by
  have hr : outboxRoom = 32 := rfl
  unfold raise
  rw [if_neg (by simp [h]), if_pos (by omega)]

end Sys2Proof.Machine
end

