-- ==== Sys2Proof/Laws/Exchanges.lean ====
section
/-! SUPPORT. The end of an exchange: the commands that make a third send fail, ends that no record takes, what an end of each
issuer can touch, and what the flush of a branch does to the issuers (R163 to R168). -/

namespace Sys2Proof.Machine

/-! ### Failed sends -/

/-- Whatever makes the third send fail, the exchange ends unanswered. -/
theorem exec_sendFailure {s : State} {b : Fin 8} {f : InFlight} {c : Instr} (hp : s.phase = .operating)
    (hf : s.branches[b].inFlight = some f) (h3 : 3 ≤ f.sends) (hc : SendFailure b f c) :
    exec c s = .next (settle (endUnanswered b f (begin s))) := by
  have hb : (begin s).branches[b].inFlight = some f := hf
  have hn : ¬f.sends < 3 := Nat.not_lt.mpr h3
  cases c <;> try exact hc.elim
  · obtain ⟨rfl, hr⟩ := hc
    show branchEvent b answerTimesOut s = _
    rw [branchEvent_operating b answerTimesOut s hp]
    unfold answerTimesOut sendFails
    rw [hb]
    simp [hr, hn]
  · obtain rfl := hc
    show branchEvent b answerBreaksOff s = _
    rw [branchEvent_operating b answerBreaksOff s hp]
    unfold answerBreaksOff sendFails
    rw [hb]
    simp [hn]
  · rename_i bytes
    obtain ⟨rfl, hbad⟩ := hc
    show branchEvent b (fun b => answerArrives b bytes) s = _
    rw [branchEvent_operating b (fun b => answerArrives b bytes) s hp]
    unfold answerArrives sendFails
    rw [hb]
    cases ha : nodeFrameOf bytes with
    | none => simp [hn]
    | some a => simp [hbad a ha, hn]

/-! ### Ends that no record takes -/

theorem tableTakes_none {s : State} {b : Fin 8} {e : Exchange} (h : NoRecordTakes b e s) : tableTakes b e s = none := by
  unfold tableTakes
  cases he : e.luminaire with
  | none => rfl
  | some n =>
    cases hl : s.luminaires.get n with
    | none => simp [hl]
    | some l =>
      have := h n l he hl
      simp only [Option.bind_some, hl, Option.any_some]
      rw [if_neg]
      simp only [Bool.and_eq_true, beq_iff_eq]
      rintro ⟨h1, h2⟩
      rcases this with h | h
      · exact h h1
      · exact h h2

theorem tableUnanswered_none {s : State} {b : Fin 8} {e : Exchange} (h : NoRecordTakes b e s) : tableUnanswered b e s = s := by
  unfold tableUnanswered
  rw [tableTakes_none h]

theorem tableAnswered_none {s : State} {b : Fin 8} {e : Exchange} (rec? : Option (NodeRecord × Option StartCode))
    (h : NoRecordTakes b e s) : tableAnswered b e rec? s = s := by
  unfold tableAnswered
  rw [tableTakes_none h]

theorem tableTakes_some {s : State} {b : Fin 8} {e : Exchange} {n : Nat} {l : Luminaire} (he : e.luminaire = some n)
    (hl : s.luminaires.get n = some l) (hb : l.branch = b) (hn : l.node = e.node) : tableTakes b e s = some n := by
  unfold tableTakes
  rw [he]
  simp [hl, hb, hn]

/-! ### What an end can touch, by its issuer -/

/-- An unanswered end that is not the host's leaves the host link as it was. -/
theorem issuerUnanswered_linkKept (e : Exchange) (s : State) (h : e.issuer ≠ .host) : LinkKept s (issuerUnanswered e s) := by
  unfold issuerUnanswered
  cases hi : e.issuer with
  | slot k n =>
    simp only
    rw [show slotUnanswered k n e.kind s = _ from slotUnanswered_only k n e.kind s]
    exact ⟨rfl, rfl, rfl⟩
  | placement =>
    simp only
    rw [show checkUnanswered e s = _ from checkUnanswered_only e s]
    exact ⟨rfl, rfl, rfl⟩
  | host => exact absurd hi h
  | _ => exact ⟨rfl, rfl, rfl⟩

/-- An unanswered end that is not the placement unit's leaves the check-pending set as it was. -/
theorem issuerUnanswered_checkPending (e : Exchange) (s : State) (h : e.issuer ≠ .placement) :
    (issuerUnanswered e s).checkPending = s.checkPending := by
  unfold issuerUnanswered
  cases hi : e.issuer with
  | slot k n =>
    simp only
    rw [show slotUnanswered k n e.kind s = _ from slotUnanswered_only k n e.kind s]
  | placement => exact absurd hi h
  | host =>
    simp only
    unfold endService reply
    split
    · split <;> rfl
    · rfl
  | _ => rfl

theorem endUnanswered_linkKept (b : Fin 8) (f : InFlight) (s : State) (h : f.exchange.issuer ≠ .host) :
    LinkKept s (endUnanswered b f s) := by
  have ht := tableUnanswered_only b f.exchange (modBranch b (fun br => { br with inFlight := none }) s)
  obtain ⟨h1, h2, h3⟩ := issuerUnanswered_linkKept f.exchange
    (tableUnanswered b f.exchange (modBranch b (fun br => { br with inFlight := none }) s)) h
  unfold OnlyRecords at ht
  exact ⟨h1.trans (by rw [ht]; rfl), h2.trans (by rw [ht]; rfl), h3.trans (by rw [ht]; rfl)⟩

theorem endUnanswered_checkPending (b : Fin 8) (f : InFlight) (s : State) (h : f.exchange.issuer ≠ .placement) :
    (endUnanswered b f s).checkPending = s.checkPending := by
  have ht := tableUnanswered_only b f.exchange (modBranch b (fun br => { br with inFlight := none }) s)
  unfold OnlyRecords at ht
  exact (issuerUnanswered_checkPending f.exchange _ h).trans (by rw [ht]; rfl)

/-! ### The flush -/

/-- A removed exchange touches the check-pending set alone, or the host link alone (R165, R168). -/
theorem issuerRemoved_eq (code : Byte) (e : Exchange) (s : State) :
    issuerRemoved code e s = { s with
      checkPending := (issuerRemoved code e s).checkPending, service := (issuerRemoved code e s).service
      sending := (issuerRemoved code e s).sending, ready := (issuerRemoved code e s).ready } := by
  unfold issuerRemoved endService reply
  repeat' split
  all_goals rfl

theorem issuerRemoved_count (code : Byte) (e : Exchange) (s : State) (n : Nat) :
    (issuerRemoved code e s).checkPending.count n =
      s.checkPending.count n - if e.issuer == .placement && e.luminaire == some n then 1 else 0 := by
  unfold issuerRemoved
  cases hi : e.issuer with
  | placement =>
    cases hl : e.luminaire with
    | none => simp
    | some m =>
      simp only [List.count_erase]
      by_cases h : m = n <;> simp [h]
  | host =>
    simp only
    unfold endService reply
    split
    · split <;> simp
    · simp
  | _ => simp

theorem issuerRemoved_linkKept (code : Byte) (e : Exchange) (s : State) (h : s.service = none ∨ e.issuer ≠ .host) :
    LinkKept s (issuerRemoved code e s) := by
  unfold issuerRemoved
  cases hi : e.issuer with
  | host =>
    rcases h with h | h
    · simp only [endService, h]
      exact ⟨rfl, rfl, rfl⟩
    · exact absurd hi h
  | placement => cases e.luminaire <;> exact ⟨rfl, rfl, rfl⟩
  | _ => exact ⟨rfl, rfl, rfl⟩

/-- The exchanges of a list end as removed, one after the other. -/
def removeAll (code : Byte) (es : List Exchange) (s : State) : State := es.foldl (fun t e => issuerRemoved code e t) s

theorem removeAll_count (code : Byte) (es : List Exchange) (s : State) (n : Nat) :
    (removeAll code es s).checkPending.count n =
      s.checkPending.count n - (es.filter fun e => e.issuer == .placement && e.luminaire == some n).length := by
  induction es generalizing s with
  | nil => rfl
  | cons e es ih =>
    show (removeAll code es (issuerRemoved code e s)).checkPending.count n = _
    rw [ih, issuerRemoved_count, List.filter_cons]
    split
    · simp
      omega
    · simp

theorem LinkKept.trans {s t u : State} (h1 : LinkKept s t) (h2 : LinkKept t u) : LinkKept s u :=
  ⟨h2.1.trans h1.1, h2.2.1.trans h1.2.1, h2.2.2.trans h1.2.2⟩

theorem removeAll_linkKept (code : Byte) (es : List Exchange) (s : State)
    (h : s.service = none ∨ ∀ e ∈ es, e.issuer ≠ .host) : LinkKept s (removeAll code es s) := by
  induction es generalizing s with
  | nil => exact ⟨rfl, rfl, rfl⟩
  | cons e es ih =>
    have h1 : LinkKept s (issuerRemoved code e s) :=
      issuerRemoved_linkKept code e s (h.imp id fun h => h e List.mem_cons_self)
    exact h1.trans (ih _ (h.imp (fun h => h1.1.trans h) fun h x hx => h x (List.mem_cons_of_mem _ hx)))

/-- A NODE-EXCHANGE among the removed exchanges leaves service with its reply (R175). -/
theorem removeAll_host (code : Byte) (es : List Exchange) (s : State) (sv : Service) (e : Exchange)
    (hs : s.service = some sv) (hfree : s.sending = none) (he : e ∈ es) (hi : e.issuer = .host) :
    (removeAll code es s).service = none ∧ (removeAll code es s).ready = s.ready ∧
      (removeAll code es s).sending = some ⟨true, sv.tag, [Reason.state.code, code]⟩ := by
  induction es generalizing s with
  | nil => cases he
  | cons x es ih =>
    show (removeAll code es (issuerRemoved code x s)).service = none ∧ _
    by_cases hx : x.issuer = .host
    · have hr : issuerRemoved code x s =
          { s with service := none, sending := some ⟨true, sv.tag, [Reason.state.code, code]⟩ } := by
        unfold issuerRemoved endService reply
        rw [hx, hs]
        simp [hfree]
      obtain ⟨h1, h2, h3⟩ := removeAll_linkKept code es (issuerRemoved code x s) (.inl (by rw [hr]))
      exact ⟨h1.trans (by rw [hr]), h3.trans (by rw [hr]), h2.trans (by rw [hr])⟩
    · obtain ⟨h1, h2, h3⟩ := issuerRemoved_linkKept code x s (.inr hx)
      have hmem : e ∈ es := by
        rcases List.mem_cons.mp he with h | h
        · exact absurd (h ▸ hi) hx
        · exact h
      obtain ⟨k1, k2, k3⟩ := ih (issuerRemoved code x s) (h1.trans hs) (h2.trans hfree) hmem
      exact ⟨k1, k2.trans h3, k3⟩

/-- A branch that leaves READY or DIRECT removes its exchanges; the releases after it touch neither the check-pending set nor
the host link (R168). -/
theorem leaveReady_removes (b : Fin 8) (st : BranchState) (s : State) :
    ∃ t : State, t.checkPending = s.checkPending ∧ LinkKept s t ∧
      (leaveReady b st s).checkPending = (removeAll st.code (exchangesOn s b) t).checkPending ∧
      LinkKept (removeAll st.code (exchangesOn s b) t) (leaveReady b st s) := by
  let t := modBranch b (fun br => { br with queue := [], inFlight := none }) (modBranch b (fun br => { br with state := st }) s)
  have hat : (modBranch b (fun br => { br with state := st }) s).branches[b] = { s.branches[b] with state := st } := by
    simp [modBranch]
  have hflush : flush b (modBranch b (fun br => { br with state := st }) s) = removeAll st.code (exchangesOn s b) t := by
    unfold flush
    simp only [hat]
    rfl
  have hrel : OnlyTests (flush b (modBranch b (fun br => { br with state := st }) s)) (leaveReady b st s) :=
    foldl_only OnlyTests.rfl' OnlyTests.trans (fun u k => releaseLost_only k u) _ _
  refine ⟨t, rfl, ⟨rfl, rfl, rfl⟩, ?_, ?_⟩
  · rw [← hflush, show leaveReady b st s = _ from hrel]
  · rw [← hflush, show leaveReady b st s = _ from hrel]
    exact ⟨rfl, rfl, rfl⟩

/-! ### The record after an answer -/

theorem insertNumber_twice (n : Nat) (xs : List Nat) : insertNumber n (insertNumber n xs) = insertNumber n xs := by
  induction xs with
  | nil => simp [insertNumber]
  | cons m xs ih =>
    by_cases h1 : n < m
    · simp [insertNumber, h1]
    · by_cases h2 : n = m
      · simp [insertNumber, h2]
      · simp [insertNumber, h1, h2, ih]

/-- Two changes of one record that leave its groups and its darkness as they were are one change. -/
theorem RecordMoves.trans {n : Nat} {l l1 l2 : Luminaire} {s t u : State} (hl : s.luminaires.get n = some l)
    (h1 : RecordMoves n (some l1) s t) (h2 : RecordMoves n (some l2) t u) (hg1 : l1.groups = l.groups)
    (hg2 : l2.groups = l.groups) (hd1 : l1.dark = l.dark) (hd2 : l2.dark = l.dark) : RecordMoves n (some l2) s u := by
  obtain ⟨a1, b1, c1⟩ := h1
  obtain ⟨a2, b2, c2⟩ := h2
  refine ⟨a2, fun m hm => (b2 m hm).trans (b1 m hm), fun g => ?_⟩
  have hin1 : inGroup (some l1) g = inGroup (some l) g := by simp [inGroup, hg1]
  have hin2 : inGroup (some l2) g = inGroup (some l) g := by simp [inGroup, hg2]
  have hdk1 : darkIn (some l1) g = darkIn (some l) g := by simp [darkIn, hg1, hd1]
  have hdk2 : darkIn (some l2) g = darkIn (some l) g := by simp [darkIn, hg2, hd2]
  refine ⟨fun h => (c2 g).1 ((c1 g).1 h), fun r hr => ?_⟩
  obtain ⟨r1, hr1, hc1, hk1, hi1, he1, ho1⟩ := (c1 g).2 r hr
  obtain ⟨r2, hr2, hc2, hk2, hi2, he2, ho2⟩ := (c2 g).2 r1 hr1
  simp only [a1, hl, hin1, hin2, hdk1, hdk2] at hk1 hi1 ho1 hk2 hi2 ho2 ⊢
  refine ⟨r2, hr2, hc2.trans hc1, ?_, fun h => ?_, fun h h' => ?_, fun h _ => ?_⟩
  · rw [hk2, hk1]
    omega
  · rw [hi2 h, hi1 h, insertNumber_twice]
  · rw [h] at h'
    cases h'
  · rw [ho2 h h, ho1 h h]

/-- The same change, where what follows touches neither records nor groups. -/
theorem RecordMoves.congr {n : Nat} {new : Option Luminaire} {s t u : State} (h : RecordMoves n new s t)
    (hl : u.luminaires = t.luminaires) (hg : u.groups = t.groups) : RecordMoves n new s u := by
  obtain ⟨a, b, c⟩ := h
  exact ⟨by rw [hl]; exact a, fun m hm => by rw [hl]; exact b m hm, fun g => by rw [hg]; exact c g⟩

/-- A change that leaves state, groups and darkness as they were is no trigger. -/
theorem putLum_trigger {n : Nat} {l l' : Luminaire} {s : State} (hl : s.luminaires.get n = some l)
    (hst : l'.state = l.state) (hg : l'.groups = l.groups) (hd : l'.dark = l.dark) :
    (putLum n (some l') s).trigger = s.trigger := by
  have hdk : (s.groups.any fun p => darkIn (some l) p.1 && !darkIn (some l') p.1) = false :=
    List.any_eq_false.mpr fun p _ => by
      rw [show darkIn (some l') p.1 = darkIn (some l) p.1 by simp [darkIn, hg, hd], Bool.and_not_self]
      exact Bool.false_ne_true
  unfold putLum entersDue relist regroup
  simp only [hl, Option.any_some, hst, Bool.and_not_self, triggerIf, Bool.or_false]
  repeat' split
  all_goals simp [hdk]

/-- A latch that a report calls for, set after another change of the record: one change, and no trigger (R20). -/
theorem latchFault_moves {n : Nat} {l l1 : Luminaire} {s t : State} (k : Latch) (calls : Bool)
    (hl : s.luminaires.get n = some l) (h : RecordMoves n (some l1) s t) (hg : l1.groups = l.groups)
    (hd : l1.dark = l.dark) (hk : { l1 with latches := l1.latches.put true k }.dark = l1.dark) :
    RecordMoves n (some { l1 with latches := if calls then l1.latches.put true k else l1.latches }) s (latchFault n k calls t) ∧
      (latchFault n k calls t).trigger = t.trigger := by
  have hput : l1.latches.has k = true → l1.latches.put true k = l1.latches := by
    intro h
    cases k <;> simp only [Latches.has] at h <;> simp only [Latches.put, ← h]
  have hl1 : t.luminaires.get n = some l1 := h.1
  unfold latchFault
  by_cases hc : calls = true ∧ (l1.latches.has k) = false
  · rw [if_pos hc.1, if_pos (by rw [hl1]; exact ⟨hc.1, by simp [hc.2]⟩)]
    unfold setLatch
    rw [hl1]
    simp only [hc.2, Bool.false_eq_true, if_false]
    have hp := recordMoves_putLum n { l1 with latches := l1.latches.put true k } t
    have htr := putLum_trigger (n := n) (l' := { l1 with latches := l1.latches.put true k }) hl1 rfl rfl hk
    have hr := raise_only (.faultLatched n k) (putLum n (some { l1 with latches := l1.latches.put true k }) t)
    have hw := writeItem_only (.luminaire n)
      (raise (.faultLatched n k) (putLum n (some { l1 with latches := l1.latches.put true k }) t))
    unfold OnlyNotices at hr
    unfold OnlyWrites at hw
    refine ⟨(h.trans hl hp hg hg hd (hk.trans hd)).congr ?_ ?_, ?_⟩ <;> rw [hw, hr]
    exact htr
  · rw [if_neg (c := calls = true ∧ _) (by rw [hl1]; simpa using hc)]
    refine ⟨?_, rfl⟩
    cases calls
    · exact h
    · rw [if_pos rfl, hput (by simpa using hc)]
      exact h

/-- The table takes an answer with a node state record, where the stray rule does not act (R18, R20, R23, R24). -/
theorem tableAnswered_moves {n : Nat} {l : Luminaire} {s : State} {b : Fin 8} {e : Exchange} (r : NodeRecord)
    (code : Option StartCode) (he : e.luminaire = some n) (hl : s.luminaires.get n = some l) (hb : l.branch = b)
    (hn : l.node = e.node) (hs : r.testing = false ∨ l.state.holdsSlot = true) :
    RecordMoves n (some (recordAnswered s l r code)) s (tableAnswered b e (some (r, code)) s) ∧
      (tableAnswered b e (some (r, code)) s).trigger = (s.trigger || decide (l.state = .due)) ∧
      OnlyRecords s (tableAnswered b e (some (r, code)) s) := by
  let l1 : Luminaire := { l with lastExchange := some .answered }
  have ht : tableAnswered b e (some (r, code)) s = takeRecord n r code (putLum n (some l1) s) := by
    unfold tableAnswered modLum
    rw [tableTakes_some he hl hb hn]
    simp only [hl]
    rfl
  rw [ht]
  have h1 := recordMoves_putLum n l1 s
  have g1 : (putLum n (some l1) s).trigger = s.trigger := putLum_trigger hl rfl rfl rfl
  have o1 := putLum_only n (some l1) s
  generalize putLum n (some l1) s = t at *
  let l2 : Luminaire := l1.reported t r code
  have h2 := h1.trans hl (recordMoves_putLum n l2 t) rfl rfl rfl rfl
  have g2 : (putLum n (some l2) t).trigger = t.trigger := putLum_trigger h1.1 rfl rfl rfl
  have hmod : triggerIf ((t.luminaires.get n).any fun l => l.state == .due) (modLum n (fun l => l.reported t r code) t) =
      triggerIf (l.state == .due) (putLum n (some l2) t) := by
    unfold modLum
    rw [h1.1]
    rfl
  unfold takeRecord
  simp only
  rw [hmod]
  have h2' : RecordMoves n (some l2) s (triggerIf (l.state == .due) (putLum n (some l2) t)) := h2.congr rfl rfl
  have g2' : (triggerIf (l.state == .due) (putLum n (some l2) t)).trigger = (s.trigger || decide (l.state = .due)) := by
    show ((putLum n (some l2) t).trigger || _) = _
    rw [g2, g1]
    cases l.state <;> rfl
  have o2 : OnlyRecords s (triggerIf (l.state == .due) (putLum n (some l2) t)) :=
    o1.trans ((putLum_only n (some l2) t).trans (triggerIf_records _ _))
  generalize triggerIf (l.state == .due) (putLum n (some l2) t) = v at *
  obtain ⟨h3, g3⟩ := latchFault_moves .charger (!r.chargerOk) hl h2' rfl rfl rfl
  have o3 := o2.trans (latchFault_only n .charger (!r.chargerOk) v)
  generalize latchFault n .charger (!r.chargerOk) v = w at *
  obtain ⟨h4, g4⟩ := latchFault_moves .mainsLost (!r.mains && !r.testing) hl h3 rfl (by cases r.chargerOk <;> rfl) rfl
  have o4 := o3.trans (latchFault_only n .mainsLost (!r.mains && !r.testing) w)
  generalize latchFault n .mainsLost (!r.mains && !r.testing) w = x at *
  have hfree : ¬(r.testing = true ∧ ((x.luminaires.get n).any fun l => !l.state.holdsSlot) = true) := by
    rw [h4.1]
    rintro ⟨a, c⟩
    rcases hs with h | h
    · rw [h] at a
      cases a
    · have : (!l.state.holdsSlot) = true := c
      rw [h] at this
      cases this
  rw [if_neg hfree]
  refine ⟨?_, g4.trans (g3.trans g2'), o4⟩
  have hc : t.campus = s.campus ∧ t.params = s.params := by
    unfold OnlyRecords at o1
    rw [o1]
    exact ⟨rfl, rfl⟩
  convert h4 using 2
  unfold recordAnswered
  simp only [l2, l1, Luminaire.reported, hc.1, hc.2, Latches.put]
  cases r.chargerOk <;> cases r.mains <;> cases r.testing <;> cases l.latches <;> simp [bandLifeSeconds]

end Sys2Proof.Machine
end

