-- ==== Sys2Proof/Laws/Notices.lean ====
section
/-! SUPPORT. Which notices an operation raises, each said once as `Raises`: how such facts compose, and the notices of a store
write, of an OVERDUE check and of an evaluation of the window. -/

namespace Sys2Proof.Machine

/-! ### Composition -/

theorem Raises.nothing {s u : State} (ho : u.outbox = s.outbox) (hl : u.noticesLost = s.noticesLost) (ha : u.attn = s.attn) :
    Raises [] s u := by
  simp [Raises, ho, hl, ha]

/-- Notices raised one group after the other, where neither the mask nor the stamp has changed between. -/
theorem Raises.append {ns ms : List NoticeBody} {s t u : State} (h1 : Raises ns s t) (h2 : Raises ms t u)
    (hm : t.mask = s.mask) (hk : knownTime t = knownTime s) : Raises (ns ++ ms) s u := by
  obtain ⟨ho, hl, ha⟩ := h1
  obtain ⟨ho', hl', ha'⟩ := h2
  rw [hm, hk, ho] at ho' hl' ha'
  have hroom : ∀ (xs : List Notice) (k : Nat), 32 - (s.outbox ++ xs.take k).length = 32 - s.outbox.length - min k xs.length := by
    intro xs k
    simp only [List.length_append, List.length_take]
    omega
  rw [hroom] at ho' hl' ha'
  simp only [Raises, List.filter_append, List.map_append, List.length_append, List.take_append]
  generalize hx : (ns.filter fun b => !s.mask.getLsbD b.kind).map (fun b => (⟨knownTime s, b⟩ : Notice)) = xs at *
  generalize hy : (ms.filter fun b => !s.mask.getLsbD b.kind).map (fun b => (⟨knownTime s, b⟩ : Notice)) = ys at *
  generalize 32 - s.outbox.length = k at *
  have hsub : k - min k xs.length = k - xs.length := by omega
  rw [hsub] at ho' hl' ha'
  refine ⟨by rw [ho', List.append_assoc], ?_, ?_⟩
  · rw [hl', hl, Bool.or_assoc, ← Bool.decide_or]
    congr 1
    exact decide_eq_decide.mpr (by omega)
  · rw [ha', ha, Bool.or_assoc]
    congr 1
    cases xs.take k <;> simp

/-- The same notices, seen from states that agree in what notices touch. -/
theorem Raises.congr {ns : List NoticeBody} {s s' u u' : State} (h : Raises ns s u) (hso : s'.outbox = s.outbox)
    (hsl : s'.noticesLost = s.noticesLost) (hsa : s'.attn = s.attn) (hm : s'.mask = s.mask)
    (hk : knownTime s' = knownTime s) (huo : u'.outbox = u.outbox) (hul : u'.noticesLost = u.noticesLost)
    (hua : u'.attn = u.attn) : Raises ns s' u' := by
  simpa only [Raises, hso, hsl, hsa, hm, hk, huo, hul, hua] using h

/-! ### What each operation raises -/

theorem raise_raises (b : NoticeBody) (s : State) : Raises [b] s (raise b s) := by
  have hr : outboxRoom = 32 := rfl
  unfold raise Raises
  cases hm : s.mask.getLsbD b.kind
  · rw [if_neg (by simp)]
    by_cases hf : outboxRoom ≤ s.outbox.length
    · rw [if_pos hf]
      have : 32 - s.outbox.length = 0 := by omega
      simp [hm, this]
    · rw [if_neg hf]
      have : ∃ k, 32 - s.outbox.length = k + 1 := ⟨31 - s.outbox.length, by omega⟩
      obtain ⟨k, hk⟩ := this
      simp [hm, hk, followAttn, attnLevel]
  · simp [hm]

theorem landWrite_raises (i : Item) (s : State) : Raises [] s (landWrite i s) := Raises.nothing rfl rfl rfl

theorem failWrite_raises (i : Item) (s : State) : Raises [.storeFault i] s (failWrite i s) :=
  Raises.congr (raise_raises (.storeFault i)
    { s with writeFates := s.writeFates.tail, storeState := .fault, writeFailed := true }) rfl rfl rfl rfl rfl rfl rfl rfl

theorem writeFails_eq_writeFailsAt (s : State) : writeFails s = writeFailsAt s 0 := by
  unfold writeFails writeFailsAt
  rw [List.head?_eq_getElem?]

theorem writeItem_raises (i : Item) (s : State) : Raises (storeFaultIf (writeFailsAt s 0) i) s (writeItem i s) := by
  rw [← writeFails_eq_writeFailsAt]
  cases h : writeFails s
  · rw [writeItem_lands i s h]
    exact landWrite_raises i s
  · rw [writeItem_fails i s h]
    exact failWrite_raises i s

/-- The fate of a later write, once one has been made. -/
theorem writeFailsAt_writeItem (i : Item) (s : State) (k : Nat) :
    writeFailsAt (writeItem i s) k = writeFailsAt s (k + 1) := by
  have hf : (writeItem i s).writeFates = s.writeFates.tail := by
    unfold writeItem
    split
    · unfold failWrite raise
      repeat' split
      all_goals rfl
    · rfl
  unfold writeFailsAt
  rw [hf, List.getElem?_tail]

/-- Only the records with their groups and the schedule list, and the trigger, differ. -/
def OnlyTables (s t : State) : Prop := t = { withRecords s t with trigger := t.trigger }

theorem OnlyTables.raises {s t : State} (h : OnlyTables s t) : Raises [] s t := by
  unfold OnlyTables at h
  rw [h]
  exact Raises.nothing rfl rfl rfl

theorem OnlyTables.writeFailsAt {s t : State} (h : OnlyTables s t) (k : Nat) :
    Machine.writeFailsAt t k = Machine.writeFailsAt s k := by
  unfold OnlyTables at h
  rw [h]
  rfl

theorem relist_tables (n : Nat) (old new : Option Luminaire) (s : State) : OnlyTables s (relist n old new s) := by
  unfold relist
  split
  · rfl
  · split <;> rfl

theorem putLum_tables (n : Nat) (new : Option Luminaire) (s : State) : OnlyTables s (putLum n new s) := by
  have h := relist_tables n (s.luminaires.get n) new
    (regroup n (s.luminaires.get n) new { s with luminaires := s.luminaires.set n new })
  unfold OnlyTables at h ⊢
  unfold putLum
  simp only
  rw [h]
  rfl

theorem modLum_tables (n : Nat) (f : Luminaire → Luminaire) (s : State) : OnlyTables s (modLum n f s) := by
  unfold modLum
  split
  · exact putLum_tables _ _ _
  · rfl

/-- A record that is changed and then written. -/
theorem storeRecord_raises (n : Nat) (l : Luminaire) (s : State) :
    Raises (storeFaultIf (writeFailsAt s 0) (.luminaire n)) s (storeRecord n l s) := by
  have ht := putLum_tables n (some l) s
  have h := writeItem_raises (.luminaire n) (putLum n (some l) s)
  rw [ht.writeFailsAt] at h
  rw [show putLum n (some l) s = _ from ht] at h
  exact Raises.congr h rfl rfl rfl rfl rfl (by unfold storeRecord; rw [← show putLum n (some l) s = _ from ht])
    (by unfold storeRecord; rw [← show putLum n (some l) s = _ from ht])
    (by unfold storeRecord; rw [← show putLum n (some l) s = _ from ht])

/-! ### OVERDUE -/

/-- The notices of an OVERDUE check, for a record in a state that reports it (R63). -/
theorem checkOverdue_raises (n : Nat) (l : Luminaire) (s : State) (hl : s.luminaires.get n = some l)
    (hr : l.state.reportsOverdue = true) :
    Raises (overdueNotices s n l (writeFailsAt s 0)) s (checkOverdue n s) := by
  unfold checkOverdue overdueNotices
  rw [hl]
  simp only [hr, Bool.and_true]
  split
  · have h1 := raise_raises (.overdue n l.due l.blockedBy) s
    have hf : writeFailsAt (raise (.overdue n l.due l.blockedBy) s) 0 = writeFailsAt s 0 := by
      rw [show raise (.overdue n l.due l.blockedBy) s = _ from raise_only _ s]
      rfl
    have h2 := storeRecord_raises n { l with overdueReported := true, watchArmed := false }
      (raise (.overdue n l.due l.blockedBy) s)
    rw [hf] at h2
    refine Raises.append (ms := storeFaultIf (writeFailsAt s 0) (.luminaire n)) h1 h2 ?_ ?_ 
    · rw [show raise (.overdue n l.due l.blockedBy) s = _ from raise_only _ s]
    · rw [show raise (.overdue n l.due l.blockedBy) s = _ from raise_only _ s]
      rfl
  · exact Raises.nothing rfl rfl rfl

theorem knownTime_same {s t : State} (hc : t.campus = s.campus) (hq : t.quality = s.quality) : knownTime t = knownTime s := by
  unfold knownTime
  rw [hc, hq]

/-- The notices of an OVERDUE check that follows other notices of the event, by the record `l` as the event found it: the check
finds `l'`, which has the same watch and due time and, where the notice is due, the same blocked by. -/
theorem checkOverdue_after {n : Nat} {l l' : Luminaire} {s t : State} {ns : List NoticeBody} (h : Raises ns s t)
    (ho : OnlyRecords s t) (hl : t.luminaires.get n = some l') (hr : l'.state.reportsOverdue = true) (hd : l'.due = l.due)
    (hw : l'.watchArmed = l.watchArmed) (hb : overdueReached s l = true → l'.blockedBy = l.blockedBy) :
    Raises (ns ++ overdueNotices s n l (writeFailsAt t 0)) s (checkOverdue n t) := by
  have h2 := checkOverdue_raises n l' t hl hr
  have hreach : overdueReached t l' = overdueReached s l := by
    rw [overdueReached_same ho.sameClock]
    unfold overdueReached
    rw [hd]
  have hn : overdueNotices t n l' (writeFailsAt t 0) = overdueNotices s n l (writeFailsAt t 0) := by
    unfold overdueNotices
    rw [hreach, hw, hd]
    split
    · rename_i hc
      rw [hb (Bool.and_eq_true_iff.mp hc).2]
    · rfl
  rw [hn] at h2
  have hk := ho.sameClock
  exact Raises.append h h2 (by rw [show t = _ from ho]) (knownTime_same hk.1 hk.2.1)

/-! ### The window -/

/-- An evaluation of the window reads the time, the calendar and the mode, and nothing else. -/
theorem openNow_same {s t : State} (hc : t.campus = s.campus) (hq : t.quality = s.quality) (hw : t.windows = s.windows)
    (hb : t.blackouts = s.blackouts) (hm : t.mode = s.mode) : openNow t = openNow s := by
  unfold openNow coveredAt blackoutAt
  rw [hc, hq, hw, hb, hm]

theorem openIntervalEnd_same {s t : State} (hc : t.campus = s.campus) (hw : t.windows = s.windows)
    (hb : t.blackouts = s.blackouts) (hm : t.mode = s.mode) : openIntervalEnd t = openIntervalEnd s := by
  unfold openIntervalEnd coverageEnd entryEnds laterBlackouts coveredAt
  rw [hc, hw, hb, hm]

/-- The notice of a window event, by the mode and the window state before it (R54). -/
def eventNotices (s : State) : List NoticeBody :=
  if openNow s = s.windowOpen then []
  else if openNow s then [.windowOpen s.mode (openIntervalEnd s)]
  else [.windowClose s.mode]

theorem windowEvent_raises (s : State) : Raises (eventNotices s) s (windowEvent s) := by
  unfold windowEvent eventNotices
  split
  · exact Raises.nothing rfl rfl rfl
  · split
    · exact Raises.congr (raise_raises _ { s with windowOpen := true }) rfl rfl rfl rfl rfl rfl rfl rfl
    · exact Raises.congr (raise_raises _ { s with windowOpen := false }) rfl rfl rfl rfl rfl rfl rfl rfl

/-- What a window event leaves: the window state of the calendar, and the mode as it was (R54). -/
theorem windowEvent_only_open (s : State) :
    windowEvent s = { s with
      windowOpen := openNow s, outbox := (windowEvent s).outbox, noticesLost := (windowEvent s).noticesLost
      attn := (windowEvent s).attn, trigger := (windowEvent s).trigger } := by
  unfold windowEvent
  split
  · rename_i h
    rw [h]
  · split
    · rename_i h
      rw [h, show raise _ _ = _ from raise_only _ _]
      rfl
    · rename_i h
      rw [show openNow s = false by simpa using h, show raise _ _ = _ from raise_only _ _]

/-- The notices of a mode that takes effect in place of another (R57). -/
theorem modeTakesEffect_raises (m : Mode) (wasStaged : Bool) (s : State) (h : m ≠ s.mode) :
    Raises (storeFaultIf (writeFailsAt s 0) .mode ++ .modeChanged s.mode m wasStaged :: eventNotices { s with mode := m }) s
      (modeTakesEffect m wasStaged s) := by
  unfold modeTakesEffect
  rw [if_neg h]
  have h1 : Raises (storeFaultIf (writeFailsAt s 0) .mode) s (writeItem .mode { s with mode := m }) :=
    Raises.congr (writeItem_raises .mode { s with mode := m }) rfl rfl rfl rfl rfl rfl rfl rfl
  have hw := writeItem_only .mode { s with mode := m }
  unfold OnlyWrites at hw
  generalize writeItem .mode { s with mode := m } = t at *
  have h2 := raise_raises (.modeChanged s.mode m wasStaged) t
  have hr := raise_only (.modeChanged s.mode m wasStaged) t
  unfold OnlyNotices at hr
  generalize raise (.modeChanged s.mode m wasStaged) t = v at *
  have h3 := windowEvent_raises (triggerPass v)
  have he : eventNotices (triggerPass v) = eventNotices { s with mode := m } := by
    unfold eventNotices
    rw [openNow_same (s := { s with mode := m }) (t := triggerPass v) (by rw [hr, hw]; rfl) (by rw [hr, hw]; rfl) (by rw [hr, hw]; rfl)
      (by rw [hr, hw]; rfl) (by rw [hr, hw]; rfl),
      openIntervalEnd_same (s := { s with mode := m }) (t := triggerPass v) (by rw [hr, hw]; rfl) (by rw [hr, hw]; rfl) (by rw [hr, hw]; rfl)
      (by rw [hr, hw]; rfl)]
    rw [hr, hw]
    rfl
  rw [he] at h3
  have h3' : Raises (eventNotices { s with mode := m }) v (windowEvent (triggerPass v)) :=
    Raises.congr h3 rfl rfl rfl rfl rfl rfl rfl rfl
  have h23 : Raises (.modeChanged s.mode m wasStaged :: eventNotices { s with mode := m }) t (windowEvent (triggerPass v)) :=
    Raises.append h2 h3' (by rw [hr]) (by rw [hr]; rfl)
  exact Raises.append h1 h23 (by rw [hw]) (by rw [hw]; rfl)

theorem modeTakesEffect_mode (m : Mode) (wasStaged : Bool) (s : State) : (modeTakesEffect m wasStaged s).mode = m := by
  unfold modeTakesEffect
  split
  · rename_i h
    exact h.symm
  · rw [show windowEvent _ = _ from windowEvent_only_open _]
    simp only [triggerPass, triggerIf]
    rw [show raise _ _ = _ from raise_only _ _, show writeItem _ _ = _ from writeItem_only _ _]

/-- The notices of an evaluation of the window (R54, R57). -/
theorem evaluateWindow_raises (s : State) :
    Raises (windowNotices s (evaluateWindow s) (writeFailsAt s 0)) s (evaluateWindow s) := by
  have h1 := windowEvent_raises s
  have hw := windowEvent_only_open s
  have ho := evaluateWindow_only s
  unfold OnlyCalendar at ho
  unfold windowNotices eventNotices at *
  by_cases hsame : openNow s = s.windowOpen
  · rw [if_pos hsame] at h1 ⊢
    have he : evaluateWindow s = windowEvent s := by
      unfold evaluateWindow
      rw [hw]
      simp only
      rw [hsame]
      cases s.windowOpen <;> rfl
    rw [he]
    exact h1
  · rw [if_neg hsame] at h1 ⊢
    by_cases hopen : openNow s = true
    · rw [if_pos hopen] at h1 ⊢
      have he : evaluateWindow s = windowEvent s := by
        unfold evaluateWindow
        rw [hw]
        simp only
        rw [hopen]
        cases s.windowOpen <;> rfl
      rw [he]
      exact h1
    · rw [if_neg hopen] at h1 ⊢
      have hclosed : openNow s = false := by simpa using hopen
      have hwas : s.windowOpen = true := by
        cases h : s.windowOpen
        · rw [hclosed, h] at hsame
          exact absurd rfl hsame
        · rfl
      have hstaged : (windowEvent s).staged = s.staged := by rw [hw]
      have hnow : (windowEvent s).windowOpen = false := by rw [hw]; exact hclosed
      cases hst : s.staged with
      | none =>
        have he : evaluateWindow s = windowEvent s := by
          unfold evaluateWindow
          simp only
          rw [hstaged, hst]
          simp
        rw [he]
        exact h1
      | some m =>
        have he : evaluateWindow s = modeTakesEffect m true { windowEvent s with staged := none } := by
          unfold evaluateWindow
          simp only
          rw [hstaged, hst, hnow, hwas]
          rfl
        have hmode : (windowEvent s).mode = s.mode := by rw [hw]
        by_cases hm : m = s.mode
        · have hback : evaluateWindow s = { windowEvent s with staged := none } := by
            rw [he]
            unfold modeTakesEffect
            rw [if_pos (by rw [hmode]; exact hm)]
          rw [hback]
          simp only [if_pos hm]
          exact h1
        · have h2 := modeTakesEffect_raises m true { windowEvent s with staged := none } (by
            show m ≠ (windowEvent s).mode
            rw [hmode]
            exact hm)
          rw [← he] at h2
          have hum : (evaluateWindow s).mode = m := by rw [he]; exact modeTakesEffect_mode _ _ _
          have hon : openNow { { windowEvent s with staged := none } with mode := m } = openNow (evaluateWindow s) :=
            openNow_same (by rw [ho, hw]) (by rw [ho, hw]) (by rw [ho, hw]) (by rw [ho, hw]) hum.symm
          have hoe : openIntervalEnd { { windowEvent s with staged := none } with mode := m }
              = openIntervalEnd (evaluateWindow s) :=
            openIntervalEnd_same (by rw [ho, hw]) (by rw [ho, hw]) (by rw [ho, hw]) hum.symm
          have hn : eventNotices { { windowEvent s with staged := none } with mode := m }
              = if openNow (evaluateWindow s) then [.windowOpen m (openIntervalEnd (evaluateWindow s))] else [] := by
            unfold eventNotices
            rw [hon, hoe]
            simp only [hnow]
            cases openNow (evaluateWindow s) <;> rfl
          rw [hn] at h2
          have hf : writeFailsAt { windowEvent s with staged := none } 0 = writeFailsAt s 0 := by
            unfold writeFailsAt
            simp only
            rw [hw]
          rw [hf] at h2
          simp only [hmode] at h2
          simp only [if_neg hm]
          refine Raises.append (t := { windowEvent s with staged := none }) h1 h2 ?_ ?_
          · rw [hw]
          · rw [hw]
            rfl

end Sys2Proof.Machine
end

