-- ==== Sys2Proof/Laws/Passes.lean ====
section
/-! SUPPORT. Placement passes: only a queued restart makes a pass a trigger (R65, R66), and the campaign part of a pass is the
rotation of R69. -/

namespace Sys2Proof.Machine

/-! ### What can make a trigger inside a pass -/

/-- No restart is queued that was not, and a new trigger has taken a queued restart. -/
def OnlyRestartsTrigger (s t : State) : Prop :=
  (∀ c : Fin 4, t.channels[c].restartQueued = true → s.channels[c].restartQueued = true) ∧
    (t.trigger = true → s.trigger = true ∨
      ∃ c : Fin 4, s.channels[c].restartQueued = true ∧ t.channels[c].restartQueued = false)

namespace OnlyRestartsTrigger

theorem same {s t : State} (hc : t.channels = s.channels) (ht : t.trigger = s.trigger) : OnlyRestartsTrigger s t := by
  unfold OnlyRestartsTrigger
  rw [hc, ht]
  exact ⟨fun _ h => h, fun h => .inl h⟩

theorem refl (s : State) : OnlyRestartsTrigger s s := same rfl rfl

theorem trans {s t u : State} (h1 : OnlyRestartsTrigger s t) (h2 : OnlyRestartsTrigger t u) : OnlyRestartsTrigger s u := by
  refine ⟨fun c h => h1.1 c (h2.1 c h), fun h => ?_⟩
  rcases h2.2 h with h | ⟨c, hc, hu⟩
  · rcases h1.2 h with h | ⟨c, hc, ht⟩
    · exact .inl h
    · refine .inr ⟨c, hc, ?_⟩
      cases hu : u.channels[c].restartQueued
      · rfl
      · exact absurd (h2.1 c hu) (by rw [ht]; decide)
  · exact .inr ⟨c, h1.1 c hc, hu⟩

theorem notices {s t : State} (h : OnlyNotices s t) : OnlyRestartsTrigger s t := by
  unfold OnlyNotices at h
  exact same (by rw [h]) (by rw [h])

theorem writes {s t : State} (h : OnlyWrites s t) : OnlyRestartsTrigger s t := by
  unfold OnlyWrites at h
  exact same (by rw [h]) (by rw [h])

theorem branches {s t : State} (h : OnlyBranches s t) : OnlyRestartsTrigger s t := by
  unfold OnlyBranches at h
  exact same (by rw [h]) (by rw [h])

/-- A channel changes, and no restart becomes queued by it. -/
theorem channel (c : Fin 4) (f : Channel → Channel) (s : State)
    (h : (f s.channels[c]).restartQueued = true → s.channels[c].restartQueued = true) :
    OnlyRestartsTrigger s (modChan c f s) := by
  refine ⟨fun d hd => ?_, fun ht => .inl ht⟩
  by_cases hdc : d = c
  · subst hdc
    exact h (by simpa [modChan] using hd)
  · have hv : (c : Nat) ≠ (d : Nat) := fun hh => hdc (Fin.ext hh.symm)
    simpa [modChan, Vector.getElem_set_ne, hv] using hd

end OnlyRestartsTrigger

open OnlyRestartsTrigger in
theorem checkWatch_restarts (c : Fin 4) (s : State) : OnlyRestartsTrigger s (checkWatch c s) := by
  unfold checkWatch
  exact (channel _ _ _ fun h => h).trans (foldl_only OnlyRestartsTrigger.refl OnlyRestartsTrigger.trans (fun s e => notices (raise_only _ s)) _ _)

open OnlyRestartsTrigger in
theorem campaignDone_restarts (c : Fin 4) (s : State) : OnlyRestartsTrigger s (campaignDone c s) := by
  have hd := (channel c (fun ch => { ch with state := .done }) s fun h => h).trans
    (notices (raise_only (.done c s.channels[c].run s.channels[c].skipped s.channels[c].unstarted) _))
  unfold campaignDone
  simp only
  split
  · rename_i hq
    have hr := (hd.trans (channel c (fun ch => ch.started ch.restartBypass) _
      (fun h => absurd h (by simp [Channel.started])))).trans (notices (raise_only (.restarted c s.channels[c].run) _))
    refine ⟨hr.1, fun _ => .inr ⟨c, hq, ?_⟩⟩
    unfold triggerPass triggerIf
    rw [show raise (.restarted c s.channels[c].run) _ = _ from raise_only _ _]
    simp [modChan, Channel.started]
  · exact hd

open OnlyRestartsTrigger in
theorem drainedDone_restarts (c : Fin 4) (s : State) : OnlyRestartsTrigger s (drainedDone c s) := by
  unfold drainedDone
  simp only
  split
  · exact campaignDone_restarts _ _
  · exact .refl _

open OnlyRestartsTrigger in
theorem endOfList_restarts (c : Fin 4) (last cursor : Nat) (s : State) : OnlyRestartsTrigger s (endOfList c last cursor s) :=
  ((channel c _ s fun h => h).trans (checkWatch_restarts _ _)).trans (drainedDone_restarts _ _)

open OnlyRestartsTrigger in
theorem finishEntry_restarts (c : Fin 4) (s : State) : OnlyRestartsTrigger s (finishEntry c s) := by
  unfold finishEntry
  simp only
  split
  · exact endOfList_restarts _ _ _ _
  · split
    · exact (channel c _ s fun h => h).trans (checkWatch_restarts _ _)
    · split <;> exact channel c _ s fun h => h

open OnlyRestartsTrigger in
theorem halt_restarts (c : Fin 4) (r : HaltReason) (s : State) : OnlyRestartsTrigger s (halt c r s) :=
  (channel c _ s fun h => h).trans (notices (raise_only _ _))

open OnlyRestartsTrigger in
theorem reachMember_restarts (c : Fin 4) (s : State) : OnlyRestartsTrigger s (reachMember c s) := by
  unfold reachMember
  simp only
  split
  · exact (channel c _ s fun h => h).trans (finishEntry_restarts _ _)
  · exact channel c _ s fun h => h

open OnlyRestartsTrigger in
theorem examineTest_restarts (c : Fin 4) (n : Nat) (s : State) : OnlyRestartsTrigger s (examineTest c n s) := by
  unfold examineTest
  split
  · exact halt_restarts _ _ _
  · split
    · exact halt_restarts _ _ _
    · exact .refl _

open OnlyRestartsTrigger in
theorem markTakenUp_restarts (c : Fin 4) (s : State) : OnlyRestartsTrigger s (markTakenUp c s) := by
  unfold markTakenUp
  simp only
  split
  · exact (channel c _ s fun h => h).trans (notices (raise_only _ _))
  · exact channel c _ s fun h => h

open OnlyRestartsTrigger in
theorem takeUpOne_restarts (c : Fin 4) (s : State) : OnlyRestartsTrigger s (takeUpOne c s) := by
  unfold takeUpOne
  simp only
  split
  · exact endOfList_restarts _ _ _ _
  · refine (markTakenUp_restarts c s).trans ?_
    split
    · exact examineTest_restarts _ _ _
    · split
      · exact halt_restarts _ _ _
      · exact (channel c _ _ fun h => h).trans (reachMember_restarts _ _)
    · exact (notices (raise_only _ _)).trans (finishEntry_restarts _ _)

theorem takeUp_restarts (c : Fin 4) (s : State) : OnlyRestartsTrigger s (takeUp c s) := by
  unfold takeUp
  generalize 140 = k
  induction k generalizing s with
  | zero => exact .refl s
  | succ k ih =>
    unfold takeUpAll
    split
    · exact (takeUpOne_restarts c s).trans (ih _)
    · exact .refl s

theorem present_restarts (c : Fin 4) (s : State) : OnlyRestartsTrigger s (present c s).1 := by
  unfold present reexamine
  simp only
  split
  · split
    · exact examineTest_restarts _ _ _
    · exact (reachMember_restarts _ _).trans (takeUp_restarts _ _)
    · exact .refl s
  · exact .refl s

open OnlyRestartsTrigger in
theorem campaignReserved_restarts (c : Fin 4) (k : Nat) (s : State) : OnlyRestartsTrigger s (campaignReserved c k s) := by
  have h := channel c (fun ch => { ch with inFlight := ch.inFlight ++ [(k, s.channels[c].cursor)] }) s fun h => h
  unfold campaignReserved
  simp only
  split
  · exact ((h.trans (channel c _ _ fun h => h)).trans (reachMember_restarts _ _)).trans (takeUp_restarts _ _)
  · exact (h.trans (finishEntry_restarts _ _)).trans (takeUp_restarts _ _)

/-- A record that stays in its groups, grows no lighter and does not become DUE makes no trigger (R37, R66). -/
theorem putLum_restarts (n : Nat) (l l' : Luminaire) (s : State) (hl : s.luminaires.get n = some l)
    (hg : l'.groups = l.groups) (hd : l.dark = true → l'.dark = true) (hs : l'.state = .due → l.state = .due) :
    OnlyRestartsTrigger s (putLum n (some l') s) := by
  have hf : (s.groups.any fun p => darkIn (some l) p.1 && !darkIn (some l') p.1) = false := by
    rw [List.any_eq_false]
    intro p _
    simp only [darkIn, Option.any_some, hg]
    cases hh : l.dark
    · simp
    · simp [hd hh]
  have he : entersDue (some l) (some l') = false := by
    simp only [entersDue, Option.any_some]
    by_cases h : l'.state = .due
    · simp [hs h]
    · simp [h]
  refine .same ?_ ?_
  · rw [show putLum n (some l') s = _ from putLum_only n _ s]
  · unfold putLum triggerIf
    simp only [hl, he, Bool.or_false]
    unfold relist
    split
    · simp only [regroup, hf, Bool.or_false]
    · split <;> simp only [regroup, hf, Bool.or_false]

theorem block_restarts (n : Nat) (r : BlockedBy) (s : State) : OnlyRestartsTrigger s (block n r s) := by
  unfold block modLum
  split
  · rename_i l hl
    exact putLum_restarts n l _ s hl rfl (fun h => h) (fun h => h)
  · exact .refl s

@[simp] theorem enter_groups (l : Luminaire) (st : LumState) : (l.enter st).groups = l.groups := by
  unfold Luminaire.enter
  split <;> rfl

theorem tellReserved_restarts (f : Option (Fin 4)) (k : Nat) (v s : State) (h : OnlyRestartsTrigger s v) :
    OnlyRestartsTrigger s (tellReserved f k v) := by
  unfold tellReserved
  split
  · rename_i c
    exact (h.trans (.same (t := { v with lastServed := c }) rfl rfl)).trans (campaignReserved_restarts _ _ _)
  · exact h

theorem reserve_restarts (n : Nat) (l : Luminaire) (f : Option (Fin 4)) (s : State) (hl : s.luminaires.get n = some l) :
    OnlyRestartsTrigger s (reserve n l f s) := by
  unfold reserve
  split
  · exact .refl s
  · rename_i k _
    have hb := enqueue_only l.branch (startExchange l.node n k (reservedSlot s n l f).rated)
      { s with slots := s.slots.put k (reservedSlot s n l f) }
    have h1 : OnlyRestartsTrigger s { s with slots := s.slots.put k (reservedSlot s n l f) } := .same rfl rfl
    have hq := h1.trans (.branches hb)
    have hl' : (enqueue l.branch (startExchange l.node n k (reservedSlot s n l f).rated)
        { s with slots := s.slots.put k (reservedSlot s n l f) }).luminaires.get n = some l := by
      rw [show enqueue l.branch _ _ = _ from hb]
      exact hl
    have hp := hq.trans (putLum_restarts n l { l.enter .starting with openMarker := true } _ hl' (enter_groups l .starting)
      (fun _ => by simp [Luminaire.dark, LumState.waits]) (fun h => by simp at h))
    have hw := hp.trans (.writes (writeItem_only (.luminaire n) _))
    exact tellReserved_restarts f k _ s hw

theorem consider_restarts (n : Nat) (f : Option (Fin 4)) (s : State) : OnlyRestartsTrigger s (consider n f s).1 := by
  unfold consider
  split
  · exact .refl s
  · rename_i l hl
    split
    · exact reserve_restarts n l f s hl
    · exact ((OnlyRestartsTrigger.same (t := { s with checkPending := s.checkPending ++ [n] }) rfl rfl).trans
        (.branches (enqueue_only _ _ _))).trans (block_restarts _ _ _)
    · exact .refl s
    · exact block_restarts _ _ _

theorem blockWaiting_restarts (n : Nat) (r : BlockedBy) (s : State) : OnlyRestartsTrigger s (blockWaiting n r s) := by
  unfold blockWaiting
  split
  · exact block_restarts _ _ _
  · exact .refl s

theorem campaignPart_restarts (k : Nat) (done : List (Fin 4)) (s : State) :
    OnlyRestartsTrigger s (campaignPart k done s) := by
  induction k generalizing done s with
  | zero => exact .refl s
  | succ k ih =>
    unfold campaignPart
    split
    · exact .refl s
    · rename_i c _
      have hp := present_restarts c s
      simp only
      split
      · exact hp.trans (ih _ _)
      · exact (hp.trans (blockWaiting_restarts _ _ _)).trans (ih _ _)
      · exact (hp.trans (consider_restarts _ _ _)).trans (ih _ _)

theorem periodicStep_restarts (s : State) (n : Nat) : OnlyRestartsTrigger s (periodicStep s n) := by
  unfold periodicStep
  split
  · split
    · exact block_restarts _ _ _
    · exact consider_restarts _ _ _
  · exact .refl s

/-- A pass is a trigger only by taking a queued restart. -/
theorem pass_restarts (s : State) : OnlyRestartsTrigger s (pass s) :=
  (campaignPart_restarts _ _ s).trans (foldl_only .refl .trans periodicStep_restarts _ _)

/-! ### The rotation -/

theorem rotation_eq (last : Fin 4) : rotation last = [last + 1 + 0, last + 1 + 1, last + 1 + 2, last + 1 + 3] := by
  revert last
  decide

theorem mem_rotation (last c : Fin 4) : c ∈ rotation last := by
  revert last c
  decide

theorem nextChannel_some {done : List (Fin 4)} {s : State} {c : Fin 4} (h : nextChannel s done = some c) :
    OfferedNext done s c := by
  unfold nextChannel at h
  rw [rotation_eq, List.find?_eq_some_iff_getElem] at h
  obtain ⟨hp, i, hi, hc, hj⟩ := h
  simp only [Bool.and_eq_true, Bool.not_eq_true', beq_iff_eq, List.contains_eq_mem, decide_eq_false_iff_not] at hp
  refine ⟨hp.1, hp.2, ⟨i, by simpa using hi⟩, ?_, ?_⟩
  · rw [← hc]
    have hi' : i < 4 := by simpa using hi
    match i, hi' with
    | 0, _ => rfl
    | 1, _ => rfl
    | 2, _ => rfl
    | 3, _ => rfl
  · intro j hlt
    have h := hj j.val hlt
    have hget : ∀ j : Fin 4, ([s.lastServed + 1 + 0, s.lastServed + 1 + 1, s.lastServed + 1 + 2,
        s.lastServed + 1 + 3] : List (Fin 4))[j.val]'(by simp) = s.lastServed + 1 + j := by
      intro j
      match j with
      | 0 => rfl
      | 1 => rfl
      | 2 => rfl
      | 3 => rfl
    rw [hget] at h
    by_cases hm : s.lastServed + 1 + j ∈ done
    · exact .inl hm
    · refine .inr fun hr => ?_
      simp [hm] at h
      exact h hr

theorem nextChannel_none {done : List (Fin 4)} {s : State} (h : nextChannel s done = none) (c : Fin 4) (hc : c ∉ done) :
    s.channels[c].state ≠ .running := by
  unfold nextChannel at h
  rw [List.find?_eq_none] at h
  have h := h c (mem_rotation _ _)
  simpa [hc] using h

/-! ### The slots of a pass -/

/-- Fewer than `n` entries leave a number below `n` free. -/
theorem lowestFree_of_room {α : Type} (t : Table α) (n : Nat) (h : t.length < n) : ∃ k, t.lowestFree n = some k := by
  unfold Table.lowestFree
  cases hf : (List.range n).find? fun k => !t.has k with
  | some k => exact ⟨k, rfl⟩
  | none =>
    rw [List.find?_eq_none] at hf
    have hs : ∀ k ∈ List.range n, k ∈ t.keys := fun k hk => by
      have hk := hf k hk
      cases hg : t.get k with
      | none => simp [Table.has, hg] at hk
      | some a => exact Table.mem_keys_of_get hg
    have hlen : (List.range n).length ≤ t.keys.length := (List.nodup_range.subperm hs).length_le
    rw [List.length_range] at hlen
    exact absurd hlen (by simpa [Table.keys] using h)

theorem globalFailure_room {s : State} (h : globalFailure s = none) : s.slots.length < 48 := by
  unfold globalFailure at h
  split at h
  · exact absurd h (by simp)
  · split at h
    · exact absurd h (by simp)
    · split at h
      · exact absurd h (by simp)
      · rename_i h3
        simpa [slotCount, occupied] using h3

theorem records_slots {s t : State} (h : OnlyRecords s t) : t.slots = s.slots := by
  unfold OnlyRecords at h
  rw [h]

theorem campaign_slots {s t : State} (h : OnlyCampaign s t) : t.slots = s.slots := by
  unfold OnlyCampaign at h
  rw [h]

theorem blockWaiting_slots (n : Nat) (r : BlockedBy) (s : State) : (blockWaiting n r s).slots = s.slots := by
  unfold blockWaiting
  split
  · exact records_slots (block_only _ _ _)
  · rfl

theorem reserve_slots (n k : Nat) (l : Luminaire) (f : Option (Fin 4)) (s : State)
    (hk : s.slots.lowestFree slotCount = some k) : (reserve n l f s).slots = s.slots.put k (reservedSlot s n l f) := by
  unfold reserve
  rw [hk]
  simp only
  have hq : ∀ v : State, v.slots = s.slots.put k (reservedSlot s n l f) →
      (tellReserved f k v).slots = s.slots.put k (reservedSlot s n l f) := by
    intro v hv
    unfold tellReserved
    split
    · rw [campaign_slots (campaignReserved_only _ _ _)]
      exact hv
    · exact hv
  apply hq
  rw [records_slots (writeItem_only _ _).records, records_slots (putLum_only _ _ _),
    show enqueue l.branch _ _ = _ from enqueue_only _ _ _]

/-- A candidate that is not reserved leaves the slots as they are; one that is takes the lowest FREE one. -/
theorem consider_slots (n : Nat) (f : Option (Fin 4)) (s : State) :
    ((consider n f s).2 = false → (consider n f s).1.slots = s.slots) ∧
      ((consider n f s).2 = true → ∀ k, s.slots.lowestFree slotCount = some k →
        ∃ sl, (consider n f s).1.slots = s.slots.put k sl) := by
  unfold consider
  split
  · simp
  · rename_i l _
    split
    · exact ⟨by simp, fun _ k hk => ⟨_, reserve_slots n k l f s hk⟩⟩
    · refine ⟨fun _ => ?_, by simp⟩
      unfold queueCheck
      rw [records_slots (block_only _ _ _), show enqueue l.branch _ _ = _ from enqueue_only _ _ _]
    · simp
    · exact ⟨fun _ => records_slots (block_only _ _ _), by simp⟩

theorem length_put_free {α : Type} (t : Table α) (k : Nat) (a : α) (h : t.get k = none) :
    (t.put k a).length = t.length + 1 := by
  induction t with
  | nil => rfl
  | cons p t ih =>
    obtain ⟨j, b⟩ := p
    rw [Table.get_cons] at h
    split at h
    · exact absurd h (by simp)
    · rename_i hj
      unfold Table.put
      split
      · rfl
      · split
        · rename_i h2
          exact absurd h2.symm hj
        · rw [List.length_cons, List.length_cons, ih h]

/-- With fuel for every channel and every FREE slot, the campaign part runs to its end. -/
theorem campaignPart_offered (fuel : Nat) (done : List (Fin 4)) (s : State) (hd : done.Nodup)
    (hf : (4 - done.length) + (48 - s.slots.length) < fuel) : CampaignsOffered done s (campaignPart fuel done s) := by
  induction fuel generalizing done s with
  | zero => exact absurd hf (Nat.not_lt_zero _)
  | succ fuel ih =>
    unfold campaignPart
    split
    · rename_i hn
      exact .over done s (nextChannel_none hn)
    · rename_i c hc
      have next := nextChannel_some hc
      have hnd : (c :: done).Nodup := List.nodup_cons.mpr ⟨next.1, hd⟩
      have hlen : (c :: done).length ≤ 4 := by simpa using hnd.length_le_card
      rw [List.length_cons] at hlen
      have hslots := campaign_slots (present_only c s)
      have more : ∀ u : State, u.slots = s.slots →
          CampaignsOffered (c :: done) u (campaignPart fuel (c :: done) u) := fun u hu =>
        ih _ u hnd (by rw [hu, List.length_cons]; omega)
      cases hp : (present c s).2 with
      | none =>
        simp only [hp]
        exact .nothing done s _ _ c next (Prod.ext rfl hp) (more _ hslots)
      | some n =>
        cases hg : globalFailure s with
        | some r =>
          simp only [hp]
          exact .stopped done s _ _ c n r next (Prod.ext rfl hp) hg (more _ ((blockWaiting_slots _ _ _).trans hslots))
        | none =>
          simp only [hp]
          have hroom := globalFailure_room hg
          cases hr : (consider n (some c) (present c s).1).2 with
          | false =>
            refine .passedOver done s _ _ _ c n next (Prod.ext rfl hp) hg (Prod.ext rfl hr) ?_
            simpa [hr] using more _ (((consider_slots _ _ _).1 hr).trans hslots)
          | true =>
            obtain ⟨k, hk⟩ := lowestFree_of_room (present c s).1.slots slotCount (by rw [hslots]; exact hroom)
            obtain ⟨sl, hsl⟩ := (consider_slots n (some c) (present c s).1).2 hr k hk
            have hl := length_put_free _ k sl (Table.lowestFree_spec hk).2
            refine .reserved done s _ _ _ c n next (Prod.ext rfl hp) hg (Prod.ext rfl hr) ?_
            simpa [hr] using ih done _ hd (by rw [hsl, hl, hslots]; omega)

end Sys2Proof.Machine
end

