-- ==== Sys2Proof/Laws/Recalls.lean ====
section
/-! SUPPORT. What a recall of one slot, and of a list of slots, comes to (R105 to R108, R142, R150): `Recalled` for each of them,
`OnlyRecalled` for everything else. -/

namespace Sys2Proof.Machine

/-! ### Branch queues -/

theorem modBranch_at (b : Fin 8) (f : Branch → Branch) (s : State) : (modBranch b f s).branches[b] = f s.branches[b] := by
  simp [modBranch]

theorem modBranch_other (b a : Fin 8) (f : Branch → Branch) (s : State) (h : a ≠ b) :
    (modBranch b f s).branches[a] = s.branches[a] := by
  have hv : (b : Nat) ≠ (a : Nat) := fun hh => h (Fin.ext hh.symm)
  simp [modBranch, Vector.getElem_set_ne, hv]

theorem modLum_slots (n : Nat) (f : Luminaire → Luminaire) (s : State) : (modLum n f s).slots = s.slots := by
  rw [show modLum n f s = _ from modLum_only n f s]

theorem modLum_branches (n : Nat) (f : Luminaire → Luminaire) (s : State) : (modLum n f s).branches = s.branches := by
  rw [show modLum n f s = _ from modLum_only n f s]

theorem enqueue_slots (b : Fin 8) (e : Exchange) (s : State) : (enqueue b e s).slots = s.slots := by
  rw [show enqueue b e s = _ from enqueue_only b e s]

theorem enqueue_luminaires (b : Fin 8) (e : Exchange) (s : State) : (enqueue b e s).luminaires = s.luminaires := by
  rw [show enqueue b e s = _ from enqueue_only b e s]

theorem enqueue_at (b : Fin 8) (e : Exchange) (s : State) (h : s.branches[b].state.works = true) :
    (enqueue b e s).branches[b] = { s.branches[b] with queue := s.branches[b].queue ++ [e] } := by
  unfold enqueue
  rw [if_pos h, modBranch_at]

theorem enqueue_other (b a : Fin 8) (e : Exchange) (s : State) (h : a ≠ b) :
    (enqueue b e s).branches[a] = s.branches[a] := by
  unfold enqueue
  split
  · exact modBranch_other _ _ _ _ h
  · rfl

/-! ### One slot -/

/-- Slot contents once the slot has gone CLOSING (R106). -/
def Slot.closed (sl : Slot) : Slot :=
  { sl with status := .closing, supervision := none, endTimer := none, stopAttempts := 1 }

/-- The state between a slot's going CLOSING and its STOP. -/
def beforeStop (k : Nat) (sl : Slot) (s : State) : State :=
  modLum sl.luminaire (fun l => l.enter .stopping)
    (unqueue sl.branch (isReadOf k sl.luminaire) { s with slots := s.slots.put k sl.closed })

theorem close_eq (k : Nat) (sl : Slot) (s : State) : close k sl s = queueStop k sl.closed (beforeStop k sl s) := rfl

theorem beforeStop_slots (k : Nat) (sl : Slot) (s : State) : (beforeStop k sl s).slots = s.slots.put k sl.closed := by
  unfold beforeStop
  rw [modLum_slots]
  rfl

theorem get_beforeStop (k m : Nat) (sl : Slot) (s : State) : (beforeStop k sl s).luminaires.get m =
    if m = sl.luminaire then (s.luminaires.get sl.luminaire).map (fun l => l.enter .stopping)
    else s.luminaires.get m := by
  unfold beforeStop
  rw [get_modLum]
  rfl

theorem beforeStop_at (k : Nat) (sl : Slot) (s : State) : (beforeStop k sl s).branches[sl.branch] =
    { s.branches[sl.branch] with
      queue := s.branches[sl.branch].queue.filter fun e => !isReadOf k sl.luminaire e } := by
  unfold beforeStop
  rw [modLum_branches]
  exact modBranch_at _ _ _

theorem beforeStop_other (k : Nat) (sl : Slot) (a : Fin 8) (s : State) (h : a ≠ sl.branch) :
    (beforeStop k sl s).branches[a] = s.branches[a] := by
  unfold beforeStop
  rw [modLum_branches]
  exact modBranch_other _ _ _ _ h

theorem queueStop_slots (k : Nat) (sl : Slot) (s : State) : (queueStop k sl s).slots = s.slots := by
  rw [show queueStop k sl s = _ from queueStop_only k sl s]

theorem queueStop_luminaires (k : Nat) (sl : Slot) (s : State) : (queueStop k sl s).luminaires = s.luminaires := by
  rw [show queueStop k sl s = _ from queueStop_only k sl s]

theorem queueStop_other (k : Nat) (sl : Slot) (a : Fin 8) (s : State) (h : a ≠ sl.branch) :
    (queueStop k sl s).branches[a] = s.branches[a] := by
  unfold queueStop
  split
  · exact enqueue_other _ _ _ _ h
  · rfl

/-- A STOP is put at the tail of the slot's branch, or nothing is. -/
theorem queueStop_at (k : Nat) (sl : Slot) (s : State) : ∃ more : List Exchange,
    (queueStop k sl s).branches[sl.branch] =
      { s.branches[sl.branch] with queue := s.branches[sl.branch].queue ++ more } ∧
    (∀ e ∈ more, e.kind = .stop) ∧
    ∀ l, s.luminaires.get sl.luminaire = some l → s.branches[sl.branch].state.works = true →
      more = [stopExchange l.node sl.luminaire (.slot k sl.luminaire) true] := by
  unfold queueStop
  split
  · rename_i l hl
    by_cases hw : s.branches[sl.branch].state.works = true
    · refine ⟨[stopExchange l.node sl.luminaire (.slot k sl.luminaire) true], enqueue_at _ _ _ hw, ?_, ?_⟩
      · intro e he
        rw [List.mem_singleton.mp he]
        rfl
      · intro l' hl' _
        rw [hl] at hl'
        cases hl'
        rfl
    · refine ⟨[], ?_, fun e he => absurd he List.not_mem_nil, fun _ _ hw' => absurd hw' hw⟩
      unfold enqueue
      rw [if_neg hw, List.append_nil]
  · rename_i hn
    refine ⟨[], by rw [List.append_nil], fun e he => absurd he List.not_mem_nil, fun l hl _ => ?_⟩
    rw [hn] at hl
    cases hl

/-- What going CLOSING comes to on the slot's own branch. -/
theorem close_at (k : Nat) (sl : Slot) (b : Fin 8) (s : State) (hb : sl.branch = b) : ∃ more : List Exchange,
    (close k sl s).branches[b] = { s.branches[b] with
      queue := (s.branches[b].queue.filter fun e => !isReadOf k sl.luminaire e) ++ more } ∧
    (∀ e ∈ more, e.kind = .stop) ∧
    ∀ l, s.luminaires.get sl.luminaire = some l → s.branches[b].state.works = true →
      more = [stopExchange l.node sl.luminaire (.slot k sl.luminaire) true] := by
  subst hb
  obtain ⟨more, h1, h2, h3⟩ := queueStop_at k sl.closed (beforeStop k sl s)
  refine ⟨more, ?_, h2, fun l hl hw => ?_⟩
  · rw [close_eq]
    have h := h1
    change (queueStop k sl.closed (beforeStop k sl s)).branches[sl.branch] = _ at h
    rw [h]
    change ({ (beforeStop k sl s).branches[sl.branch] with
      queue := (beforeStop k sl s).branches[sl.branch].queue ++ more } : Branch) = _
    rw [beforeStop_at]
  · have h := h3 (l.enter .stopping) (by
      change (beforeStop k sl s).luminaires.get sl.luminaire = _
      rw [get_beforeStop, if_pos rfl, hl]
      rfl) (by
      change (beforeStop k sl s).branches[sl.branch].state.works = true
      rw [beforeStop_at]
      exact hw)
    rw [h]
    have hnode : (l.enter .stopping).node = l.node := by
      unfold Luminaire.enter
      split <;> rfl
    rw [hnode]
    rfl

theorem close_slots (k : Nat) (sl : Slot) (s : State) : (close k sl s).slots = s.slots.put k sl.closed := by
  rw [close_eq, queueStop_slots, beforeStop_slots]

theorem get_close (k m : Nat) (sl : Slot) (s : State) : (close k sl s).luminaires.get m =
    if m = sl.luminaire then (s.luminaires.get sl.luminaire).map (fun l => l.enter .stopping)
    else s.luminaires.get m := by
  rw [close_eq, queueStop_luminaires, get_beforeStop]

theorem close_other (k : Nat) (sl : Slot) (a : Fin 8) (s : State) (h : a ≠ sl.branch) :
    (close k sl s).branches[a] = s.branches[a] := by
  rw [close_eq, queueStop_other _ _ _ _ (by exact h), beforeStop_other _ _ _ _ h]

/-! ### A recall of one slot -/

/-- The recalled slot's contents when it was RUNNING (R106). -/
def Slot.recalled (sl : Slot) (r : RecallReason) (s : State) : Slot := (sl.fix r.outcome (elapsedNow s sl)).closed

theorem fix_luminaire (sl : Slot) (o : TestOutcome) (m : Nat) : (sl.fix o m).luminaire = sl.luminaire := by
  unfold Slot.fix
  split <;> rfl

theorem fix_branch (sl : Slot) (o : TestOutcome) (m : Nat) : (sl.fix o m).branch = sl.branch := by
  unfold Slot.fix
  split <;> rfl

theorem recalled_eq (sl : Slot) (r : RecallReason) (s : State) : sl.recalled r s = { sl with
    status := .closing, supervision := none, endTimer := none, stopAttempts := 1
    outcome := some (sl.outcome.getD r.outcome)
    elapsedMinutes := if sl.outcome.isSome then sl.elapsedMinutes else some (elapsedNow s sl) } := by
  unfold Slot.recalled Slot.fix Slot.closed
  cases h : sl.outcome <;> simp [h]

theorem recallSlot_none (r : RecallReason) (k : Nat) (s : State) (h : s.slots.get k = none) : recallSlot r k s = s := by
  unfold recallSlot
  rw [h]

theorem recallSlot_reserved (r : RecallReason) (k : Nat) (sl : Slot) (s : State) (h : s.slots.get k = some sl)
    (hs : sl.status = .reserved) : recallSlot r k s =
      modLum sl.luminaire (fun l => { l with cancelPending := some (l.cancelPending.getD r) }) s := by
  unfold recallSlot
  rw [h]
  simp only [hs]

theorem recallSlot_running (r : RecallReason) (k : Nat) (sl : Slot) (s : State) (h : s.slots.get k = some sl)
    (hs : sl.status = .running) : recallSlot r k s = close k (sl.fix r.outcome (elapsedNow s sl)) s := by
  unfold recallSlot
  rw [h]
  simp only [hs]

theorem recallSlot_closing (r : RecallReason) (k : Nat) (sl : Slot) (s : State) (h : s.slots.get k = some sl)
    (hs : sl.status = .closing) : recallSlot r k s = s := by
  unfold recallSlot
  rw [h]
  simp only [hs]

/-- A recall leaves every slot's luminaire and branch, and makes none RUNNING. -/
def SlotsKept (s t : State) : Prop :=
  ∀ j sl', t.slots.get j = some sl' → ∃ sl, s.slots.get j = some sl ∧ sl.luminaire = sl'.luminaire ∧
    sl.branch = sl'.branch ∧ (sl'.status = .running → sl.status = .running)

theorem SlotsKept.same {s t : State} (h : t.slots = s.slots) : SlotsKept s t := by
  intro j sl' hj
  rw [h] at hj
  exact ⟨sl', hj, rfl, rfl, id⟩

theorem SlotsKept.trans {s t u : State} (h1 : SlotsKept s t) (h2 : SlotsKept t u) : SlotsKept s u := by
  intro j sl' hj
  obtain ⟨sl1, a1, a2, a3, a4⟩ := h2 j sl' hj
  obtain ⟨sl2, b1, b2, b3, b4⟩ := h1 j sl1 a1
  exact ⟨sl2, b1, b2.trans a2, b3.trans a3, fun h => b4 (a4 h)⟩

theorem recallSlot_slots (r : RecallReason) (k j : Nat) (s : State) (h : j ≠ k) :
    (recallSlot r k s).slots.get j = s.slots.get j := by
  cases hk : s.slots.get k with
  | none => rw [recallSlot_none r k s hk]
  | some sl =>
    cases hs : sl.status with
    | reserved => rw [recallSlot_reserved r k sl s hk hs, modLum_slots]
    | running =>
      rw [recallSlot_running r k sl s hk hs, close_slots]
      exact Table.get_put_other _ _ h
    | closing => rw [recallSlot_closing r k sl s hk hs]

theorem recallSlot_kept (r : RecallReason) (k : Nat) (s : State) : SlotsKept s (recallSlot r k s) := by
  intro j sl' hj
  by_cases hjk : j = k
  · subst hjk
    cases hk : s.slots.get j with
    | none =>
      rw [recallSlot_none r j s hk, hk] at hj
      cases hj
    | some sl =>
      cases hs : sl.status with
      | reserved =>
        rw [recallSlot_reserved r j sl s hk hs, modLum_slots, hk] at hj
        cases hj
        exact ⟨_, rfl, rfl, rfl, id⟩
      | running =>
        rw [recallSlot_running r j sl s hk hs, close_slots, Table.get_put_self] at hj
        cases hj
        exact ⟨sl, rfl, (fix_luminaire _ _ _).symm, (fix_branch _ _ _).symm, fun h => by cases h⟩
      | closing =>
        rw [recallSlot_closing r j sl s hk hs, hk] at hj
        cases hj
        exact ⟨_, rfl, rfl, rfl, id⟩
  · rw [recallSlot_slots r k j s hjk] at hj
    exact ⟨sl', hj, rfl, rfl, id⟩

theorem OnlyRecalled.rfl' (ks : List Nat) (s : State) : OnlyRecalled ks s s :=
  ⟨fun _ _ => rfl, fun _ _ => rfl, fun _ => ⟨rfl, fun _ he _ => he, fun _ => rfl⟩⟩

theorem recallSlot_only_recalled (r : RecallReason) (k : Nat) (s : State) : OnlyRecalled [k] s (recallSlot r k s) := by
  cases hk : s.slots.get k with
  | none =>
    rw [recallSlot_none r k s hk]
    exact OnlyRecalled.rfl' _ _
  | some sl =>
    refine ⟨fun j hj => recallSlot_slots r k j s fun h => hj (h ▸ List.mem_singleton_self j), fun n hn => ?_, fun b => ?_⟩
    · have hne : n ≠ sl.luminaire := fun h => hn k (List.mem_singleton_self k) sl hk h.symm
      cases hs : sl.status with
      | reserved => rw [recallSlot_reserved r k sl s hk hs, get_modLum, if_neg hne]
      | running => rw [recallSlot_running r k sl s hk hs, get_close, fix_luminaire, if_neg hne]
      | closing => rw [recallSlot_closing r k sl s hk hs]
    · cases hs : sl.status with
      | reserved =>
        rw [recallSlot_reserved r k sl s hk hs, modLum_branches]
        exact ⟨rfl, fun _ he _ => he, fun _ => rfl⟩
      | closing =>
        rw [recallSlot_closing r k sl s hk hs]
        exact ⟨rfl, fun _ he _ => he, fun _ => rfl⟩
      | running =>
        rw [recallSlot_running r k sl s hk hs]
        by_cases hb : b = sl.branch
        · obtain ⟨more, h1, -, -⟩ := close_at k (sl.fix r.outcome (elapsedNow s sl)) b s (by rw [fix_branch, hb])
          rw [h1]
          refine ⟨rfl, fun e he hno => ?_, fun hno => absurd hb.symm (hno k (List.mem_singleton_self k) sl hk hs)⟩
          refine List.mem_append_left _ (List.mem_filter.mpr ⟨he, ?_⟩)
          rw [fix_luminaire, hno k (List.mem_singleton_self k) sl hk]
          rfl
        · have hb' : b ≠ (sl.fix r.outcome (elapsedNow s sl)).branch := by
            rw [fix_branch]
            exact hb
          rw [close_other k _ b s hb']
          exact ⟨rfl, fun _ he _ => he, fun _ => rfl⟩

theorem OnlyRecalled.cons {k : Nat} {ks : List Nat} {s t u : State} (h1 : OnlyRecalled [k] s t) (hk : SlotsKept s t)
    (h2 : OnlyRecalled ks t u) : OnlyRecalled (k :: ks) s u := by
  have lift : ∀ {P : Slot → Prop}, (∀ j ∈ k :: ks, ∀ sl, s.slots.get j = some sl → P sl) →
      ∀ j ∈ [k], ∀ sl, s.slots.get j = some sl → P sl := by
    intro P h j hj
    rw [List.mem_singleton.mp hj]
    exact h k List.mem_cons_self
  refine ⟨fun j hj => ?_, fun n hn => ?_, fun b => ⟨?_, fun e he hno => ?_, fun hno => ?_⟩⟩
  · have ha : j ∉ ks := fun h => hj (List.mem_cons_of_mem k h)
    have hb : j ∉ [k] := fun h => hj (List.mem_singleton.mp h ▸ List.mem_cons_self)
    rw [h2.1 j ha, h1.1 j hb]
  · rw [h2.2.1 n fun j hj sl' hsl' => ?_, h1.2.1 n (lift hn)]
    obtain ⟨sl, a1, a2, -, -⟩ := hk j sl' hsl'
    rw [← a2]
    exact hn j (List.mem_cons_of_mem k hj) sl a1
  · rw [(h2.2.2 b).1, (h1.2.2 b).1]
  · refine (h2.2.2 b).2.1 e ((h1.2.2 b).2.1 e he fun j hj sl hsl => ?_) fun j hj sl' hsl' => ?_
    · rw [List.mem_singleton.mp hj] at hsl ⊢
      exact hno k List.mem_cons_self sl hsl
    · obtain ⟨sl, a1, a2, -, -⟩ := hk j sl' hsl'
      rw [← a2]
      exact hno j (List.mem_cons_of_mem k hj) sl a1
  · rw [(h2.2.2 b).2.2 fun j hj sl' hsl' hr => ?_, (h1.2.2 b).2.2 (lift hno)]
    obtain ⟨sl, a1, -, a3, a4⟩ := hk j sl' hsl'
    rw [← a3]
    exact hno j (List.mem_cons_of_mem k hj) sl a1 (a4 hr)

/-- A recall of a list of slots changes those slots, their luminaires and their branches' queues alone (R142, R150). -/
theorem recallAll_only_recalled (r : RecallReason) (ks : List Nat) (s : State) : OnlyRecalled ks s (recallAll r ks s) := by
  induction ks generalizing s with
  | nil => exact OnlyRecalled.rfl' _ _
  | cons k ks ih => exact (recallSlot_only_recalled r k s).cons (recallSlot_kept r k s) (ih _)

/-! ### What each recalled slot comes to -/

/-- Slot `k`, holding luminaire `n` on branch `b`, is as the recall needs it: no other slot holds `n`, and the branch works. -/
structure Recallable (k n : Nat) (b : Fin 8) (s : State) : Prop where
  alone : ∀ j sl, s.slots.get j = some sl → j ≠ k → sl.luminaire ≠ n
  works : s.branches[b].state.works = true

theorem Recallable.step {k n : Nat} {b : Fin 8} {s : State} (h : Recallable k n b s) (r : RecallReason) (j : Nat) :
    Recallable k n b (recallSlot r j s) where
  alone := fun i sl' hi hik => by
    obtain ⟨sl, a1, a2, -, -⟩ := recallSlot_kept r j s i sl' hi
    rw [← a2]
    exact h.alone i sl a1 hik
  works := by
    rw [((recallSlot_only_recalled r j s).2.2 b).1]
    exact h.works

/-- A recall of another slot leaves slot `k` and its luminaire, keeps what is no READ of the other in the queue, and adds no READ. -/
theorem recallSlot_apart (r : RecallReason) {j k n : Nat} {b : Fin 8} {s : State} (h : Recallable k n b s) (hj : j ≠ k) :
    (recallSlot r j s).slots.get k = s.slots.get k ∧ (recallSlot r j s).luminaires.get n = s.luminaires.get n ∧
    (∀ e ∈ s.branches[b].queue, e.kind = .stop → e ∈ (recallSlot r j s).branches[b].queue) ∧
    ∀ e ∈ (recallSlot r j s).branches[b].queue, e ∈ s.branches[b].queue ∨ e.kind = .stop := by
  have ho := recallSlot_only_recalled r j s
  refine ⟨recallSlot_slots r j k s (Ne.symm hj), ho.2.1 n fun i hi sl hsl => ?_, fun e he hke => ?_, fun e he => ?_⟩
  · rw [List.mem_singleton.mp hi] at hsl
    exact h.alone j sl hsl hj
  · refine (ho.2.2 b).2.1 e he fun i _ sl _ => ?_
    unfold isReadOf
    rw [hke]
    rfl
  · cases hk : s.slots.get j with
    | none =>
      rw [recallSlot_none r j s hk] at he
      exact Or.inl he
    | some sl =>
      cases hs : sl.status with
      | reserved =>
        rw [recallSlot_reserved r j sl s hk hs, modLum_branches] at he
        exact Or.inl he
      | closing =>
        rw [recallSlot_closing r j sl s hk hs] at he
        exact Or.inl he
      | running =>
        rw [recallSlot_running r j sl s hk hs] at he
        by_cases hb : b = sl.branch
        · obtain ⟨more, h1, h2, -⟩ := close_at j (sl.fix r.outcome (elapsedNow s sl)) b s (by rw [fix_branch, hb])
          rw [h1] at he
          rcases List.mem_append.mp he with h3 | h3
          · exact Or.inl (List.mem_filter.mp h3).1
          · exact Or.inr (h2 e h3)
        · have hb' : b ≠ (sl.fix r.outcome (elapsedNow s sl)).branch := by
            rw [fix_branch]
            exact hb
          rw [close_other j _ b s hb'] at he
          exact Or.inl he

/-- The recalled slot itself. -/
theorem recallSlot_recalled (r : RecallReason) {k : Nat} {sl : Slot} {s : State} (h : s.slots.get k = some sl)
    (hw : s.branches[sl.branch].state.works = true)
    (hl : ∀ l, s.luminaires.get sl.luminaire = some l → sl.status = .running → l.state = .testing) :
    Recalled r k sl s (recallSlot r k s) := by
  refine ⟨fun hs => ?_, fun hs => ?_, fun hs => ?_⟩
  · rw [recallSlot_reserved r k sl s h hs, modLum_slots]
    refine ⟨h, fun l hg => ?_⟩
    rw [get_modLum, if_pos rfl, hg]
    rfl
  · rw [recallSlot_running r k sl s h hs]
    obtain ⟨more, h1, h2, h3⟩ := close_at k (sl.fix r.outcome (elapsedNow s sl)) sl.branch s (fix_branch _ _ _)
    rw [fix_luminaire] at h1 h3
    refine ⟨?_, fun e he => ?_, fun l hg => ⟨?_, ?_⟩⟩
    · rw [close_slots, Table.get_put_self, ← recalled_eq]
      rfl
    · rw [h1] at he
      rcases List.mem_append.mp he with h4 | h4
      · have h5 := (List.mem_filter.mp h4).2
        cases hx : isReadOf k sl.luminaire e with
        | false => rfl
        | true =>
          rw [hx] at h5
          cases h5
      · unfold isReadOf
        rw [h2 e h4]
        rfl
    · rw [get_close, fix_luminaire, if_pos rfl, hg, Option.map_some]
      unfold Luminaire.enter
      rw [hl l hg hs]
      rfl
    · rw [h1, h3 l hg hw]
      exact List.mem_append_right _ (List.mem_singleton_self _)
  · rw [recallSlot_closing r k sl s h hs]
    exact ⟨h, rfl⟩

/-- A further recall of any slot leaves what the slot's recall came to. -/
theorem Recalled.step {r : RecallReason} {k : Nat} {sl : Slot} {s t : State} (h : Recalled r k sl s t)
    (hf : Recallable k sl.luminaire sl.branch t) (j : Nat) : Recalled r k sl s (recallSlot r j t) := by
  by_cases hj : j = k
  · subst hj
    cases hs : sl.status with
    | reserved =>
      obtain ⟨h1, h2⟩ := h.1 hs
      refine ⟨fun _ => ?_, fun h' => ?_, fun h' => ?_⟩
      · rw [recallSlot_reserved r j sl t h1 hs, modLum_slots]
        refine ⟨h1, fun l hl => ?_⟩
        rw [get_modLum, if_pos rfl, h2 l hl]
        rfl
      · rw [hs] at h'
        cases h'
      · rw [hs] at h'
        cases h'
    | running =>
      rw [recallSlot_closing r j _ t (h.2.1 hs).1 rfl]
      exact h
    | closing =>
      rw [recallSlot_closing r j sl t (h.2.2 hs).1 hs]
      exact h
  · obtain ⟨a1, a2, a3, a4⟩ := recallSlot_apart r hf hj
    refine ⟨fun hs => ?_, fun hs => ?_, fun hs => ?_⟩
    · rw [a1, a2]
      exact h.1 hs
    · obtain ⟨b1, b2, b3⟩ := h.2.1 hs
      rw [a1, a2]
      refine ⟨b1, fun e he => ?_, fun l hl => ⟨(b3 l hl).1, a3 _ (b3 l hl).2 rfl⟩⟩
      rcases a4 e he with h5 | h5
      · exact b2 e h5
      · unfold isReadOf
        rw [h5]
        rfl
    · rw [a1, a2]
      exact h.2.2 hs

theorem Recalled.steps {r : RecallReason} {k : Nat} {sl : Slot} {s : State} (ks : List Nat) {t : State}
    (h : Recalled r k sl s t) (hf : Recallable k sl.luminaire sl.branch t) : Recalled r k sl s (recallAll r ks t) := by
  induction ks generalizing t with
  | nil => exact h
  | cons j ks ih => exact ih (h.step hf j) (hf.step r j)

/-- A recall of a list of slots: what each slot of the list comes to (R105 to R108, R142, R150). -/
theorem recallAll_recalled (r : RecallReason) {k : Nat} {sl : Slot} (ks : List Nat) {s : State} (hk : k ∈ ks)
    (h : s.slots.get k = some sl) (hf : Recallable k sl.luminaire sl.branch s)
    (hl : ∀ l, s.luminaires.get sl.luminaire = some l → sl.status = .running → l.state = .testing) :
    Recalled r k sl s (recallAll r ks s) := by
  induction ks generalizing s with
  | nil => exact absurd hk List.not_mem_nil
  | cons j ks ih =>
    by_cases hj : j = k
    · rw [hj]
      exact (recallSlot_recalled r h hf.works hl).steps ks (hf.step r k)
    · obtain ⟨a1, a2, -, -⟩ := recallSlot_apart r hf hj
      have hin : k ∈ ks := by
        rcases List.mem_cons.mp hk with h1 | h1
        · exact absurd h1.symm hj
        · exact h1
      have hi := ih hin (a1.trans h) (hf.step r j) (fun l hg => hl l (a2 ▸ hg))
      have hc : elapsedNow (recallSlot r j s) sl = elapsedNow s sl := by
        unfold elapsedNow
        rw [show recallSlot r j s = _ from recallSlot_only r j s]
      unfold Recalled at hi ⊢
      rw [a2, hc] at hi
      exact hi

/-! ### The schedule list -/

theorem putLum_schedule (n : Nat) (new : Option Luminaire) (s : State)
    (h : listKey (s.luminaires.get n) = listKey new) : (putLum n new s).schedule = s.schedule := by
  unfold putLum relist
  rw [triggerIf_schedule, if_pos h]
  rfl

theorem modLum_schedule (n : Nat) (f : Luminaire → Luminaire) (s : State)
    (h : ∀ l, s.luminaires.get n = some l → listKey (some l) = listKey (some (f l))) :
    (modLum n f s).schedule = s.schedule := by
  unfold modLum
  split
  · rename_i l hl
    exact putLum_schedule n _ s (by rw [hl]; exact h l hl)
  · rfl

/-- Every occupied slot's luminaire stands outside the schedule list's states (R86). -/
def SlotsOutOfList (s : State) : Prop :=
  ∀ j sl l, s.slots.get j = some sl → s.luminaires.get sl.luminaire = some l → l.state.waits = false

/-- Recalls leave the schedule list as it was. -/
theorem recallAll_schedule (r : RecallReason) (ks : List Nat) (s : State) (h : SlotsOutOfList s) :
    (recallAll r ks s).schedule = s.schedule := by
  induction ks generalizing s with
  | nil => rfl
  | cons k ks ih =>
    have hone : (recallSlot r k s).schedule = s.schedule ∧ ∀ n l', (recallSlot r k s).luminaires.get n = some l' →
        ∃ l, s.luminaires.get n = some l ∧ (l.state.waits = false → l'.state.waits = false) := by
      cases hk : s.slots.get k with
      | none =>
        rw [recallSlot_none r k s hk]
        exact ⟨rfl, fun n l' hl => ⟨l', hl, id⟩⟩
      | some sl =>
        have hw := fun l hl => h k sl l hk hl
        cases hs : sl.status with
        | closing =>
          rw [recallSlot_closing r k sl s hk hs]
          exact ⟨rfl, fun n l' hl => ⟨l', hl, id⟩⟩
        | reserved =>
          rw [recallSlot_reserved r k sl s hk hs]
          refine ⟨modLum_schedule _ _ _ fun l _ => rfl, fun n l' hl => ?_⟩
          rw [get_modLum] at hl
          split at hl
          · rename_i hn
            obtain ⟨l, h1, rfl⟩ := Option.map_eq_some_iff.mp hl
            exact ⟨l, hn ▸ h1, id⟩
          · exact ⟨l', hl, id⟩
        | running =>
          rw [recallSlot_running r k sl s hk hs]
          refine ⟨?_, fun n l' hl => ?_⟩
          · rw [close_eq, show queueStop k _ (beforeStop k _ s) = _ from queueStop_only k _ (beforeStop k _ s)]
            refine modLum_schedule _ _ _ fun l hl => ?_
            have hl' : s.luminaires.get sl.luminaire = some l := by
              rw [← fix_luminaire sl r.outcome (elapsedNow s sl)]
              exact hl
            unfold listKey
            simp only [Option.bind_some, hw l hl', enter_state]
            rfl
          · rw [get_close] at hl
            split at hl
            · rename_i hn
              obtain ⟨l, h1, rfl⟩ := Option.map_eq_some_iff.mp hl
              refine ⟨l, hn ▸ h1, fun _ => ?_⟩
              rw [enter_state]
              rfl
            · exact ⟨l', hl, id⟩
    refine (ih (recallSlot r k s) fun j sl' l' hj hl' => ?_).trans hone.1
    obtain ⟨sl, a1, a2, -, -⟩ := recallSlot_kept r k s j sl' hj
    obtain ⟨l, b1, b2⟩ := hone.2 _ l' hl'
    exact b2 (h j sl l a1 (a2 ▸ b1))

end Sys2Proof.Machine
end

