-- ==== Sys2Proof/Laws/Releases.lean ====
section
/-! SUPPORT. What a release without a result comes to (R89, R90, R92, R170): the slot, the luminaires, the results, the
trigger. -/

namespace Sys2Proof.Machine

theorem tellReleased_luminaires (o : Origin) (k : Nat) (b : Bool) (s : State) :
    (tellReleased o k b s).luminaires = s.luminaires := by
  rw [show tellReleased o k b s = _ from tellReleased_only o k b s]

theorem tellReleased_slots (o : Origin) (k : Nat) (b : Bool) (s : State) : (tellReleased o k b s).slots = s.slots := by
  rw [show tellReleased o k b s = _ from tellReleased_only o k b s]

theorem tellReleased_results (o : Origin) (k : Nat) (b : Bool) (s : State) :
    (tellReleased o k b s).results = s.results := by
  rw [show tellReleased o k b s = _ from tellReleased_only o k b s]

/-- The state in which a release without a result has written the luminaire's item. -/
def writtenRelease (k : Nat) (sl : Slot) (s : State) : State :=
  writeItem (.luminaire sl.luminaire) (modLum sl.luminaire (fun l => l.releasedWithout s) (freeSlot k sl s))

theorem releaseWithout_eq (k : Nat) (sl : Slot) (s : State) (h : s.slots.get k = some sl) : releaseWithout k s =
    triggerPass (tellReleased sl.origin k false (checkOverdue sl.luminaire (writtenRelease k sl s))) := by
  unfold releaseWithout
  rw [h]
  rfl

theorem writtenRelease_records (k : Nat) (sl : Slot) (s : State) : OnlyRecords (freeSlot k sl s) (writtenRelease k sl s) :=
  (modLum_only _ _ _).trans (writeItem_only _ _).records

theorem checkedRelease_records (k : Nat) (sl : Slot) (s : State) :
    OnlyRecords (freeSlot k sl s) (checkOverdue sl.luminaire (writtenRelease k sl s)) :=
  (writtenRelease_records k sl s).trans (checkOverdue_only _ _)

/-- The slot becomes FREE. -/
theorem releaseWithout_slots (k : Nat) (sl : Slot) (s : State) (h : s.slots.get k = some sl) :
    (releaseWithout k s).slots = s.slots.drop k := by
  rw [releaseWithout_eq k sl s h, triggerPass_slots, tellReleased_slots,
    show checkOverdue sl.luminaire (writtenRelease k sl s) = _ from checkedRelease_records k sl s]
  rfl

/-- No result is queued. -/
theorem releaseWithout_results (k : Nat) (s : State) : (releaseWithout k s).results = s.results := by
  cases h : s.slots.get k with
  | none =>
    unfold releaseWithout
    rw [h]
  | some sl =>
    rw [releaseWithout_eq k sl s h, triggerPass_results, tellReleased_results,
      show checkOverdue sl.luminaire (writtenRelease k sl s) = _ from checkedRelease_records k sl s]
    rfl

/-- A release is a trigger. -/
theorem releaseWithout_trigger (k : Nat) (sl : Slot) (s : State) (h : s.slots.get k = some sl) :
    (releaseWithout k s).trigger = true := by
  rw [releaseWithout_eq k sl s h]
  exact Bool.or_true _

/-- The luminaire is left as R92 says, with an overdue notice that was due raised; no other record changes. -/
theorem get_releaseWithout (k m : Nat) (sl : Slot) (s : State) (h : s.slots.get k = some sl) :
    (releaseWithout k s).luminaires.get m =
      if m = sl.luminaire then (s.luminaires.get sl.luminaire).map fun l => overdueDone s (l.releasedWithout s)
      else s.luminaires.get m := by
  have hs : SameClock s (writtenRelease k sl s) := OnlyRecords.sameClock (s := freeSlot k sl s) (writtenRelease_records k sl s)
  rw [releaseWithout_eq k sl s h, triggerPass_luminaires, tellReleased_luminaires, get_checkOverdue]
  unfold writtenRelease at hs ⊢
  simp only [writeItem_luminaires, get_modLum, if_true, Option.map_map, Function.comp_def, overdueDone_same hs]
  by_cases hm : m = sl.luminaire
  · simp only [hm, if_true]
    rfl
  · simp only [hm, if_false]
    rfl

/-! ### With a hold-off -/

/-- The luminaire's record before such a release (R64, R89). -/
def heldRecord (s : State) (l : Luminaire) : Luminaire := { l.withHoldOff s with cancelPending := none }

theorem releaseHeldOff_eq (k : Nat) (sl : Slot) (s : State) (h : s.slots.get k = some sl) :
    releaseHeldOff k s = releaseWithout k (modLum sl.luminaire (heldRecord s) s) := by
  unfold releaseHeldOff
  rw [h]
  rfl

theorem releaseHeldOff_slots (k : Nat) (sl : Slot) (s : State) (h : s.slots.get k = some sl) :
    (releaseHeldOff k s).slots = s.slots.drop k := by
  rw [releaseHeldOff_eq k sl s h, releaseWithout_slots k sl _ (by rw [modLum_slots]; exact h), modLum_slots]

theorem releaseHeldOff_results (k : Nat) (sl : Slot) (s : State) (h : s.slots.get k = some sl) :
    (releaseHeldOff k s).results = s.results := by
  rw [releaseHeldOff_eq k sl s h, releaseWithout_results, show modLum sl.luminaire (heldRecord s) s = _ from modLum_only _ _ _]

theorem releaseHeldOff_trigger (k : Nat) (sl : Slot) (s : State) (h : s.slots.get k = some sl) :
    (releaseHeldOff k s).trigger = true := by
  rw [releaseHeldOff_eq k sl s h]
  exact releaseWithout_trigger k sl _ (by rw [modLum_slots]; exact h)

theorem get_releaseHeldOff (k m : Nat) (sl : Slot) (s : State) (h : s.slots.get k = some sl) :
    (releaseHeldOff k s).luminaires.get m =
      if m = sl.luminaire then
        (s.luminaires.get sl.luminaire).map fun l => overdueDone s ((heldRecord s l).releasedWithout s)
      else s.luminaires.get m := by
  have hs : SameClock s (modLum sl.luminaire (heldRecord s) s) := OnlyRecords.sameClock (modLum_only _ _ _)
  have hr : ∀ l : Luminaire, l.releasedWithout (modLum sl.luminaire (heldRecord s) s) = l.releasedWithout s := by
    intro l
    unfold Luminaire.releasedWithout
    rw [waitState_same hs]
  rw [releaseHeldOff_eq k sl s h, get_releaseWithout k m sl _ (by rw [modLum_slots]; exact h)]
  simp only [get_modLum, if_true, Option.map_map, Function.comp_def, overdueDone_same hs, hr]
  by_cases hm : m = sl.luminaire
  · simp only [hm, if_true]
  · simp only [hm, if_false]

end Sys2Proof.Machine
end

