-- ==== Sys2Proof/WellFormed.lean ====
section
/-! DEFINITION. Which commands can be commands at all: a body fits its frame (R192), numbers are in the part's ranges, a
discarded frame is one the receiver discards, an unknown kind is not in the catalogue. -/

namespace Sys2Proof

/-- A request body fits a host frame (R192). -/
def bodyFits (body : List Byte) : Bool := body.length ≤ maxBody

/-- A luminaire number (R1). -/
def isLuminaire (n : Nat) : Bool := n < luminairePositions

/-- A slot number (R85). -/
def isSlot (n : Nat) : Bool := n < slotCount

/-- A branch number (R157). -/
def isBranch (n : Nat) : Bool := n < 8

/-- A window entry number (R49). -/
def isWindow (n : Nat) : Bool := n < 32

/-- A blackout entry number (R51). -/
def isBlackout (n : Nat) : Bool := n < 24

/-- A node answer frame is at least its start byte and at most 39 bytes long (R203). -/
def isNodeFrame (bytes : List Byte) : Bool := 0 < bytes.length && bytes.length ≤ 39

/-- The command can be a command of the part. -/
def WellFormed : Instr → Bool
  | .status _ body => bodyFits body
  | .ident _ body => bodyFits body
  | .setParam _ body => bodyFits body
  | .getParam _ body => bodyFits body
  | .enrol _ body => bodyFits body
  | .withdraw _ body => bodyFits body
  | .amend _ body => bodyFits body
  | .setDue _ body => bodyFits body
  | .setOutOfService _ body => bodyFits body
  | .returnToService _ body => bodyFits body
  | .clearFaults _ body => bodyFits body
  | .readLuminaire _ body => bodyFits body
  | .setClass _ body => bodyFits body
  | .readClass _ body => bodyFits body
  | .defineGroup _ body => bodyFits body
  | .dropGroup _ body => bodyFits body
  | .readGroup _ body => bodyFits body
  | .setTime _ body => bodyFits body
  | .setWindow _ body => bodyFits body
  | .clearWindow _ body => bodyFits body
  | .readWindow _ body => bodyFits body
  | .setBlackout _ body => bodyFits body
  | .clearBlackout _ body => bodyFits body
  | .readBlackout _ body => bodyFits body
  | .setMode _ body => bodyFits body
  | .readCalendar _ body => bodyFits body
  | .readSlot _ body => bodyFits body
  | .stopTest _ body => bodyFits body
  | .campaignLoad _ body => bodyFits body
  | .campaignStart _ body => bodyFits body
  | .campaignPause _ body => bodyFits body
  | .campaignResume _ body => bodyFits body
  | .campaignStop _ body => bodyFits body
  | .setStopPosition _ body => bodyFits body
  | .campaignStatus _ body => bodyFits body
  | .schedStart _ body => bodyFits body
  | .schedSuspend _ body => bodyFits body
  | .branchEnable _ body => bodyFits body
  | .branchDisable _ body => bodyFits body
  | .branchDirectEnter _ body => bodyFits body
  | .branchDirectLeave _ body => bodyFits body
  | .nodeExchange _ body => bodyFits body
  | .branchStatus _ body => bodyFits body
  | .takeResults _ body => bodyFits body
  | .takeNotices _ body => bodyFits body
  | .setNoticeMask _ body => bodyFits body
  | .readNoticeMask _ body => bodyFits body
  | .restart _ body => bodyFits body
  | .unknownKind kind _ body => bodyFits body && !catalogue.contains kind
  | .frameDiscarded bytes => discardable bytes
  | .frameGapTimeout => true
  | .frameHeld _ _ body => bodyFits body
  | .replySent => true
  | .emgAssertion => true
  | .emgRelease => true
  | .resetAssertion _ => true
  | .startUp => true
  | .powerLoss _ => true
  | .stalenessExpiry => true
  | .recoveryHoldOffExpiry => true
  | .bandLifetimeExpiry n => isLuminaire n
  | .supervisionTimerExpiry k => isSlot k
  | .endTimerExpiry k => isSlot k
  | .answerTimeout b => isBranch b
  | .nodeFrameByteGap b => isBranch b
  | .chatterEvent b => isBranch b
  | .dueTimeArrival n => isLuminaire n
  | .overdueThresholdArrival n => isLuminaire n
  | .holdOffEnd n => isLuminaire n
  | .rechargeUntilArrival n => isLuminaire n
  | .windowBoundaryArrival e => isWindow e
  | .blackoutBoundaryArrival e => isBlackout e
  | .exchangeSend b => isBranch b
  | .nodeAnswerFrame b bytes => isBranch b && isNodeFrame bytes
  | .startOfFrame _ => true
  | .answerFirstByte b => isBranch b

end Sys2Proof
end

