-- ==== Sys2Proof/Tests/Slice0.lean ====
section
/-! SUPPORT. The author's tests: ill-formed commands that WellFormed refuses, single commands on small states, and for every
statement with hypotheses a concrete state and operands that meet them, clause by clause, at the bounds of their ranges. -/

namespace Sys2Proof.Tests

open Sys2Proof Sys2Proof.Machine

/-! ### Small states -/

/-- The state a command leads to. -/
def after (c : Instr) (s : State) : State :=
  match exec c s with
  | .next t => t
  | _ => s

/-- Luminaire 7: branch 2, node 5, class 0, group 60, due at 1000, last read NORMAL. -/
def lamp (st : LumState) : Luminaire :=
  { branch := 2, node := 5, cls := 0, groups := [60], state := st, due := 1000, band := .normal
    openMarker := st.holdsSlot }

/-- Luminaire 7 alone, at campus time 2000. -/
def site (st : LumState) : State :=
  { campus := 2000, quality := .set, staleness := some 1000, ownCount := 50, luminaires := [(7, lamp st)]
    groups := [(60, ⟨2, [7], if st.waits then 0 else 1⟩)], schedule := if st.waits then [7] else [] }

/-- Luminaire 7 changed by `f`. -/
def siteWith (st : LumState) (f : Luminaire → Luminaire) : State := { site st with luminaires := [(7, f (lamp st))] }

/-- Slot 4 holds luminaire 7's test. -/
def test4 (status : SlotStatus) : Slot :=
  { status := status, luminaire := 7, branch := 2, origin := .periodic, rated := 180, normalMin := 3300, warmMin := 3250
    bandAtStart := .normal }

/-- Luminaire 7 under test in slot 4. -/
def underTest (status : SlotStatus) (f : Slot → Slot) : State :=
  { site status.pairs with slots := [(4, f (test4 status))] }

/-- Branch 2 as given. -/
def onBranch (br : Branch) (s : State) : State := { s with branches := s.branches.set 2 br }

/-- Branch 2 with an exchange in flight. -/
def inFlight (e : Exchange) (sends : Nat) (s : State) : State := onBranch { inFlight := some ⟨e, sends, 60, false⟩ } s

/-- Channel 1 as given. -/
def onChannel (ch : Channel) (s : State) : State := { s with channels := s.channels.set 1 ch }

/-- An open window: every day, every mode, round the clock. -/
def alwaysOpen : Table WindowEntry := [(0, ⟨127, 0, 0, 7⟩)]

/-- Luminaire 7 is due, the scheduler ACTIVE, the window open. -/
def placing : State := { site .due with sched := .active, resumeTo := .active, windows := alwaysOpen, windowOpen := true }

/-- A NODE-EXCHANGE is in service. -/
def serving : State := { State.reset with service := some ⟨9, 2⟩ }

/-- A reply is being sent. -/
def sendingReply : State := { State.reset with sending := some ⟨false, 1, []⟩ }

/-- Channel 1's list: two tests of luminaire 7. -/
def oneTest : Channel := { entries := [⟨.test 7, false, false⟩, ⟨.test 7, false, true⟩], state := .loaded }

/-- A node's answer frame with its check bytes. -/
def nodeAnswer (node : Nat) (kind : Byte) (body : List Byte) : List Byte :=
  let inner := bytes2 (BitVec.ofNat 16 node) ++ [kind, BitVec.ofNat 8 body.length] ++ body
  0x69 :: inner ++ bytes2 (crc16 inner)

/-- A good record: mains, lamp, charger ok, battery full; 3,800 mV, 20 degrees. -/
def goodRecord : List Byte := [0x1D, 0x0E, 0xD8, 20, 0, 0]

/-- The same record as a structure. -/
def goodReading : NodeRecord := ⟨true, false, true, true, true, 3800, 20, 0⟩

/-- A CHECK of luminaire 7. -/
def check7 : Exchange := readExchange .check 5 7 .placement

/-- Slot 4's START. -/
def start7 : Exchange := startExchange 5 7 4 180

/-- A READ of slot 4. -/
def read7 : Exchange := readExchange .read 5 7 (.slot 4 7)

/-- Slot 4's STOP. -/
def stop7 : Exchange := stopExchange 5 7 (.slot 4 7) true

/-- The record of a running test: as `goodRecord`, with testing set and 100 s elapsed. -/
def testingRecord : List Byte := [0x1F, 0x0E, 0xD8, 20, 0, 100]

/-- The same record as a structure. -/
def testingReading : NodeRecord := ⟨true, true, true, true, true, 3800, 20, 100⟩

/-- A DIRECT exchange to luminaire 7's node. -/
def direct7 : Exchange := ⟨.direct, 5, 0x42, [], some 7, .host, false⟩

/-- Luminaires 7, 8 and 9 of branch 2 in STARTING, TESTING and STOPPING. -/
def lampsUnderTest : Table Luminaire :=
  [(7, lamp .starting), (8, { lamp .testing with node := 6 }), (9, { lamp .stopping with node := 7 })]

/-- Slots 4, 5 and 6 hold them, RESERVED, RUNNING and CLOSING, and are campaign 1's. -/
def slotsUnderTest : Table Slot :=
  [(4, { test4 .reserved with origin := .campaign 1 0 0 }),
    (5, { test4 .running with luminaire := 8, origin := .campaign 1 0 0 }),
    (6, { test4 .closing with luminaire := 9, origin := .campaign 1 0 0, outcome := some .pass })]

/-- Three tests on branch 2, one of each status, with a READ of the RUNNING one queued. -/
def threeTests : State :=
  onChannel { oneTest with state := .running, takenUp := true, inFlight := [(4, 0), (5, 0), (6, 0)] }
    (onBranch { queue := [start7, readExchange .read 6 8 (.slot 5 8)] }
      { site .outOfService with
        luminaires := lampsUnderTest, slots := slotsUnderTest, groups := [(60, ⟨3, [7, 8, 9], 3⟩)] })

/-- Channel 1 draws a list's entries: luminaire 7 is due, the scheduler ACTIVE. -/
def drawing (ch : Channel) : State := onChannel { ch with state := .running, takenUp := true } placing

/-- Channel 1 with its one test of entry 0 in slot 4. -/
def flying (st : CampaignState) (f : Channel → Channel) : State :=
  onChannel (f { oneTest with state := st, cursor := 1, inFlight := [(4, 0)] }) (underTest .closing id)

/-- Luminaire 7's item in the store. -/
def stored7 (marked : Bool) : StoredLuminaire :=
  ⟨2, 5, 0, [60], 1000, none, none, {}, none, false, .inService, marked, none⟩

/-- An image with luminaire 7 and group 60. -/
def image7 (marked : Bool) : Image := { luminaires := [(7, stored7 marked)], groups := [(60, 2)] }

/-! ### WellFormed refuses what cannot be a command -/

theorem test_wellFormed_refuses_long_body : WellFormed (.status 0 (List.replicate 249 0)) = false := by decide +kernel
theorem test_wellFormed_takes_longest_body : WellFormed (.status 0 (List.replicate 248 0)) = true := by decide +kernel
theorem test_wellFormed_refuses_known_kind : WellFormed (.unknownKind 0x90 0 []) = false := by decide
theorem test_wellFormed_refuses_long_unknown : WellFormed (.unknownKind 0x91 0 (List.replicate 249 0)) = false := by
  decide +kernel
theorem test_wellFormed_refuses_good_frame :
    WellFormed (.frameDiscarded ([0, 1, 5] ++ bytes2 (crc16 [0, 1, 5]))) = false := by decide +kernel
theorem test_wellFormed_takes_length_byte : WellFormed (.frameDiscarded [249]) = true := by decide +kernel
theorem test_wellFormed_refuses_bytes_after_it : WellFormed (.frameDiscarded [249, 0xA5]) = false := by decide +kernel
theorem test_wellFormed_takes_bad_frame : WellFormed (.frameDiscarded [0, 1, 5, 0, 0]) = true := by decide +kernel
theorem test_wellFormed_refuses_long_held : WellFormed (.frameHeld 1 0 (List.replicate 249 0)) = false := by decide +kernel
theorem test_wellFormed_refuses_luminaire : WellFormed (.dueTimeArrival 3072) = false := by decide
theorem test_wellFormed_refuses_slot : WellFormed (.endTimerExpiry 48) = false := by decide
theorem test_wellFormed_refuses_branch : WellFormed (.exchangeSend 8) = false := by decide
theorem test_wellFormed_refuses_window : WellFormed (.windowBoundaryArrival 32) = false := by decide
theorem test_wellFormed_refuses_blackout : WellFormed (.blackoutBoundaryArrival 24) = false := by decide
theorem test_wellFormed_refuses_answer_branch : WellFormed (.nodeAnswerFrame 8 [0x69]) = false := by decide
theorem test_wellFormed_refuses_empty_answer : WellFormed (.nodeAnswerFrame 0 []) = false := by decide
theorem test_wellFormed_refuses_long_answer : WellFormed (.nodeAnswerFrame 0 (List.replicate 40 0)) = false := by decide

/-! ### Layouts of 10_the_host_link.md 10.6 -/

/-- The check value of the CRC-16 with polynomial 1021h, initial value FFFFh: the nine digits give 29B1h. -/
theorem test_crc_of_nine_digits : crc16 [0x31, 0x32, 0x33, 0x34, 0x35, 0x36, 0x37, 0x38, 0x39] = 0x29B1#16 := by decide +kernel

theorem test_record_of_six_bytes : nodeRecordOf goodRecord = some goodReading := by decide

theorem test_record_refuses_high_voltage : nodeRecordOf [0x1D, 0x4E, 0x21, 20, 0, 0] = none := by decide

theorem test_answer_frame_is_read : nodeFrameOf (nodeAnswer 5 0x81 goodRecord) = some ⟨5, 0x81, goodRecord⟩ := by
  decide +kernel

/-! ### Single commands -/

theorem test_ident : (after (.ident 3 []) State.reset).sending =
    some ⟨false, 3, [8, 66, 65, 83, 75, 69, 78, 68, 65, 7, 83, 86, 45, 52, 49, 50, 48, 3]⟩ := by decide +kernel

theorem test_status_of_reset : ((after (.status 3 []) State.reset).sending.map fun r => r.body.length) = some 25 := by
  decide +kernel

/-- Bounds the checks under way at once: a definition's own check waits for those above it, and each `decide +kernel`
that waits holds a thread. -/
def pause1 : Fin 1 := ⟨0, by decide +kernel⟩

theorem test_getParam_default : (after (.getParam 3 [0, 0]) State.reset).sending =
    some ⟨false, 3, [0, 0, 0, 120]⟩ := by decide +kernel

theorem test_setParam_threshold_order : (after (.setParam 3 [9, 0, 0, 30]) State.reset).sending =
    some ⟨true, 3, [3]⟩ := by decide +kernel

theorem test_setParam_failing_write :
    (after (.setParam 3 [0, 0, 0, 60]) { State.reset with writeFates := [true] }).sending =
      some ⟨true, 3, [10, 0, 0, 0, 120, 0, 60]⟩ := by decide +kernel

theorem test_enrol_then_due :
    ((after (.enrol 3 [0, 8, 2, 0, 6, 0, 1, 0, 60, 0, 0, 3, 0xE8, 1]) (site .idle)).luminaires.get 8).map
      Luminaire.state = some .due := by decide +kernel

theorem test_enrol_same_address :
    (after (.enrol 3 [0, 8, 2, 0, 5, 0, 0, 0, 0, 3, 0xE8, 1]) (site .idle)).sending = some ⟨true, 3, [5]⟩ := by
  decide +kernel

theorem test_withdraw : (after (.withdraw 3 [0, 7]) (site .due)).luminaires = [] := by decide +kernel

theorem test_amend_moves : ((after (.amend 3 [0, 7, 0, 0, 0, 0, 1, 3, 1, 0xFF]) (site .due)).luminaires.get 7).map
    (fun l => (l.branch, l.node, l.band)) = some (3, 511, .unknown) := by decide +kernel

theorem test_setOutOfService_dark : (after (.setOutOfService 3 [0, 7]) (site .due)).groups = [(60, ⟨2, [7], 1⟩)] := by
  decide +kernel

theorem test_setTime : (after (.setTime 3 [0, 0, 0, 5]) State.reset).campus = 5 := by decide +kernel

theorem test_placing_reserves :
    (after (.schedStart 3 []) { placing with sched := .suspended, resumeTo := .suspended }).slots.keys = [0] := by
  decide +kernel

/-- As `pause1`. -/
def pause2 : Fin 1 := ⟨0, by decide +kernel⟩

theorem test_coverage_keeps_out :
    ((after (.schedStart 3 []) { placing with
      sched := .suspended, resumeTo := .suspended, groups := [(60, ⟨2, [7], 2⟩)] }).luminaires.get 7).bind
      Luminaire.blockedBy = some (.group 60) := by decide +kernel

theorem test_unknown_band_checks :
    ((after (.schedStart 3 []) { siteWith .due (fun l => { l with band := .unknown }) with
      windows := alwaysOpen }).branches[2]).queue = [check7] := by decide +kernel

theorem test_emg_recalls_running :
    (after .emgAssertion (underTest .running id)).slots.get 4 = some { test4 .running with
      status := .closing, outcome := some .interrupted, elapsedMinutes := some 0, stopAttempts := 1 } := by decide +kernel

theorem test_stop_answer_releases :
    ((after (.nodeAnswerFrame 2 (nodeAnswer 5 0x81 goodRecord))
      (inFlight (stopExchange 5 7 (.slot 4 7) true) 1 (underTest .closing (fun sl => { sl with elapsedRef := some 0 })))).results.map
      fun r => (r.number, r.luminaire, r.outcome, r.endVoltage)) = [(0, 7, .pass, some 3800)] := by decide +kernel

theorem test_campaign_runs_mark :
    ((after (.campaignStart 3 [1, 0]) (onChannel { entries := [⟨.mark, false, false⟩], state := .loaded }
      State.reset)).outbox.map Notice.body) = [.markReached 1 0, .done 1 0 0 0] := by decide +kernel

theorem test_startUp_recalls_marked :
    ((after .startUp { State.reset with phase := .unpowered, image := image7 true }).results.map
      fun r => (r.luminaire, r.outcome)) = [(7, .lost)] := by decide +kernel

theorem test_startUp_rebuilds_groups :
    (after .startUp { State.reset with phase := .unpowered, image := image7 true }).groups = [(60, ⟨2, [7], 1⟩)] := by
  decide +kernel

theorem test_reset_clears : (after (.resetAssertion 0) (site .due)).luminaires = [] := by decide +kernel

theorem test_step_on_empty_queue_counts :
    (match step (site .idle) with | .next t => t.campus | _ => 0) = 2001 := by decide +kernel

/-! ### The statements' hypotheses can be met -/

/-- A tick that makes timers and a due time come about. -/
def nearlyDue : State :=
  { siteWith .idle (fun l => { l with due := 2001 }) with staleness := some 1, recovery := some 1, sched := .recovery }

theorem witness_ASecondOfTheOwnCount :
    (State.reset.phase = .operating ∧ State.reset.pending = [] ∧ prompts State.reset = []) ∧
    (nearlyDue.phase = .operating ∧ nearlyDue.pending = [] ∧ prompts nearlyDue = [] ∧
      (idle nearlyDue).staleness = some 0 ∧ (idle nearlyDue).recovery = some 0 ∧
      ((idle nearlyDue).luminaires.get 7).any (fun l => l.state == .idle && l.due == 2001) = true ∧
      (idle nearlyDue).campus = 2001 ∧ (idle nearlyDue).quality ≠ .unset) := by decide +kernel

/-- As `pause1`. -/
def pause3 : Fin 1 := ⟨0, by decide +kernel⟩

theorem witness_ACandidateIsReservedExactlyWhen :
    (onChannel { oneTest with bypass := true } placing).channels[(1 : Fin 4)].bypass = true ∧
    oneTest.bypass = false ∧ openIntervalEnd placing = none ∧ nextBlackout placing = none ∧
    openIntervalEnd { placing with windows := [(0, ⟨127, 0, 60, 7⟩)] } = some 3600 ∧
    nextBlackout { placing with blackouts := [(3, ⟨2500, 2501⟩)] } = some 2500 ∧
    openIntervalEnd { placing with blackouts := [(3, ⟨2500, 2501⟩)] } = some 2500 := by decide +kernel

/-- The reason that luminaire 7 has after it was considered in `s`. -/
def reasonAfter (from? : Option (Fin 4)) (s : State) : Option BlockedBy :=
  ((consider 7 from? s).1.luminaires.get 7).bind Luminaire.blockedBy

/-- `placing` with luminaire 7's record changed by `f`. -/
def placingWith (f : Luminaire → Luminaire) : State := { placing with luminaires := [(7, f (lamp .due))] }

/-- Each condition of R72 fails alone, at its bound, and gives its reason. -/
theorem test_reasons_in_order :
    reasonAfter none (placingWith fun l => { l with holdOff := some 2001 }) = some .holdOff ∧
    reasonAfter none (placingWith fun l => { l with latches := { charger := true } }) = some .latch ∧
    reasonAfter none (onBranch { state := .direct } placing) = some .branch ∧
    reasonAfter none { placing with params := { placing.params with concurrency := placing.params.concurrency.set 2 0 } } =
      some .branchLimit ∧
    reasonAfter (some 1) (onChannel oneTest { placing with params := { placing.params with campaignShare := 0 } }) =
      some .share ∧
    reasonAfter none { placing with groups := [(60, ⟨2, [7], 2⟩)] } = some (.group 60) ∧
    reasonAfter none { placing with checkPending := [7] } = some .checkPending ∧
    reasonAfter none (placingWith fun l => { l with band := .cold }) = some .band ∧
    reasonAfter none (onBranch { queue := List.replicate 24 check7 } (placingWith fun l => { l with band := .unknown })) =
      some .branch ∧
    reasonAfter none { placing with windows := [] } = some .window ∧
    reasonAfter none { placing with blackouts := [(3, ⟨2001, 2002⟩)] } = some .guard ∧
    reasonAfter none (onBranch { queue := List.replicate 23 check7 } placing) = some .branch := by decide +kernel

theorem witness_ACandidateIsReservedExactlyWhen_reasons :
    FirstFailing (earlyConditions (placingWith fun l => { l with holdOff := some 2001 }) 7
      { lamp .due with holdOff := some 2001 } none) .holdOff ∧
    FirstFailing (lateConditions { placing with windows := [] } (lamp .due) none) .window ∧
    (site .due).luminaires.get 8 = none ∧ ¬((lamp .idle).state = .due ∨ ((none : Option (Fin 4)).isSome = true ∧
      (lamp .idle).state = .idle)) :=
  ⟨.inl ⟨fun h => absurd (h 2001 rfl) (by decide +kernel), rfl⟩,
    .inl ⟨fun h => absurd (h fun _ hc => by cases hc) (by decide +kernel), rfl⟩, by decide +kernel, by decide +kernel⟩

/-- The early conditions all hold in `placing`, whatever the band, so long as it is not COLD or HOT. -/
theorem witness_ACandidateIsReservedExactlyWhen_check (b : Band) (hb : b = .unknown ∨ b = .normal) :
    AllHold (earlyConditions (placingWith fun l => { l with band := b }) 7 { lamp .due with band := b } none) := by
  have hb' : ({ lamp .due with band := b } : Luminaire).dark = false := rfl
  refine AllHold.append.mpr ⟨AllHold.append.mpr ⟨?_, ?_⟩, ?_⟩
  · refine AllHold.cons.mpr ⟨fun t h => ?_, AllHold.cons.mpr ⟨⟨rfl, rfl⟩, AllHold.cons.mpr ⟨rfl, AllHold.cons.mpr ⟨?_,
      AllHold.cons.mpr ⟨fun h => ?_, fun _ h => ?_⟩⟩⟩⟩⟩
    · cases h
    · rcases hb with rfl | rfl <;> decide +kernel
    · cases h
    · cases h
  · refine AllHold.cons.mpr ⟨fun r h => ?_, fun _ h => ?_⟩
    · cases (h : some (⟨2, [7], 0⟩ : Group) = some r)
      rw [hb']
      decide
    · cases h
  · refine AllHold.cons.mpr ⟨?_, AllHold.cons.mpr ⟨?_, AllHold.cons.mpr ⟨fun _ => ?_, fun _ h => ?_⟩⟩⟩
    · exact List.not_mem_nil
    · rcases hb with rfl | rfl <;> decide +kernel
    · rcases hb with rfl | rfl <;> decide +kernel
    · cases h

/-- With an UNKNOWN band the CHECK joins the queue and the luminaire the check-pending set (R74). -/
theorem test_check_is_queued :
    (let s := placingWith fun l => { l with band := .unknown }
     (consider 7 none s).1.checkPending = [7] ∧ (consider 7 none s).1.branches[(2 : Fin 8)].queue = [check7] ∧
       reasonAfter none s = some .checkPending) := by decide +kernel

theorem witness_APassChangesOnlyPlacementState :
    (site .due).trigger = false ∧ (site .due).sched ≠ .active ∧
    ({ placing with quality := .stale }.sched = .active ∧ { placing with quality := .stale }.quality ≠ .set) ∧
    7 ∈ placing.schedule ∧ (placing.luminaires.get 7).map Luminaire.state = some .due := by decide +kernel

/-- Channel 1 has one GROUP-TEST whose only member is out of service, and a restart queued: a pass ends its list. -/
def restarting : State :=
  onChannel
    { entries := [⟨.groupTest 60, false, true⟩], snapshot := [7], state := .running, takenUp := true, restartQueued := true }
    { site .outOfService with
      sched := .active, resumeTo := .active, windows := alwaysOpen, windowOpen := true, trigger := true }

theorem witness_APassChangesOnlyPlacementState_rounds :
    (let s := { drawing oneTest with trigger := true }
     s.trigger = true ∧ (∀ c : Fin 4, s.channels[c].restartQueued = false) ∧ s.slots.Rising ∧ s.slots.length < 48 ∧
       globalFailure s = none ∧ (consider 7 (some 1) s).2 = true ∧ (settle s).lastServed = 1 ∧ (settle s).slots.keys = [0]) ∧
    (restarting.trigger = true ∧ (rounds 1 restarting).trigger = true ∧ (rounds 2 restarting).trigger = false ∧
      (rounds 1 restarting).channels[(1 : Fin 4)].restartQueued = false) := by decide +kernel

theorem witness_APassChangesOnlyPlacementState_offered : ∃ u, CampaignsOffered [] (drawing oneTest) u ∧ u.lastServed = 1 :=
  ⟨_, .reserved [] _ (drawing oneTest) (consider 7 (some 1) (drawing oneTest)).1 _ 1 7 (by decide +kernel) (by decide +kernel)
    (by decide +kernel) (by decide +kernel)
    (.passedOver [] _ (present 1 (consider 7 (some 1) (drawing oneTest)).1).1
      (consider 7 (some 1) (present 1 (consider 7 (some 1) (drawing oneTest)).1).1).1 _ 1 7 (by decide +kernel)
      (by decide +kernel) (by decide +kernel) (by decide +kernel) (.over [1] _ (by decide +kernel))), by decide +kernel⟩

theorem witness_APassChangesOnlyPlacementState_periodic :
    ((site .idle).luminaires.get 7).map Luminaire.state ≠ some .due ∧
    ((site .due).luminaires.get 7).map Luminaire.state = some .due ∧ globalFailure (site .due) = some .scheduler ∧
    globalFailure placing = none := by decide +kernel

theorem witness_AReservationKeepsCoverage :
    placing.luminaires.get 7 = some (lamp .due) ∧ verdict placing 7 (lamp .due) none = .reserve ∧
      placing.slots.lowestFree slotCount = some 0 ∧ writeFails placing = false := by decide +kernel

theorem witness_AReservationKeepsCoverage_campaign :
    (let ch := (drawing oneTest).channels[(1 : Fin 4)]
     ch.state = .running ∧ ch.takenUp = true ∧ ch.finishWatch = [] ∧ ch.entries[ch.cursor]? = some ⟨.test 7, false, false⟩ ∧
       (drawing oneTest).luminaires.get 7 = some (lamp .due) ∧ ch.cursor + 1 < ch.entries.length ∧ ch.atPosition = false ∧
       ch.entries[ch.cursor + 1]? = some ⟨.test 7, false, true⟩ ∧ ch.stopPosition ≠ some (ch.cursor + 1) ∧
       verdict (drawing oneTest) 7 (lamp .due) (some 1) = .reserve ∧
       (drawing oneTest).slots.lowestFree slotCount = some 0) ∧
    (let ch := (drawing { oneTest with cursor := 1, atPosition := true }).channels[(1 : Fin 4)]
     ch.entries[ch.cursor]? = some ⟨.test 7, false, true⟩ ∧ ch.atPosition = true) ∧
    (let ch := (drawing { entries := [⟨.test 7, true, false⟩, ⟨.mark, false, true⟩] }).channels[(1 : Fin 4)]
     ch.entries[ch.cursor]? = some ⟨.test 7, true, false⟩ ∧ ch.atPosition = false ∧ ch.cursor + 1 < ch.entries.length) ∧
    (let ch := (drawing { entries := [⟨.groupTest 60, false, false⟩], snapshot := [7, 8, 7] }).channels[(1 : Fin 4)]
     ch.entries[ch.cursor]? = some ⟨.groupTest 60, false, false⟩ ∧ ch.snapshot[ch.member + 1 + 1]? = some 7 ∧
       ch.snapshot[ch.member + 1 + 0]? = some 8 ∧ placing.luminaires.get 8 = none) := by decide +kernel

theorem witness_TheLinkChecksEachFrame :
    (serving.phase = .operating ∧ serving.sending = none ∧ serving.service.isSome = true ∧
      (List.replicate 248 (0 : Byte)).length ≤ 248) ∧
    (Serves State.reset ∧ (0x00 : Byte) ∉ catalogue ∧ (0x91 : Byte) ∉ catalogue ∧ (0xFF : Byte) ∉ catalogue) ∧
    ∀ r ∈ requestForms, ∀ body ∈ [List.replicate (r.base + 1) (0 : Byte), List.replicate 248 0],
      body.length ≤ 248 ∧ body.length ≠ r.base + r.width * ((body[r.place]?).getD 0).toNat := by decide +kernel

theorem witness_FramesAreReceivedAndRepliesLeave :
    State.reset.phase = .operating ∧ 248 < (249 : Byte).toNat ∧
    ((248 : Byte).toNat ≤ 248 ∧ ([1, 5] : List Byte).length = (0 : Byte).toNat + 2 ∧
      [0, 0] ≠ bytes2 (crc16 (0 :: [1, 5]))) ∧
    (sendingReply.sending = some ⟨false, 1, []⟩ ∧ sendingReply.held = none ∧ sendingReply.restartWaiting = false ∧
      sendingReply.ready = []) ∧
    ({ sendingReply with held := some ⟨0xFF, 1, []⟩ }.held = some ⟨0xFF, 1, []⟩ ∧ sendingReply.service = none) ∧
    { sendingReply with ready := [⟨true, 2, []⟩] }.ready = [⟨true, 2, []⟩] ∧
    (let s := { sendingReply with held := some ⟨0x90, 1, []⟩ }
     s.phase = .operating ∧ s.sending.isSome = true ∧ s.restartWaiting = false ∧ s.ready = [] ∧ s.receiver = .hunt ∧
       catalogue[47]? = some 0x90 ∧ (requestForms[47]?.map fun q => q.command 1 []) = some (.restart 1 []) ∧
       catalogue[0]? = some 0x01 ∧ (requestForms[0]?.map fun q => q.command 1 []) = some (.status 1 [])) := by
  decide +kernel

theorem witness_StatusReportsAndClearsNoticesLost : Serves State.reset ∧ Serves (site .due) := by decide +kernel

theorem witness_IdentAndGetParamAnswer : Serves State.reset := by decide +kernel

theorem witness_SetParamReplacesOneValue :
    Serves State.reset ∧ paramAdmits State.reset.params 14 0 (beInt2 0 0) = false ∧
    paramAdmits State.reset.params 0 0 (beInt2 0 14) = false ∧ paramAdmits State.reset.params 0 0 (beInt2 0 15) = true ∧
    paramAdmits State.reset.params 7 7 (beInt2 0 16) = true ∧ paramAdmits State.reset.params 7 8 (beInt2 0 16) = false ∧
    paramAdmits State.reset.params 9 0 (beInt2 0xFF 0xEC) = true ∧
    paramAdmits State.reset.params 5 0 (beInt2 0 90) = true ∧ writeFails State.reset = false := by decide +kernel

theorem witness_AStoreWriteLandsOrFaults :
    ((image7 false).luminaires.Rising ∧ (image7 false).groups.Rising ∧ (image7 false).windows.Rising ∧
      (image7 false).blackouts.Rising) ∧
    writeFails { State.reset with writeFates := [true] } = true ∧ State.reset.mask.getLsbD 18 = false ∧
    State.reset.outbox.length < 32 ∧ writeFails { State.reset with writeFates := [false, true] } = false := by
  decide +kernel

/-- The outbox with all its 32 places taken. -/
def outboxFull : State := { State.reset with outbox := List.replicate 32 ⟨none, .timeStale⟩, attn := true }

theorem witness_TheOutboxDecidesByItsMask :
    ({ State.reset with mask := 16 }.mask.getLsbD (NoticeBody.kind .timeStale) = true) ∧
    (outboxFull.mask.getLsbD 4 = false ∧ 32 ≤ outboxFull.outbox.length) ∧ State.reset.outbox.length < 32 ∧
    Serves State.reset ∧ 8 ≤ (8 : Byte).toNat ∧ (7 : Byte).toNat < 8 := by decide +kernel

/-- A result record. -/
def aResult : ResultRecord := ⟨0, 7, 2, 5, .periodic, .pass, some 1, some 2, 0, none, .normal⟩

theorem witness_TakesRemoveTheOldest :
    Serves outboxFull ∧ (0 : Byte).toNat = 0 ∧ 8 < (9 : Byte).toNat ∧ (8 : Byte).toNat ≤ 8 ∧ 4 < (5 : Byte).toNat ∧
    (4 : Byte).toNat ≤ 4 ∧ State.reset.results = [] ∧
    (Serves { State.reset with results := [aResult] } ∧ { State.reset with results := [aResult] }.results ≠ [] ∧
      writeFails { State.reset with results := [aResult] } = false) := by decide +kernel

/-- As `pause1`. -/
def pause4 : Fin 1 := ⟨0, by decide +kernel⟩

theorem witness_EnrolCreatesTheRecord :
    Serves (site .idle) ∧
    enrolBody [0x0B, 0xFF, 7, 1, 0xFF, 7, 1, 0, 60, 0, 0, 7, 0xD0, 1] = some ⟨3071, 7, 511, 7, [60], 2000, 1⟩ ∧
    [60].Nodup ∧ ((site .idle).groups.get 60).any (fun r => r.members.length < 64) = true ∧
    (site .idle).luminaires.get 3071 = none ∧
    (∀ p ∈ (site .idle).luminaires, ¬(p.2.branch = 7 ∧ p.2.node = 511)) ∧ writeFails (site .idle) = false := by
  decide +kernel

/-- Group 60 with 64 members, and group 61. -/
def fullGroup : State := { site .idle with groups := [(60, ⟨15, List.range 64, 0⟩), (61, ⟨1, [], 0⟩)] }

theorem witness_EnrolCreatesTheRecord_refused :
    Serves fullGroup ∧
    (enrolBody [0x0C, 0, 7, 1, 0xFF, 7, 0, 0, 0, 7, 0xD0, 1] = some ⟨3072, 7, 511, 7, [], 2000, 1⟩ ∧ ¬3072 < 3072) ∧
    (enrolBody [0, 9, 2, 0, 5, 0, 0, 0, 0, 7, 0xD0, 1] = some ⟨9, 2, 5, 0, [], 2000, 1⟩ ∧
      fullGroup.luminaires.get 9 = none ∧ ∃ p ∈ fullGroup.luminaires, p.2.branch.val = 2 ∧ p.2.node = 5) ∧
    (enrolBody [0, 99, 2, 0, 6, 0, 1, 1, 0x7F, 0, 0, 7, 0xD0, 0] = some ⟨99, 2, 6, 0, [383], 2000, 0⟩ ∧
      fullGroup.luminaires.get 99 = none ∧ (∀ p ∈ fullGroup.luminaires, ¬(p.2.branch.val = 2 ∧ p.2.node = 6)) ∧
      fullGroup.groups.get 383 = none) ∧
    (enrolBody [0, 99, 2, 0, 6, 0, 1, 0, 60, 0, 0, 7, 0xD0, 0] = some ⟨99, 2, 6, 0, [60], 2000, 0⟩ ∧
      (fullGroup.groups.get 60).any (fun r => decide (64 ≤ r.members.length ∧ 99 ∉ r.members)) = true) := by
  decide +kernel

theorem witness_WithdrawEmptiesThePosition :
    (Serves (underTest .running id) ∧ be2 0 7 < 3072 ∧
      (underTest .running id).luminaires.get 7 = some (lamp .testing) ∧ (lamp .testing).state.holdsSlot = true ∧
      (underTest .running id).luminaires.Rising) ∧
    (Serves (site .recharging) ∧ (site .recharging).luminaires.get 7 = some (lamp .recharging) ∧
      (lamp .recharging).state.holdsSlot = false ∧ (lamp .recharging).dark = true ∧
      ((site .recharging).groups.get 60).isSome = true) := by decide +kernel

theorem witness_AmendChangesEachPartGiven :
    Serves (site .due) ∧
    amendBody [0, 7, 1, 7, 1, 1, 0, 60, 1, 7, 1, 0xFF] = some ⟨7, 1, 7, 1, [60], 1, 7, 511⟩ ∧
    amendParts ⟨7, 1, 7, 1, [60], 1, 7, 511⟩ = some ⟨some 7, some [60], some (7, 511)⟩ ∧
    amendParts ⟨7, 1, 7, 0, [], 0, 0, 0⟩ = some ⟨some 7, none, none⟩ ∧
    (site .due).luminaires.get 7 = some (lamp .due) ∧ (lamp .due).state.holdsSlot = false ∧
    (∀ x ∈ (site .due).luminaires, x.1 ≠ 7 → ¬(x.2.branch = 7 ∧ x.2.node = 511)) ∧
    ((site .due).groups.get 60).any (fun r => r.members.contains 7) = true := by decide +kernel

theorem witness_SetDueReplacesTheDueTime :
    (Serves (underTest .closing id) ∧ (underTest .closing id).luminaires.get 7 = some (lamp .stopping) ∧
      (lamp .stopping).state.holdsSlot = true) ∧
    (Serves (site .due) ∧ be2 0 7 < 3072 ∧ (site .due).luminaires.get 7 = some (lamp .due) ∧
      (lamp .due).state.holdsSlot = false ∧ be4 0 0 7 0xD1 = (site .due).campus + 1) := by decide +kernel

theorem witness_ServiceIsLeftAndEntered :
    (Serves (site .idle) ∧ (site .idle).luminaires.get 7 = some (lamp .idle) ∧ (lamp .idle).state.holdsSlot = false ∧
      (lamp .idle).state ≠ .outOfService) ∧
    (Serves (site .outOfService) ∧ (site .outOfService).luminaires.get 7 = some (lamp .outOfService)) ∧
    (Serves (underTest .reserved id) ∧ (lamp .starting).outAtRelease = false ∧
      slotOf (underTest .reserved id) 7 = some (4, test4 .reserved) ∧
      (underTest .reserved id).slots.get 4 = some (test4 .reserved)) ∧
    (Serves (underTest .running id) ∧ (underTest .running id).luminaires.get 7 = some (lamp .testing) ∧
      (lamp .testing).outAtRelease = false ∧ slotOf (underTest .running id) 7 = some (4, test4 .running) ∧
      (underTest .running id).slots.get 4 = some (test4 .running) ∧ (test4 .running).status = .running ∧
      (underTest .running id).branches[(test4 .running).branch].state = .ready) ∧
    (Serves (underTest .closing id) ∧ (lamp .stopping).state = .stopping ∧ (lamp .stopping).outAtRelease = false) ∧
    ((site .outOfService).quality ≠ .unset ∧ (lamp .outOfService).due ≤ (site .outOfService).campus ∧
      (site .outOfService).writeFates = []) := by decide +kernel

/-- A RETURN-TO-SERVICE whose record's write fails and whose held-back threshold is reached: STORE-FAULT, OVERDUE, and the reply
STORE-FAULT (R63, R206, assumption log 26). -/
theorem witness_ServiceIsLeftAndEntered_overdue :
    (let s := { site .outOfService with campus := 1000 + 30 * 86400, writeFates := [true] }
     Serves s ∧ s.luminaires.get 7 = some (lamp .outOfService) ∧ (lamp .outOfService).watchArmed = true ∧
       overdueReached s (lamp .outOfService) = true ∧
       (after (.returnToService 3 [0, 7]) s).outbox.map Notice.body =
         [.storeFault (.luminaire 7), .overdue 7 1000 none] ∧
       (after (.returnToService 3 [0, 7]) s).sending = some (storedReply true 3 [])) ∧
    (let s := { site .outOfService with campus := 1000 + 30 * 86400, writeFates := [false, true] }
     (after (.returnToService 3 [0, 7]) s).outbox.map Notice.body =
         [.overdue 7 1000 none, .storeFault (.luminaire 7)] ∧
       (after (.returnToService 3 [0, 7]) s).sending = some (storedReply true 3 [])) := by decide +kernel

/-- Luminaire 7 with CHARGER held and a good last report. -/
def charged : Luminaire :=
  { lamp .due with latches := { charger := true }, lastReport := some ⟨goodReading, 5, none⟩ }

theorem witness_ClearFaultsClearsWhatIsAbsent :
    (Serves (site .due) ∧ (site .due).luminaires.get 7 = some (lamp .due) ∧ (lamp .due).faultsCleared = {}) ∧
    ((siteWith .due (fun _ => charged)).luminaires.get 7 = some charged ∧ charged.faultsCleared ≠ charged.latches) := by
  decide +kernel

theorem witness_ReadsChangeNothing :
    Serves (site .due) ∧ 3072 ≤ be2 12 0 ∧ be2 11 255 < 3072 ∧ 384 ≤ be2 1 128 ∧ be2 1 127 < 384 ∧
    (7 : Byte).toNat < 8 ∧ 32 ≤ (32 : Byte).toNat ∧ 24 ≤ (24 : Byte).toNat ∧ 48 ≤ (48 : Byte).toNat ∧ (47 : Byte).toNat < 48 ∧
    (3 : Byte).toNat < 4 ∧ slotOf (underTest .running id) 7 = some (4, test4 .running) := by decide +kernel

theorem witness_ClassesAndGroupsAreEdited :
    Serves (site .due) ∧ (site .due).groups.Rising ∧ ¬(8 : Byte).toNat < 8 ∧ (7 : Byte).toNat < 8 ∧
    (30 ≤ be2 0 30 ∧ be2 0 240 ≤ 240 ∧ be2 1 144 ≤ 400 ∧ 1000 ≤ be2 3 232 ∧ be2 58 152 ≤ 15000) ∧
    384 ≤ be2 1 128 ∧ 15 < (16 : Byte).toNat ∧ 1 ≤ (1 : Byte).toNat ∧ (15 : Byte).toNat ≤ 15 ∧
    (site .due).groups.get 60 = some ⟨2, [7], 0⟩ ∧ (2 : Byte).toNat = 2 ∧ (site .due).groups.get 61 = none ∧
    { site .due with groups := [(60, ⟨2, [], 0⟩)] }.groups.get 60 = some ⟨2, [], 0⟩ := by decide +kernel

theorem witness_TheWindowIsOpenExactlyWhen :
    (0 < 1439 ∧ 1439 < 1440 ∧ 0 ≤ 0 ∧ 86400 ≤ 86400) ∧ openNow placing = true ∧ openNow (site .due) = false ∧
    (∀ p ∈ placing.windows, p.2.start < 1440 ∧ p.2.stop < 1440) ∧
    (let s := { placing with blackouts := [(3, ⟨2000, 2001⟩)] }
     ∃ p ∈ s.blackouts, p.2.start ≤ s.campus ∧ s.campus < p.2.stop) ∧
    (let s := { placing with blackouts := [(2, ⟨1999, 2000⟩), (3, ⟨2001, 2002⟩)] }
     (∀ p ∈ s.blackouts, ¬(p.2.start ≤ s.campus ∧ s.campus < p.2.stop)) ∧ nextBlackout s = some 2001) := by decide +kernel

theorem witness_SetTimeSetsTheClock :
    Serves State.reset ∧ State.reset.quality ≠ .set ∧ State.reset.quality = .unset ∧
    (Serves (site .due) ∧ (site .due).mask.getLsbD 3 = false ∧ (site .due).outbox.length < 32 ∧
      (site .due).quality ≠ .unset ∧ (site .due).campus + 900 < be4 0 0 11 85) ∧
    ((after (.setTime 3 [0, 0, 0, 5]) (site .idle)).luminaires.get 7).any
      (fun l => l.watchArmed && l.state == .idle) = true := by decide +kernel

/-- As `pause1`. -/
def pause5 : Fin 1 := ⟨0, by decide +kernel⟩

theorem witness_CalendarEntriesAreEdited :
    Serves (site .due) ∧ (site .due).windows.Rising ∧ 32 ≤ (32 : Byte).toNat ∧ (31 : Byte).toNat < 32 ∧
    (127 : Byte).toNat < 128 ∧ be2 5 159 < 1440 ∧ (7 : Byte).toNat < 8 ∧ (site .due).windows.get 31 = none ∧
    (placing.windows.get 0).isSome = true ∧ (site .due).writeFates = [] ∧ (site .due).blackouts.Rising ∧
    24 ≤ (24 : Byte).toNat ∧ (23 : Byte).toNat < 24 ∧ be4 0 0 0 5 ≤ be4 0 0 0 5 ∧ be4 0 0 0 5 < be4 0 0 0 6 ∧
    (site .due).blackouts.get 23 = none ∧ ({ site .due with blackouts := [(23, ⟨5, 6⟩)] }.blackouts.get 23).isSome = true :=
  by decide +kernel

/-- A window entry that ends an open interval with another mode staged: WINDOW-CLOSE, then MODE-CHANGED, then WINDOW-OPEN by an
entry of the new mode (R54, R57). -/
theorem witness_CalendarEntriesAreEdited_notices :
    (let s := { placing with windows := [(0, ⟨127, 0, 0, 1⟩), (1, ⟨127, 0, 0, 4⟩)], staged := some .vacation }
     Serves s ∧ s.windows.Rising ∧ (s.windows.get 0).isSome = true ∧ openNow s = true ∧
       ((after (.clearWindow 3 [0]) s).outbox.map Notice.body).take 3 =
         [.windowClose .term, .modeChanged .term .vacation true, .windowOpen .vacation none]) := by decide +kernel

theorem witness_SetModeStagesOrTakesEffect_notices :
    (let s := { site .due with windows := [(1, ⟨127, 0, 0, 4⟩)] }
     Serves s ∧ openNow s = false ∧ s.windowOpen = false ∧
       (after (.setMode 3 [2]) s).outbox.map Notice.body =
         [.modeChanged .term .vacation false, .windowOpen .vacation none]) := by decide +kernel

theorem witness_SetModeStagesOrTakesEffect :
    Serves placing ∧ 2 < (3 : Byte).toNat ∧ modeOf 0 = some placing.mode ∧ modeOf 2 = some .vacation ∧
    Mode.vacation ≠ placing.mode ∧ placing.sched = .active ∧ openNow placing = true ∧ Serves (site .due) ∧
    (site .due).sched ≠ .active ∧ writeFails (site .due) = false := by decide +kernel

theorem witness_BoundariesEvaluateTheWindow :
    (let s := { placing with campus := 86400, windowOpen := false }
     s.phase = .operating ∧ s.quality ≠ .unset ∧ s.windows.get 0 = some ⟨127, 0, 0, 7⟩ ∧ s.campus % 86400 = 0 * 60 ∧
       s.windowOpen = false ∧ openNow s = true) ∧
    (let s := { placing with blackouts := [(3, ⟨2000, 2001⟩)] }
     s.blackouts.get 3 = some ⟨2000, 2001⟩ ∧ s.campus = 2000 ∧ s.windowOpen = true ∧ openNow s = false) := by
  decide +kernel

theorem witness_StalenessAndBandLifetimesExpire :
    ({ site .due with staleness := some 0 }.staleness = some 0 ∧ (site .due).phase = .operating ∧
      (site .due).mask.getLsbD 4 = false) ∧
    ((siteWith .due (fun l => { l with bandLife := some 0 })).luminaires.get 7 =
      some { lamp .due with bandLife := some 0 }) := by decide +kernel

theorem witness_StoredInstantsArrive :
    ((site .idle).luminaires.get 7 = some (lamp .idle) ∧ (site .idle).quality ≠ .unset ∧
      (lamp .idle).due ≤ (site .idle).campus) ∧
    ((siteWith .due (fun l => { l with holdOff := some 2000 })).luminaires.get 7 =
      some { lamp .due with holdOff := some 2000 } ∧ 2000 ≤ (site .due).campus) ∧
    ((siteWith .recharging (fun l => { l with recharge := some (.until 2000) })).luminaires.get 7 =
      some { lamp .recharging with recharge := some (.until 2000) }) ∧
    (let s := { site .due with campus := 1000 + 30 * 86400 }
     s.luminaires.get 7 = some (lamp .due) ∧ (lamp .due).due + s.params.overdueGrace * 86400 ≤ s.campus ∧
       (lamp .due).watchArmed = true ∧ s.mask.getLsbD 1 = false ∧ s.outbox.length < 32) ∧
    (lamp .outOfService).state = .outOfService ∧ (lamp .testing).state.holdsSlot = true := by decide +kernel

theorem witness_RecallsActByTheSlotsStatus :
    ((underTest .reserved id).slots.get 4 = some (test4 .reserved) ∧
      (underTest .reserved id).luminaires.get 7 = some (lamp .starting)) ∧
    ((underTest .running id).slots.get 4 = some (test4 .running) ∧
      (underTest .running id).luminaires.get 7 = some (lamp .testing) ∧
      (underTest .running id).branches[(2 : Fin 8)].state = .ready) ∧
    (underTest .closing id).slots.get 4 = some (test4 .closing) ∧
    (Serves (underTest .closing id) ∧ 3072 ≤ be2 12 0 ∧ be2 11 255 < 3072 ∧
      (underTest .closing id).luminaires.get 3071 = none ∧ (site .due).luminaires.get 7 = some (lamp .due) ∧
      (lamp .due).state.holdsSlot = false ∧ slotOf (underTest .closing id) 7 = some (4, test4 .closing) ∧
      slotOf (underTest .reserved id) 7 = some (4, test4 .reserved) ∧ slotOf (underTest .running id) 7 = some (4, test4 .running) ∧
      Serves (underTest .reserved id) ∧ Serves (underTest .running id)) := by decide +kernel

theorem witness_SlotTimersExpire :
    (let s := underTest .running (fun sl => { sl with supervision := some 0, endTimer := some 0 })
     s.phase = .operating ∧
       s.slots.get 4 = some { test4 .running with supervision := some 0, endTimer := some 0 } ∧
       s.luminaires.get 7 = some (lamp .testing) ∧ s.branches[(2 : Fin 8)].state = .ready ∧ s.slots.Rising) ∧
    (let s := underTest .closing (fun sl => { sl with supervision := some 0, stopAttempts := 2 })
     s.slots.get 4 = some { test4 .closing with supervision := some 0, stopAttempts := 2 } ∧ s.slots.Rising) := by
  decide +kernel

theorem witness_AReleaseQueuesOneResult :
    (let s := { underTest .closing (fun sl => { sl with outcome := some .pass }) with resultCounter := 65535 }
     s.slots.Rising ∧ s.slots.get 4 = some { test4 .closing with outcome := some .pass } ∧
       s.luminaires.get 7 = some (lamp .stopping)) ∧
    (let s := inFlight stop7 3 (underTest .closing id)
     AnswerMatches s 2 ⟨stop7, 3, 60, false⟩ (nodeAnswer 5 0x81 goodRecord) ⟨5, 0x81, goodRecord⟩ goodReading none 7
         (lamp .stopping) ∧
       stop7.kind = .stop ∧ stop7.issuer = .slot 4 7 ∧ s.slots.get 4 = some (test4 .closing)) := by decide +kernel

theorem witness_SchedulerRequestsActByState :
    Serves State.reset ∧ State.reset.sched = .suspended ∧ (Serves placing ∧ placing.sched = .active) ∧
    (Serves { State.reset with sched := .emergency } ∧ { State.reset with sched := .recovery }.sched = .recovery) := by
  decide +kernel

theorem witness_AnEmgAssertionRecallsEverySlot :
    ((underTest .running id).phase = .operating ∧ (underTest .running id).emgLine = false ∧
      (underTest .running id).slots.Rising ∧ (underTest .running id).sched = .suspended ∧
      (underTest .running id).slots.get 4 = some (test4 .running) ∧ (underTest .running id).mask.getLsbD 15 = false ∧
      (underTest .running id).outbox.length < 32) ∧
    (underTest .reserved id).slots.get 4 = some (test4 .reserved) ∧
    { State.reset with sched := .recovery }.sched = .recovery := by decide +kernel

theorem test_emg_recalls_each_status :
    (after .emgAssertion threeTests).slots.map (fun p => (p.1, p.2.status, p.2.outcome)) =
        [(4, .reserved, none), (5, .closing, some .interrupted), (6, .closing, some .pass)] ∧
      (after .emgAssertion threeTests).luminaires.map (fun p => (p.2.state, p.2.cancelPending)) =
        [(.starting, some .emergency), (.stopping, none), (.stopping, none)] ∧
      (after .emgAssertion threeTests).branches[(2 : Fin 8)].queue = [start7, stopExchange 6 8 (.slot 5 8) true] := by
  decide +kernel

theorem witness_AnEmgAssertionRecallsEverySlot_sound :
    SlotsSound threeTests ∧ BranchesSound threeTests ∧ CampaignsSound threeTests ∧ GroupsSound threeTests ∧
      threeTests.slots.Rising := by decide +kernel

/-- As `pause1`. -/
def pause6 : Fin 1 := ⟨0, by decide +kernel⟩

theorem witness_AnEmgReleaseLeadsToRecovery :
    (let s := { State.reset with sched := .emergency, emgLine := true, emgKept := true }
     s.phase = .operating ∧ s.emgLine = true ∧ s.sched = .emergency) ∧
    (let s := { State.reset with emgLine := true, emgKept := true }
     s.emgLine = true ∧ s.sched ≠ .emergency) ∧
    (let s := { State.reset with sched := .recovery, recovery := some 0, resumeTo := .active }
     s.sched = .recovery ∧ s.recovery = some 0 ∧ s.mask.getLsbD 16 = false ∧ s.outbox.length < 32) := by decide +kernel

theorem witness_CampaignLoadReplacesOrAppends :
    (Serves State.reset ∧ (List.replicate 132 (0 : Byte)).length = 4 * (33 : Byte).toNat ∧ 32 < (33 : Byte).toNat ∧
      4 ≤ (4 : Byte).toNat ∧ 2 ≤ (2 : Byte).toNat ∧ entriesOf (entryBytes [3, 0, 0, 0]) = none) ∧
    ((1 : Byte).toNat = ((1 : Fin 4) : Nat) ∧ (32 : Byte).toNat ≤ 32 ∧
      entriesOf (entryBytes [0, 0, 7, 0, 2, 0, 0, 3]) = some [⟨.test 7, false, false⟩, ⟨.mark, true, true⟩]) ∧
    State.reset.channels[(1 : Fin 4)].state = .empty ∧
    (onChannel { oneTest with state := .running } State.reset).channels[(1 : Fin 4)].state = .running ∧
    64 < ((onChannel { entries := List.replicate 64 (⟨.mark, false, false⟩ : Entry), state := .loaded }
      State.reset).channels[(1 : Fin 4)].entries ++ ([⟨.mark, false, false⟩] : List Entry)).length := by decide +kernel

theorem witness_CampaignStartRunsOrQueues :
    (let s := onChannel oneTest (site .due)
     let ch := s.channels[(1 : Fin 4)]
     Serves s ∧ (1 : Byte).toNat = ((1 : Fin 4) : Nat) ∧ ch.state = .loaded ∧
       ch.entries[0]? = some ⟨.test 7, false, false⟩ ∧ s.luminaires.get 7 = some (lamp .due) ∧
       (lamp .due).state ≠ .outOfService ∧ ch.stopPosition ≠ some 0) ∧
    (onChannel oneTest State.reset).luminaires.get 7 = none ∧ State.reset.mask.getLsbD 9 = false ∧
    State.reset.channels[(1 : Fin 4)].state = .empty ∧
    (onChannel { oneTest with state := .held } State.reset).channels[(1 : Fin 4)].state = .held ∧
    (site .outOfService).luminaires.get 7 = some (lamp .outOfService) ∧ (site .due).groups.get 61 = none ∧
    (let s := onChannel { entries := [⟨.groupTest 60, false, false⟩], state := .loaded } { site .due with
       groups := [(60, ⟨2, [6, 7], 0⟩)] }
     s.groups.get 60 = some ⟨2, [6, 7], 0⟩ ∧ ([6, 7] : List Nat)[1]? = some 7 ∧ s.luminaires.get 6 = none ∧
       s.channels[(1 : Fin 4)].entries[0]? = some ⟨.groupTest 60, false, false⟩) ∧
    (onChannel { entries := [⟨.mark, true, false⟩], state := .done } State.reset).channels[(1 : Fin 4)].inFlight = [] ∧
    (onChannel { state := .loaded } State.reset).channels[(1 : Fin 4)].entries = [] := by decide +kernel

theorem witness_CampaignsPauseAtAPosition_released :
    (let ch := (flying .held fun ch => { ch with heldEntry := some 0 }).channels[(1 : Fin 4)]
     (4, 0) ∈ ch.inFlight ∧ (∀ p ∈ ch.inFlight, p.1 ≠ 5) ∧ (∀ p ∈ ch.inFlight, p.1 ≠ 4 → p.2 ≠ 0) ∧ ch.state = .held ∧
       ch.heldEntry = some 0 ∧ ch.finishWatch = [] ∧ ch.takenUp = false ∧
       ch.entries[ch.cursor]? = some ⟨.test 7, false, true⟩ ∧ ch.stopPosition ≠ some ch.cursor ∧
       (flying .held id).luminaires.get 7 = some (lamp .stopping)) ∧
    (let ch := (flying .held fun ch => { ch with inFlight := [(4, 0), (5, 0)] }).channels[(1 : Fin 4)]
     ∃ p ∈ ch.inFlight, p.1 ≠ 4 ∧ p.2 = 0) ∧
    (flying .paused fun ch => { ch with finishWatch := [0] }).channels[(1 : Fin 4)].finishWatch = [0] ∧
    (let ch := (flying .draining fun ch => { ch with restartQueued := true }).channels[(1 : Fin 4)]
     ch.inFlight = [(4, 0)] ∧ ch.state = .draining ∧ ch.heldEntry = none ∧ ch.restartQueued = true ∧
       ch.entries[0]? = some ⟨.test 7, false, false⟩ ∧ ch.stopPosition ≠ some 0) ∧
    (flying .draining id).channels[(1 : Fin 4)].restartQueued = false ∧
    ((flying .held id).mask.getLsbD 10 = false ∧ (flying .held id).mask.getLsbD 12 = false ∧
      (flying .held id).mask.getLsbD 13 = false ∧ (flying .held id).mask.getLsbD 14 = false ∧
      (flying .held id).outbox.length < 31) := by decide +kernel

/-- As `pause1`. -/
def pause6b : Fin 1 := ⟨0, by decide +kernel⟩

theorem witness_CampaignsPauseAtAPosition :
    (let ch := (onChannel { oneTest with state := .running, takenUp := true, cursor := 1 } (site .due)).channels[(1 : Fin 4)]
     ch.state = .running ∧ ch.takenUp = true ∧ ch.atPosition = false ∧ (1 : Byte).toNat = ch.cursor ∧
       (63 : Byte).toNat ≤ 63 ∧ (63 : Byte).toNat ≠ ch.cursor ∧ 63 < (64 : Byte).toNat) ∧
    (let s := onChannel { oneTest with state := .held, heldEntry := some 0 } (site .due)
     Serves s ∧ s.channels[(1 : Fin 4)].state = .held ∧
       (after (.campaignPause 3 [1]) s).channels[(1 : Fin 4)].state = .paused ∧
       ((after (.campaignPause 3 [1]) s).luminaires.get 7).map Luminaire.blockedBy = some (some .scheduler)) ∧
    (onChannel { oneTest with state := .paused } State.reset).channels[(1 : Fin 4)].state = .paused ∧
    State.reset.channels[(1 : Fin 4)].state = .empty ∧ Serves (site .due) ∧ (site .due).mask.getLsbD 11 = false := by
  decide +kernel

theorem witness_CampaignResumeTakesUpAgain :
    (let s := onChannel { oneTest with state := .paused, heldEntry := some 0 } (site .due)
     Serves s ∧ s.channels[(1 : Fin 4)].state = .paused ∧ s.channels[(1 : Fin 4)].heldEntry.isSome = true) ∧
    (let s := onChannel { oneTest with state := .paused, takenUp := true } (site .due)
     s.channels[(1 : Fin 4)].heldEntry = none ∧ s.channels[(1 : Fin 4)].takenUp = true ∧
       s.channels[(1 : Fin 4)].entries[(1 : Byte).toNat]? = some ⟨.test 7, false, true⟩) ∧
    (let s := onChannel { oneTest with state := .halted } (site .due)
     s.channels[(1 : Fin 4)].state = .halted ∧ s.channels[(1 : Fin 4)].entries[0]? = some ⟨.test 7, false, false⟩ ∧
       s.channels[(1 : Fin 4)].entries[0 + 1]? = some ⟨.test 7, false, true⟩ ∧
       s.luminaires.get 7 = some (lamp .due) ∧ s.channels[(1 : Fin 4)].stopPosition ≠ some 1) ∧
    State.reset.channels[(1 : Fin 4)].state ≠ .paused ∧ State.reset.channels[(1 : Fin 4)].state ≠ .halted ∧
    63 < (64 : Byte).toNat ∧ (63 : Byte).toNat ≤ 63 := by decide +kernel

theorem witness_CampaignStopReturnsToLoaded :
    let s := onChannel { oneTest with state := .running, inFlight := [(4, 0)], run := 4294967295 } (underTest .running id)
    Serves s ∧ s.channels[(1 : Fin 4)].state ≠ .empty ∧ s.slots.get 4 = some (test4 .running) ∧
      State.reset.channels[(1 : Fin 4)].state = .empty := by decide +kernel

theorem witness_CampaignStopReturnsToLoaded_recall :
    Serves threeTests ∧ threeTests.channels[(1 : Fin 4)].state ≠ .empty ∧
      (∀ p ∈ threeTests.channels[(1 : Fin 4)].inFlight, (threeTests.slots.get p.1).isSome = true) ∧
      threeTests.slots.map (fun p => p.2.status) = [.reserved, .running, .closing] := by decide +kernel

theorem test_branchDisable_releases :
    ((after (.branchDisable 3 [2]) threeTests).results.map fun r => (r.luminaire, r.outcome)) = [(8, .lost), (9, .pass)] ∧
      (after (.branchDisable 3 [2]) threeTests).slots = [] ∧
      (after (.branchDisable 3 [2]) threeTests).sending = some ⟨false, 3, [2, 1]⟩ ∧
      occupiedOn threeTests 2 ≠ 0 := by decide +kernel

theorem witness_BranchesAreEnabledAndDisabled :
    (Serves (underTest .running id) ∧ (2 : Byte).toNat = ((2 : Fin 8) : Nat) ∧ (underTest .running id).slots.Rising ∧
      (underTest .running id).luminaires.Rising ∧ (underTest .running id).branches[(2 : Fin 8)].state = .ready ∧
      (underTest .running id).writeFates = []) ∧
    (onBranch { state := .direct } State.reset).branches[(2 : Fin 8)].state = .direct ∧
    (onBranch { state := .faulted, chatter := 8 } State.reset).branches[(2 : Fin 8)].state = .faulted := by decide +kernel

theorem witness_DirectModeAndNodeExchange :
    (Serves (site .due) ∧ (site .due).branches[(2 : Fin 8)].state = .ready ∧ occupiedOn (site .due) 2 = 0) ∧
    occupiedOn (underTest .running id) 2 ≠ 0 ∧
    (let s := onBranch { state := .direct } (site .due)
     Serves s ∧ s.branches[(2 : Fin 8)].state = .direct ∧ 0 < unreservedFree s 2 ∧ 1 ≤ be2 0 1 ∧ be2 1 255 ≤ 511 ∧
       (32 : Byte).toNat ≤ 32 ∧ ([] : List Byte).length = (0 : Byte).toNat ∧ ¬(be2 2 0 ≤ 511)) ∧
    unreservedFree (onBranch { state := .direct, queue := List.replicate 24 direct7 } (site .due)) 2 = 0 := by
  decide +kernel

theorem witness_SendsGoOutAndAreRepeated :
    (let s := onBranch { queue := [check7, stopExchange 5 7 .stray false] } (site .due)
     s.phase = .operating ∧ s.branches[(2 : Fin 8)].state = .ready ∧ s.branches[(2 : Fin 8)].inFlight = none ∧
       s.branches[(2 : Fin 8)].queue.find? (fun e => e.kind == .stop) = some (stopExchange 5 7 .stray false)) ∧
    (let s := onBranch { queue := [check7] } (site .due)
     s.branches[(2 : Fin 8)].queue.find? (fun e => e.kind == .stop) = none ∧
       s.branches[(2 : Fin 8)].queue.head? = some check7) ∧
    (onBranch { state := .off } (site .due)).branches[(2 : Fin 8)].state = .off ∧
    (inFlight check7 2 (site .due)).branches[(2 : Fin 8)].inFlight = some ⟨check7, 2, 60, false⟩ ∧
    nodeFrameOf [0x69] = none ∧
    (onBranch { inFlight := some ⟨check7, 3, 60, true⟩ } (site .due)).branches[(2 : Fin 8)].inFlight =
      some ⟨check7, 3, 60, true⟩ := by decide +kernel

theorem witness_AThirdFailureEndsUnanswered :
    (let s := inFlight check7 3 (site .due)
     s.phase = .operating ∧ s.branches[(2 : Fin 8)].inFlight = some ⟨check7, 3, 60, false⟩ ∧
       check7.luminaire = some 7 ∧ s.luminaires.get 7 = some (lamp .due) ∧ (lamp .due).branch = 2 ∧
       (lamp .due).node = check7.node ∧ check7.issuer = .placement ∧ (lamp .due).latches.noAnswer = false ∧
       s.mask.getLsbD 0 = false ∧ s.outbox.length < 32) ∧
    (let s := inFlight read7 3 (underTest .running (fun sl => { sl with missedPolls := 1 }))
     read7.issuer = .slot 4 7 ∧ read7.kind = .read ∧
       s.slots.get 4 = some { test4 .running with missedPolls := 1 } ∧ s.luminaires.get 7 = some (lamp .testing)) ∧
    (let s := { inFlight direct7 3 (site .due) with service := some ⟨9, 2⟩ }
     direct7.issuer = .host ∧ s.service = some ⟨9, 2⟩ ∧ s.sending = none) ∧
    ((inFlight read7 3 (underTest .running (fun sl => { sl with missedPolls := 2 }))).slots.get 4 =
        some { test4 .running with missedPolls := 2 } ∧ (underTest .running id).slots.Rising) ∧
    ((inFlight stop7 3 (underTest .closing (fun sl => { sl with stopAttempts := 2 }))).slots.get 4 =
      some { test4 .closing with stopAttempts := 2 }) ∧
    ((inFlight stop7 3 (underTest .closing (fun sl => { sl with stopAttempts := 3 }))).slots.get 4 =
      some { test4 .closing with stopAttempts := 3 }) ∧
    ((inFlight start7 3 (underTest .reserved id)).slots.get 4 = some (test4 .reserved) ∧
      (underTest .reserved id).luminaires.get 7 = some (lamp .starting)) := by decide +kernel

/-- A stray STOP to luminaire 7's node. -/
def stray7 : Exchange := stopExchange 5 7 .stray false

theorem witness_AThirdFailureEndsUnanswered_noRecord :
    (SendFailure 2 ⟨check7, 3, 60, false⟩ (.answerTimeout 2) ∧ SendFailure 2 ⟨check7, 3, 60, true⟩ (.nodeFrameByteGap 2) ∧
      SendFailure 2 ⟨check7, 3, 60, true⟩ (.nodeAnswerFrame 2 [0x69])) ∧
    (let s := { inFlight { direct7 with luminaire := none } 3 (site .due) with service := some ⟨9, 2⟩ }
     NoRecordTakes 2 { direct7 with luminaire := none } s ∧ s.service = some ⟨9, 2⟩ ∧ s.sending = none ∧
       (after (.nodeFrameByteGap 2) s).sending = some (doneReply 9 [0, 3]) ∧
       (after (.nodeFrameByteGap 2) s).luminaires = s.luminaires) ∧
    (let s := { inFlight stray7 3 (site .due) with luminaires := [] }
     NoRecordTakes 2 stray7 s ∧ stray7.issuer = .stray) ∧
    (let s := { inFlight check7 3 (site .due) with luminaires := [], checkPending := [7] }
     NoRecordTakes 2 check7 s ∧ check7.issuer = .placement ∧ s.luminaires.get 7 = none) := by
  refine ⟨⟨⟨rfl, rfl⟩, rfl, rfl, fun a h => ?_⟩, ⟨fun n l h _ => ?_, rfl, rfl, ?_⟩, ⟨fun n l _ h => ?_, rfl⟩,
    fun n l _ h => ?_, rfl, rfl⟩
  · exact absurd (h.symm.trans (show nodeFrameOf [0x69] = none from rfl)) (by simp)
  · exact absurd (h.symm.trans (show ({ direct7 with luminaire := none } : Exchange).luminaire = none from rfl)) (by simp)
  · decide +kernel
  · exact absurd (h.symm.trans (show Table.get ([] : Table Luminaire) n = none from rfl)) (by simp)
  · exact absurd (h.symm.trans (show Table.get ([] : Table Luminaire) n = none from rfl)) (by simp)

/-- As `pause1`. -/
def pause7 : Fin 1 := ⟨0, by decide +kernel⟩

theorem witness_AMatchingAnswerIsTaken :
    let s := inFlight check7 1 (site .due)
    s.phase = .operating ∧ s.branches[(2 : Fin 8)].inFlight = some ⟨check7, 1, 60, false⟩ ∧ check7.kind = .check ∧
      nodeFrameOf (nodeAnswer 5 0x81 goodRecord) = some ⟨5, 0x81, goodRecord⟩ ∧ nodeRecordOf goodRecord = some goodReading ∧
      goodReading.testing = false ∧ s.luminaires.get 7 = some (lamp .due) := by decide +kernel

theorem witness_AMatchingAnswerIsTaken_band :
    (({} : Params).coldNormal < ({} : Params).normalWarm ∧ ({} : Params).normalWarm < ({} : Params).warmHot ∧
      0 ≤ ({} : Params).hysteresis) ∧
    (bandAfter {} .normal 5 = .normal ∧ bandAfter {} .normal 3 = .normal ∧ bandAfter {} .normal 2 = .cold ∧
      bandAfter {} .hot 38 = .hot ∧ bandAfter {} .hot 37 = .warm ∧ bandAfter {} .unknown 40 = .hot) := by decide +kernel

theorem witness_AMatchingAnswerIsTaken_stray :
    let s := inFlight check7 1 (site .due)
    AnswerMatches s 2 ⟨check7, 1, 60, false⟩ (nodeAnswer 5 0x81 testingRecord) ⟨5, 0x81, testingRecord⟩ testingReading none 7
        (lamp .due) ∧
      check7.kind = .check ∧ check7.issuer = .placement ∧ testingReading.testing = true ∧
      (lamp .due).state.holdsSlot = false ∧ testingReading.chargerOk = true ∧ s.writeFates = [] ∧
      s.mask.getLsbD 2 = false ∧ strayStopWaits s 7 = false ∧ 0 < unreservedFree s 2 := by decide +kernel

theorem witness_AMatchingAnswerIsTaken_read :
    let s := inFlight read7 1 (underTest .running id)
    AnswerMatches s 2 ⟨read7, 1, 60, false⟩ (nodeAnswer 5 0x81 goodRecord) ⟨5, 0x81, goodRecord⟩ goodReading none 7
        (lamp .testing) ∧
      AnswerMatches s 2 ⟨read7, 1, 60, false⟩ (nodeAnswer 5 0x81 testingRecord) ⟨5, 0x81, testingRecord⟩ testingReading none 7
        (lamp .testing) ∧
      read7.kind = .read ∧ read7.issuer = .slot 4 7 ∧ s.slots.get 4 = some (test4 .running) ∧
      (test4 .running).branch = 2 ∧ (test4 .running).outcome = none ∧ s.branches[(2 : Fin 8)].state = .ready ∧
      nodeRecordOf [0x1F, 0x0E, 0xD8, 40, 0, 100] = some { testingReading with temperature := 40 } ∧
      bandAfter s.params .normal 40 = .hot ∧
      nodeRecordOf [0x1B, 0x0E, 0xD8, 20, 0, 100] = some { testingReading with lamp := false } := by decide +kernel

theorem witness_AMatchingAnswerIsTaken_closing :
    let s := inFlight read7 1 (underTest .closing (fun sl => { sl with outcome := some .cancelled, nodeElapsed := some 40 }))
    AnswerMatches s 2 ⟨read7, 1, 60, false⟩ (nodeAnswer 5 0x81 testingRecord) ⟨5, 0x81, testingRecord⟩ testingReading none 7
        (lamp .stopping) ∧
      read7.issuer = .slot 4 7 ∧ (lamp .stopping).state.holdsSlot = true ∧
      s.slots.get 4 = some { test4 .closing with outcome := some .cancelled, nodeElapsed := some 40 } ∧
      (after (.nodeAnswerFrame 2 (nodeAnswer 5 0x81 testingRecord)) s).slots.get 4 =
        some { test4 .closing with
          outcome := some .cancelled, nodeElapsed := some 40, lowest := some 3800, endVoltage := some 3800 } := by
  decide +kernel

theorem witness_AMatchingAnswerIsTaken_direct :
    (let s := { inFlight direct7 2 (onBranch { state := .direct } (site .due)) with service := some ⟨9, 2⟩ }
     s.phase = .operating ∧ s.branches[(2 : Fin 8)].inFlight = some ⟨direct7, 2, 60, false⟩ ∧ direct7.kind = .direct ∧
       direct7.issuer = .host ∧ s.service = some ⟨9, 2⟩ ∧ s.sending = none ∧ direct7.luminaire = some 7 ∧
       s.luminaires.get 7 = some (lamp .due) ∧
       nodeFrameOf (nodeAnswer 5 0x42 [7]) = some ⟨5, 0x42, [7]⟩ ∧ (⟨5, 0x42, [7]⟩ : NodeFrame).record = none ∧
       (after (.nodeAnswerFrame 2 (nodeAnswer 5 0x42 [7])) s).sending = some (doneReply 9 [1, 2, 0x42, 1, 7]) ∧
       (after (.nodeAnswerFrame 2 (nodeAnswer 5 0x42 [7])) s).service = none) ∧
    (⟨5, 0x81, goodRecord⟩ : NodeFrame).record = some (goodReading, none) ∧ goodReading.testing = false ∧
    (⟨5, 0x81, testingRecord⟩ : NodeFrame).record = some (testingReading, none) ∧ testingReading.testing = true ∧
    (lamp .due).state.holdsSlot = false := by decide +kernel

theorem witness_AMatchingAnswerIsTaken_directAlone :
    NoRecordTakes 2 { direct7 with luminaire := none } (site .due) := fun n l h => by cases (h : none = some n)

theorem witness_AnAcceptedStartBeginsTheTest_refused :
    let s := inFlight start7 1 (underTest .reserved id)
    AnswerMatches s 2 ⟨start7, 1, 60, false⟩ (nodeAnswer 5 0x82 (1 :: goodRecord)) ⟨5, 0x82, 1 :: goodRecord⟩ goodReading
        (some .notCharged) 7 (lamp .starting) ∧
      AnswerMatches s 2 ⟨start7, 1, 60, false⟩ (nodeAnswer 5 0x82 (3 :: testingRecord)) ⟨5, 0x82, 3 :: testingRecord⟩
        testingReading (some .alreadyTesting) 7 (lamp .starting) ∧
      start7.kind = .start ∧ start7.issuer = .slot 4 7 ∧ s.slots.get 4 = some (test4 .reserved) ∧
      s.branches[(2 : Fin 8)].state = .ready ∧ strayStopWaits s 7 = false ∧
      occupiedOn s 2 + (s.branches[(2 : Fin 8)].queue.filter fun e => !e.reserved).length ≤ queuePlaces := by
  decide +kernel

/-- As `pause1`. -/
def pause7b : Fin 1 := ⟨0, by decide +kernel⟩

theorem witness_AnAcceptedStartBeginsTheTest :
    let s := inFlight start7 1 (underTest .reserved id)
    s.branches[(2 : Fin 8)].inFlight = some ⟨start7, 1, 60, false⟩ ∧ start7.kind = .start ∧ start7.issuer = .slot 4 7 ∧
      nodeFrameOf (nodeAnswer 5 0x82 (0 :: goodRecord)) = some ⟨5, 0x82, 0 :: goodRecord⟩ ∧
      (⟨5, 0x82, 0 :: goodRecord⟩ : NodeFrame).record = some (goodReading, some .accepted) ∧
      s.slots.get 4 = some (test4 .reserved) ∧ s.luminaires.get 7 = some (lamp .starting) ∧
      bandAfter s.params (lamp .starting).band goodReading.temperature = .normal ∧
      bandAfter s.params .warm 40 = .hot ∧
      (Luminaire.cancelPending { lamp .starting with cancelPending := some .hostStop }) = some .hostStop := by decide +kernel

theorem witness_ChatterCountsAndFaults :
    (let s := onBranch { state := .off } (site .due)
     s.phase = .operating ∧ s.slots.Rising ∧ s.luminaires.Rising ∧ s.branches[(2 : Fin 8)].state = .off) ∧
    ((onBranch { chatter := 6 } (site .due)).branches[(2 : Fin 8)].chatter ≠ 7 ∧ min (6 + 1) 255 < 8) ∧
    ((onBranch { chatter := 255 } (site .due)).params.autoDisable[(2 : Fin 8)] = false ∧ min (255 + 1) 255 = 255) ∧
    ((onBranch { chatter := 7 } (site .due)).branches[(2 : Fin 8)].chatter = 7 ∧
      (site .due).mask.getLsbD 17 = false) ∧
    (let s := { threeTests with
       branches := threeTests.branches.set 2 { threeTests.branches[2] with chatter := 7 }
       params := { threeTests.params with autoDisable := Vector.replicate 8 true } }
     s.phase = .operating ∧ s.slots.Rising ∧ s.luminaires.Rising ∧ s.branches[(2 : Fin 8)].state = .ready ∧
       8 ≤ min (s.branches[(2 : Fin 8)].chatter + 1) 255 ∧ s.params.autoDisable[(2 : Fin 8)] = true ∧ SlotsSound s ∧
       occupiedOn s 2 ≠ 0 ∧ (after (.chatterEvent 2) s).branches[(2 : Fin 8)].state = .faulted ∧
       (after (.chatterEvent 2) s).slots = []) := by decide +kernel

/-- A DIRECT branch with a CHECK queued and a NODE-EXCHANGE in flight faults: the CHECK leaves the check-pending set, the host's
request is answered REFUSED with STATE and FAULTED (R168, R175). -/
theorem witness_ChatterCountsAndFaults_removed :
    (let s := { site .due with
       branches := (site .due).branches.set 2
         { state := .direct, queue := [check7], inFlight := some ⟨direct7, 1, 60, false⟩, chatter := 7 }
       checkPending := [7, 8], service := some ⟨9, 2⟩
       params := { (site .due).params with autoDisable := Vector.replicate 8 true } }
     exchangesOn s 2 = [check7, direct7] ∧ direct7.issuer = .host ∧ s.sending = none ∧
       (after (.chatterEvent 2) s).checkPending = [8] ∧ (after (.chatterEvent 2) s).service = none ∧
       (after (.chatterEvent 2) s).sending = some ⟨true, 9, [Reason.state.code, 3]⟩) ∧
    (∀ e ∈ exchangesOn (onBranch { queue := [check7] } (site .due)) 2, e.issuer ≠ .host) := by decide +kernel

theorem witness_ResetAndPowerLossKeepOnlyTheStore : (site .due).phase = .operating := by decide +kernel

theorem witness_StartUpLoadsTheImage :
    (let s := { State.reset with phase := .unpowered, image := image7 false }
     imageOk s.image = true ∧ s.writeFates = [] ∧ s.emgLine = false ∧
       (∀ p ∈ s.image.luminaires, p.2.openMarker = false) ∧ s.image.luminaires.Rising ∧
       s.image.luminaires.get 7 = some (stored7 false) ∧ (stored7 false).service = .inService) ∧
    imageOk { image7 false with damaged := [.mode] } = false ∧ imageOk { image7 false with groups := [] } = false ∧
    (let s := { State.reset with phase := .unpowered, emgLine := true, image := image7 false }
     s.emgLine = true ∧ s.image.mask.getLsbD 15 = false ∧ (after .startUp s).sched = .emergency ∧
       (after .startUp s).outbox = [⟨none, .emergencyEntered .suspended 0 false⟩]) ∧
    ({ State.reset with writeFates := [false, true] }.writeFates[1]? = some true ∧ allItems[0]? = some (.luminaire 0) ∧
      allItems[1]? = some (.luminaire 1)) := by decide +kernel

theorem witness_TheRecallQueuesLostRecords :
    let s := { State.reset with phase := .unpowered, image := image7 true }
    imageOk s.image = true ∧ s.writeFates = [] ∧ s.emgLine = false ∧ s.image.luminaires.Rising ∧
      s.image.results.length + (s.image.luminaires.filter fun p => p.2.openMarker).length ≤ 256 ∧
      s.image.luminaires.get 7 = some (stored7 true) ∧ (stored7 true).openMarker = true := by decide +kernel

/-- Luminaires 7 to 34 of branch 3 marked, 35 of the OFF branch 2 marked, 36 not marked; one result queued, the counter at its
end. -/
def manyMarked : Image :=
  { luminaires := (List.range 28).map (fun j => (7 + j, { stored7 true with branch := 3, node := 1 + j, storedStart := some 9 })) ++
      [(35, { stored7 true with service := .outOfService }), (36, { stored7 false with node := 6 })]
    groups := [(60, 2)], branchOff := Vector.ofFn fun b => b == 2, counter := 65535
    results := [⟨0, 1, 0, 1, .periodic, .pass, none, some 5, 0, none, .normal⟩] }

/-- The recall queues at most 24 STOPs on a branch, none on one stored as OFF, and numbers its records on from the counter
(R210, R160, R181). -/
theorem test_recall_stops_and_records :
    (let t := after .startUp { State.reset with phase := .unpowered, image := manyMarked }
     imageOk manyMarked = true ∧ t.branches[(2 : Fin 8)] = { state := .off, hostOff := true } ∧
       t.branches[(3 : Fin 8)].queue = (List.range 24).map (fun j => stopExchange (1 + j) (7 + j) .recall false) ∧
       t.results.length = 30 ∧ t.results[1]? = some ⟨65535, 7, 3, 1, .unknown, .lost, some 9, none, 0, none, .unknown⟩ ∧
       t.results[2]? = some ⟨0, 8, 3, 2, .unknown, .lost, some 9, none, 0, none, .unknown⟩ ∧
       t.results[29]? = some ⟨27, 35, 2, 5, .unknown, .lost, none, none, 0, none, .unknown⟩ ∧ t.resultCounter = 28 ∧
       t.image.results = t.results ∧ t.image.counter = 28 ∧
       t.luminaires.get 35 = some { restored { stored7 true with service := .outOfService } with
         state := .recharging, recharge := some .pending, openMarker := false } ∧
       t.image.luminaires.get 35 = some { stored7 false with service := .recharging, recharge := some .pending } ∧
       t.luminaires.get 36 = some (restored { stored7 false with node := 6 }) ∧
       t.image.luminaires.get 36 = some { stored7 false with node := 6 } ∧ t.attn = true) := by decide +kernel

/-- With the queue one short of its room, the recall of two marks adds one record and makes the other steps of both (R210). -/
theorem test_recall_with_little_room :
    (let m := { manyMarked with
       luminaires := [(7, stored7 true), (8, { stored7 true with node := 6 })]
       results := List.replicate 255 ⟨0, 1, 0, 1, .periodic, .pass, none, some 5, 0, none, .normal⟩
       branchOff := Vector.replicate 8 false }
     let t := after .startUp { State.reset with phase := .unpowered, image := m }
     t.results.length = 256 ∧ t.resultCounter = 0 ∧ t.image.counter = 0 ∧
       (t.luminaires.get 8).map Luminaire.state = some .recharging ∧
       t.branches[(2 : Fin 8)].queue = [stopExchange 5 7 .recall false, stopExchange 6 8 .recall false]) := by decide +kernel

theorem witness_RestartKeepsTime :
    Serves (site .due) ∧
    (let s := { sendingReply with restartWaiting := true }
     s.phase = .operating ∧ s.sending.isSome = true ∧ s.restartWaiting = true ∧ s.quality = .unset) ∧
    (let s := { site .due with sending := some ⟨false, 1, []⟩, restartWaiting := true, emgLine := true, emgKept := true
                               image := image7 false }
     s.emgLine = true ∧ (after .replySent s).sched = .emergency ∧ (after .replySent s).mask.getLsbD 15 = false ∧
       (after .replySent s).outbox.getLast? = some ⟨some 2000, .emergencyEntered .suspended 0 false⟩) ∧
    (let s := { site .due with sending := some ⟨false, 1, []⟩, restartWaiting := true, image := image7 false }
     imageOk s.image = true ∧ s.quality ≠ .unset ∧ s.image.luminaires.get 7 = some (stored7 false) ∧
       (stored7 false).service = .inService ∧ (stored7 false).openMarker = false ∧ (stored7 false).due ≤ s.campus ∧
       ((after .replySent s).luminaires.get 7).map Luminaire.state = some .due) := by decide +kernel

/-- A test runs in slot 4 and its supervision timer's expiry is next. -/
def running4 : State := { underTest .running id with pending := [.supervisionTimerExpiry 4] }

theorem witness_EveryStepKeeps_next : (match step running4 with | .next t => t.pending | _ => running4.pending) = [] := by
  decide +kernel

theorem witness_EveryStepKeepsOutboxAttnAndScheduler :
    OutboxFits running4 ∧ AttnFollows running4 ∧ SchedulerAgrees running4 := by decide +kernel

theorem witness_EveryStepKeepsTablesCanonical : Canonical running4 := by decide +kernel

/-- As `pause1`. -/
def pause8 : Fin 1 := ⟨0, by decide +kernel⟩

theorem witness_EveryStepKeepsRoomForResults : ResultsFit running4 := by decide +kernel

theorem witness_EveryStepKeepsTheScheduleList : ScheduleSound running4 := by decide +kernel

theorem witness_EveryStepKeepsGroupCounts : GroupsSound running4 := by decide +kernel

theorem witness_EveryStepKeepsSlotsAndLuminaires : SlotsSound running4 := by decide +kernel

theorem witness_EveryStepKeepsBranchPlaces : BranchesSound running4 := by decide +kernel

theorem witness_EveryStepKeepsInFlightLists : CampaignsSound running4 := by decide +kernel

end Sys2Proof.Tests
end

section
/-! PROOFS. CAMPAIGN-LOAD (06_campaigns.md, R122, R123): the fields of its body, its owner case by case, the whole request. -/

namespace Sys2Proof.Machine

/-! ### Channel and flag bytes of a request -/

theorem channelOf_of_toNat_eq {cb : Byte} {c : Fin 4} (h : cb.toNat = c) : channelOf cb = some c := by
  have hlt : cb.toNat < 4 := h ▸ c.isLt
  unfold channelOf
  rw [dif_pos hlt]
  exact congrArg some (Fin.ext h)

theorem channelOf_of_le {cb : Byte} (h : 4 ≤ cb.toNat) : channelOf cb = none := dif_neg (Nat.not_lt.mpr h)

theorem flagOf_ite (b : Bool) : flagOf (if b then 1 else 0) = some b := by
  cases b <;> rfl

theorem flagOf_of_le {x : Byte} (h : 2 ≤ x.toNat) : flagOf x = none := by
  unfold flagOf
  split
  · exact absurd h (by decide)
  · exact absurd h (by decide)
  · rfl

/-! ### A request that is carried out and triggers no pass -/

/-- A request whose owner answers DONE with no trigger and no failed write leaves its owner's state with the reply going
out. -/
theorem request_done (kind : Nat) (tag : Byte) (body : List Byte) (s t : State)
    (owner : List Byte → State → State × Answer) (out : List Byte) (hs : Serves s) (hb : body.length ≤ 248)
    (hk : kind < 256) (ho : ownerOf kind tag = some owner) (h : owner body (atOwner s) = (t, .done out))
    (hsend : t.sending = none) (htrig : t.trigger = false) (hfail : t.writeFailed = false) :
    request kind tag body s = .next (finish { t with sending := some (doneReply tag out) }) := by
  have hdone : storedReply t.writeFailed tag out = doneReply tag out := by rw [hfail]; rfl
  rw [request_served kind tag body s owner hs hb hk ho, h, answer_done tag out t hsend, hdone]
  exact congrArg Host.Outcome.next (settle_of_no_trigger _ htrig)

/-! ### CAMPAIGN-LOAD's owner -/

theorem exec_campaignLoad (tag : Byte) (body : List Byte) (s : State) :
    exec (.campaignLoad tag body) s = request 0x50 tag body s := rfl

theorem loadBody_of_length (cb newb : Byte) {cnt : Byte} {raw : List Byte} (h : raw.length = 4 * cnt.toNat) :
    loadBody (cb :: newb :: cnt :: raw) = some (cb, newb, cnt.toNat, entryBytes raw) := if_pos h

/-- A field out of range, or a chunk of more than 32 entries, is refused before the campaign's state is looked at (R122). -/
theorem campaignLoad_outOfRange {cb newb cnt : Byte} {raw : List Byte} (s : State) (hlen : raw.length = 4 * cnt.toNat)
    (h : channelOf cb = none ∨ flagOf newb = none ∨ 32 < cnt.toNat ∨ entriesOf (entryBytes raw) = none) :
    campaignLoad (cb :: newb :: cnt :: raw) s = (s, .refused .outOfRange) := by
  unfold campaignLoad
  rw [loadBody_of_length cb newb hlen]
  dsimp only
  split
  case h_1 c new chunk hc hnew hchunk =>
    have hcount : 32 < cnt.toNat := by simpa [hc, hnew, hchunk] using h
    rw [if_pos hcount]
  case h_2 => rfl

/-- With every field in range the campaign's state and the loaded length decide (R123). -/
theorem campaignLoad_inRange {cb newb cnt : Byte} {raw : List Byte} {c : Fin 4} {new : Bool} {chunk : List Entry}
    (s : State) (hlen : raw.length = 4 * cnt.toNat) (hc : channelOf cb = some c) (hnew : flagOf newb = some new)
    (hchunk : entriesOf (entryBytes raw) = some chunk) (hcount : cnt.toNat ≤ 32) :
    campaignLoad (cb :: newb :: cnt :: raw) s =
      let ch := s.channels[c]
      let entries := if new then chunk else ch.entries ++ chunk
      if ch.state ≠ .empty ∧ ch.state ≠ .loaded ∧ ch.state ≠ .done then (s, .refused .state)
      else if 64 < entries.length then (s, .refused .full)
      else (modChan c (fun ch => ch.loaded entries) s, .done (u8 entries.length)) := by
  unfold campaignLoad
  rw [loadBody_of_length cb newb hlen]
  dsimp only
  rw [hc, hnew, hchunk]
  dsimp only
  rw [if_neg (Nat.not_lt.mpr hcount)]

/-! ### The whole request -/

theorem load_body_fits {cb newb cnt : Byte} {raw : List Byte} (h : raw.length ≤ 245) :
    (cb :: newb :: cnt :: raw).length ≤ 248 := by
  simp only [List.length_cons]
  omega

theorem exec_campaignLoad_refused {tag cb newb cnt : Byte} {raw : List Byte} {r : Reason} {s : State} (hs : Serves s)
    (hraw : raw.length ≤ 245)
    (h : campaignLoad (cb :: newb :: cnt :: raw) (atOwner s) = (atOwner s, .refused r)) :
    exec (.campaignLoad tag (cb :: newb :: cnt :: raw)) s = .next (answered s (refusal tag r)) := by
  rw [exec_campaignLoad]
  exact request_refused 0x50 tag _ s campaignLoad r hs (load_body_fits hraw) (by decide) rfl h

theorem exec_campaignLoad_loaded {tag cb newb cnt : Byte} {raw : List Byte} {c : Fin 4} {entries : List Entry} {s : State}
    (hs : Serves s) (hraw : raw.length ≤ 245)
    (h : campaignLoad (cb :: newb :: cnt :: raw) (atOwner s) =
      (modChan c (fun ch => ch.loaded entries) (atOwner s), .done (u8 entries.length))) :
    exec (.campaignLoad tag (cb :: newb :: cnt :: raw)) s =
      .next { answered s (doneReply tag (u8 entries.length)) with
        channels := s.channels.set c (s.channels[c].loaded entries) } := by
  have hsend : s.sending = none := hs.2.1
  rw [exec_campaignLoad,
    request_done 0x50 tag _ s _ campaignLoad _ hs (load_body_fits hraw) (by decide) rfl h hsend rfl rfl]
  rfl

/-- Settles O36: the fields' ranges first, then the campaign's state, then the length that the list would have. -/
theorem campaignLoadReplacesOrAppends : Obligations.CampaignLoadReplacesOrAppends := by
  unfold Obligations.CampaignLoadReplacesOrAppends
  constructor
  · intro s tag cb newb cnt raw hs hlen hraw hrange
    refine exec_campaignLoad_refused hs hraw (campaignLoad_outOfRange _ hlen ?_)
    exact hrange.imp channelOf_of_le (Or.imp_left flagOf_of_le)
  · intro s tag cb newb cnt raw c new chunk hs hcb hnewb hlen hcount hchunk
    have hraw : raw.length ≤ 245 := by omega
    have howner := campaignLoad_inRange (atOwner s) hlen (channelOf_of_toNat_eq hcb)
      (hnewb ▸ flagOf_ite new) hchunk hcount
    have hadmits : ∀ {x : CampaignState}, x = .empty ∨ x = .loaded ∨ x = .done →
        ¬ (x ≠ .empty ∧ x ≠ .loaded ∧ x ≠ .done) := by tauto
    refine ⟨fun hempty hloaded hdone => ?_, fun hstate hfull => ?_, fun hstate hroom => ?_⟩
    · exact exec_campaignLoad_refused hs hraw (howner.trans (if_pos ⟨hempty, hloaded, hdone⟩))
    · exact exec_campaignLoad_refused hs hraw (howner.trans ((if_neg (hadmits hstate)).trans (if_pos hfull)))
    · exact exec_campaignLoad_loaded hs hraw
        (howner.trans ((if_neg (hadmits hstate)).trans (if_neg (Nat.not_lt.mpr hroom))))

end Sys2Proof.Machine
end

section
/-! PROOFS. Scheduler control (07_scheduler_states_and_campus_emergency.md, R146 to R148, R152, R153): SCHED-START and
SCHED-SUSPEND in each scheduler state, the release of the EMG line, the end of the recovery hold-off. -/

namespace Sys2Proof.Machine

/-! ### SCHED-START and SCHED-SUSPEND, state by state -/

theorem schedStarted_suspended {s : State} (h : s.sched = .suspended) :
    schedStarted s = triggerPass { s with sched := .active, resumeTo := .active } := by
  unfold schedStarted
  rw [h]

theorem schedStarted_active {s : State} (h : s.sched = .active) : schedStarted s = s := by
  unfold schedStarted
  rw [h]

theorem schedStarted_emergency_or_recovery {s : State} (h : s.sched = .emergency ∨ s.sched = .recovery) :
    schedStarted s = { s with resumeTo := .active } := by
  unfold schedStarted
  rcases h with h | h <;> rw [h]

theorem schedSuspended_active {s : State} (h : s.sched = .active) :
    schedSuspended s = { s with sched := .suspended, resumeTo := .suspended } := by
  unfold schedSuspended
  rw [h]

theorem schedSuspended_suspended {s : State} (h : s.sched = .suspended) : schedSuspended s = s := by
  unfold schedSuspended
  rw [h]

theorem schedSuspended_emergency_or_recovery {s : State} (h : s.sched = .emergency ∨ s.sched = .recovery) :
    schedSuspended s = { s with resumeTo := .suspended } := by
  unfold schedSuspended
  rcases h with h | h <;> rw [h]

/-! ### The whole request -/

/-- A request whose owner answers DONE with no failed write: its reply goes out, then come the passes it triggers. -/
theorem request_done_settle (kind : Nat) (tag : Byte) (body : List Byte) (s t : State)
    (owner : List Byte → State → State × Answer) (out : List Byte) (hs : Serves s) (hb : body.length ≤ 248)
    (hk : kind < 256) (ho : ownerOf kind tag = some owner) (h : owner body (atOwner s) = (t, .done out))
    (hsend : t.sending = none) (hfail : t.writeFailed = false) :
    request kind tag body s = .next (settle { t with sending := some (doneReply tag out) }) := by
  have hdone : storedReply t.writeFailed tag out = doneReply tag out := by rw [hfail]; rfl
  rw [request_served kind tag body s owner hs hb hk ho, h, answer_done tag out t hsend, hdone]

/-- SCHED-START that leaves `t` in scheduler state `x`: the reply tells `x` and `t`'s resume-to. -/
theorem exec_schedStart {s t : State} (x : SchedState) (tag : Byte) (hs : Serves s)
    (h : schedStarted (atOwner s) = t) (hx : t.sched = x) (hsend : t.sending = s.sending)
    (hfail : t.writeFailed = false) :
    exec (.schedStart tag []) s =
      .next (settle { t with sending := some (doneReply tag [x.code, t.resumeTo.code]) }) := by
  have howner : schedStart [] (atOwner s) = (t, .done [x.code, t.resumeTo.code]) := by rw [← hx, ← h]; rfl
  exact request_done_settle 0x60 tag [] s t schedStart _ hs (Nat.zero_le _) (by decide) rfl howner
    (hsend.trans hs.2.1) hfail

/-- SCHED-SUSPEND that leaves `t` in scheduler state `x`, with no trigger (R147). -/
theorem exec_schedSuspend {s t : State} (x : SchedState) (tag : Byte) (hs : Serves s)
    (h : schedSuspended (atOwner s) = t) (hx : t.sched = x) (hsend : t.sending = s.sending)
    (htrig : t.trigger = false) (hfail : t.writeFailed = false) :
    exec (.schedSuspend tag []) s =
      .next (finish { t with sending := some (doneReply tag [x.code, t.resumeTo.code]) }) := by
  have howner : schedSuspend [] (atOwner s) = (t, .done [x.code, t.resumeTo.code]) := by rw [← hx, ← h]; rfl
  exact request_done 0x61 tag [] s t schedSuspend _ hs (Nat.zero_le _) (by decide) rfl howner
    (hsend.trans hs.2.1) htrig hfail

/-- Settles O33: the scheduler state decides what each request leaves; only SCHED-START in SUSPENDED makes a pass. -/
theorem schedulerRequestsActByState : Obligations.SchedulerRequestsActByState := by
  unfold Obligations.SchedulerRequestsActByState
  refine ⟨fun s tag hs => ⟨fun h => ?_, fun h => ?_, fun h => ?_⟩,
    fun s tag hs => ⟨fun h => ?_, fun h => ?_, fun h => ?_⟩⟩
  · exact exec_schedStart .active tag hs (schedStarted_suspended (s := atOwner s) h) rfl rfl rfl
  · rw [exec_schedStart .active tag hs (schedStarted_active (s := atOwner s) h) h rfl rfl, settle_of_no_trigger _ rfl]
    rfl
  · rw [exec_schedStart s.sched tag hs (schedStarted_emergency_or_recovery (s := atOwner s) h) rfl rfl rfl,
      settle_of_no_trigger _ rfl]
    rfl
  · exact exec_schedSuspend .suspended tag hs (schedSuspended_active (s := atOwner s) h) rfl rfl rfl rfl
  · exact exec_schedSuspend .suspended tag hs (schedSuspended_suspended (s := atOwner s) h) h rfl rfl rfl
  · exact exec_schedSuspend s.sched tag hs (schedSuspended_emergency_or_recovery (s := atOwner s) h) rfl rfl rfl rfl

/-! ### The release of the EMG line -/

theorem emgReleases_emergency {s : State} (h : s.sched = .emergency) :
    emgReleases s = { s with sched := .recovery, recovery := some (s.params.recoveryHoldOff * 60) } := if_pos h

theorem emgReleases_other {s : State} (h : s.sched ≠ .emergency) : emgReleases s = s := if_neg h

theorem emgChanges_release {s : State} (h : s.emgLine = true) :
    emgChanges false s = emgReleases { s with emgLine := false, emgKept := false } := by
  unfold emgChanges
  rw [if_neg (by simp [h])]
  rfl

/-- A release of the asserted line in the operating part updates the kept level, then reaches the scheduler (R148, R152);
where that leaves no trigger, no pass follows. -/
theorem exec_emgRelease {s t : State} (hop : s.phase = .operating) (hline : s.emgLine = true)
    (h : emgReleases { opened s with emgLine := false, emgKept := false } = t) (htrig : t.trigger = false) :
    exec .emgRelease s = .next (finish t) := by
  have hevent : exec .emgRelease s = event (emgChanges false) s := if_pos hop
  rw [hevent, event_operating _ _ hop, begin_eq_opened, emgChanges_release (s := opened s) hline, h,
    settle_of_no_trigger t htrig]

/-! ### The end of the recovery hold-off -/

/-- A notice that is not masked and finds room joins the outbox at its tail (R185, R186). -/
theorem raise_outbox_of_room {b : NoticeBody} {s : State} (hmask : s.mask.getLsbD b.kind = false)
    (hroom : s.outbox.length < 32) : (raise b s).outbox = s.outbox ++ [⟨knownTime s, b⟩] := by
  have hfull : ¬ outboxRoom ≤ s.outbox.length := Nat.not_le.mpr hroom
  unfold raise
  rw [if_neg (by simp [hmask]), if_neg hfull]
  rfl

theorem recoveryExpires_at_zero {s : State} (hsched : s.sched = .recovery) (hzero : s.recovery = some 0) :
    recoveryExpires s = triggerIf (decide (s.resumeTo = .active))
      (raise (.emergencyCleared s.resumeTo) { s with sched := s.resumeTo, recovery := none }) :=
  if_pos ⟨hsched, hzero⟩

/-- What the expiry leaves: the resume-to state entered, the timer stopped, a trigger exactly on entry to ACTIVE (R153). -/
theorem recoveryExpires_only {s : State} (hsched : s.sched = .recovery) (hzero : s.recovery = some 0)
    (htrig : s.trigger = false) :
    recoveryExpires s = { s with
      sched := s.resumeTo, recovery := none, trigger := decide (s.resumeTo = .active)
      outbox := (recoveryExpires s).outbox, noticesLost := (recoveryExpires s).noticesLost
      attn := (recoveryExpires s).attn } := by
  rw [recoveryExpires_at_zero hsched hzero,
    show raise _ _ = _ from raise_only _ { s with sched := s.resumeTo, recovery := none }]
  simp only [triggerIf, htrig, Bool.false_or]

theorem recoveryExpires_outbox {s : State} (hsched : s.sched = .recovery) (hzero : s.recovery = some 0)
    (hmask : s.mask.getLsbD 16 = false) (hroom : s.outbox.length < 32) :
    (recoveryExpires s).outbox = s.outbox ++ [⟨knownTime s, .emergencyCleared s.resumeTo⟩] := by
  rw [recoveryExpires_at_zero hsched hzero]
  exact raise_outbox_of_room (s := { s with sched := s.resumeTo, recovery := none }) hmask hroom

theorem exec_recoveryHoldOffExpiry {s : State} (hop : s.phase = .operating) :
    exec .recoveryHoldOffExpiry s = .next (settle (recoveryExpires (opened s))) :=
  event_operating recoveryExpires s hop

/-- Settles O35: the release acts only in EMERGENCY and makes no pass; the expiry enters resume-to and raises its notice. -/
theorem anEmgReleaseLeadsToRecovery : Obligations.AnEmgReleaseLeadsToRecovery := by
  unfold Obligations.AnEmgReleaseLeadsToRecovery
  refine ⟨fun s hop hline => ⟨fun hsched => ?_, fun hsched => ?_⟩, fun s hop hsched hzero => ?_⟩
  · exact exec_emgRelease hop hline (emgReleases_emergency hsched) rfl
  · exact exec_emgRelease hop hline (emgReleases_other hsched) rfl
  · exact ⟨recoveryExpires (opened s), exec_recoveryHoldOffExpiry hop,
      recoveryExpires_only (s := opened s) hsched hzero rfl,
      recoveryExpires_outbox (s := opened s) hsched hzero⟩

end Sys2Proof.Machine
end

section
/-! PROOFS. The takes of results and notices (09_results_and_notices.md, R182, R183, R189): each owner case by case, the one
store write of a take of results, the two requests. -/

namespace Sys2Proof.Machine

/-! ### A request that makes one store write -/

/-- The write of an item tells the event that it failed exactly when its fate is to fail (R207). -/
theorem writeItem_writeFailed (i : Item) {s : State} (h : s.writeFailed = false) :
    (writeItem i s).writeFailed = writeFails s := by
  cases hw : writeFails s with
  | false => rw [writeItem_lands i s hw]; exact h
  | true =>
    rw [writeItem_fails i s hw]
    unfold failWrite
    rw [show raise _ _ = _ from raise_only _ _]

theorem writeItem_quiet (i : Item) {s : State} (h : writeFails s = false) : Quiet s (writeItem i s) := by
  rw [writeItem_lands i s h]
  exact ⟨rfl, rfl, rfl, rfl⟩

/-- The part once a request has changed the fields to those of `base`, written item `i`, made the event a trigger where `trig`
says so, and been answered with `r`; its passes are still to come. -/
def afterWrite (i : Item) (trig : Bool) (r : Reply) (base : State) : State :=
  { triggerIf trig (writeItem i (atOwner base)) with sending := some r }

theorem afterWrite_only (i : Item) (trig : Bool) (r : Reply) (base : State) :
    Touches { base with receiver := .hunt, sending := some r } (afterWrite i trig r base) := by
  unfold Touches afterWrite
  rw [show writeItem i _ = _ from writeItem_only i (atOwner base)]
  rfl

theorem afterWrite_served (i : Item) (trig : Bool) (r : Reply) (base : State) :
    Served (writeFails base) r base (afterWrite i trig r base) :=
  ⟨afterWrite_only i trig r base, fun hfate => writeItem_quiet (s := atOwner base) i hfate⟩

theorem afterWrite_trigger (i : Item) (trig : Bool) (r : Reply) (base : State) :
    (afterWrite i trig r base).trigger = trig := by
  unfold afterWrite
  rw [show writeItem i _ = _ from writeItem_only i (atOwner base)]
  rfl

theorem afterWrite_image (i : Item) (trig : Bool) (r : Reply) {base : State} (h : writeFails base = false) :
    (afterWrite i trig r base).image = storeItem base i base.image := by
  unfold afterWrite
  rw [writeItem_lands i (atOwner base) h]
  cases i <;> rfl

/-- `Served` leaves ATTN free where a write fails, so the base may name the level that the request left. -/
theorem Served.with_attn {failed : Bool} {r : Reply} {base u : State} (h : Served failed r base u) :
    Served failed r { base with attn := u.attn } u := by
  obtain ⟨honly, hquiet⟩ := h
  refine ⟨honly, fun hfate => ?_⟩
  obtain ⟨houtbox, hlost, -, hstore⟩ := hquiet hfate
  exact ⟨houtbox, hlost, rfl, hstore⟩

/-- A request whose owner answers DONE with its change written is answered by the fate of that write, before its passes. -/
theorem request_written (kind : Nat) (tag : Byte) (body : List Byte) (s base : State)
    (owner : List Byte → State → State × Answer) (out : List Byte) (i : Item) (trig : Bool) (hs : Serves s)
    (hb : body.length ≤ 248) (hk : kind < 256) (ho : ownerOf kind tag = some owner)
    (h : owner body (atOwner s) = (triggerIf trig (writeItem i (atOwner base)), .done out)) (hsend : base.sending = none) :
    request kind tag body s =
      .next (settle (afterWrite i trig (storedReply (writeFails base) tag out) base)) := by
  have hfree : (triggerIf trig (writeItem i (atOwner base))).sending = none := by
    rw [show writeItem i _ = _ from writeItem_only i (atOwner base)]
    exact hsend
  have hfailed : (triggerIf trig (writeItem i (atOwner base))).writeFailed = writeFails base :=
    writeItem_writeFailed (s := atOwner base) i rfl
  rw [request_served kind tag body s owner hs hb hk ho, h, answer_done tag out _ hfree, ← hfailed]
  rfl

/-! ### The records of a take -/

/-- A take of at least one record from a collection returns no bytes exactly when the collection is empty (R182, R189). -/
theorem recordsBody_take {α : Type} (bytes : α → List Byte) (xs : List α) {k : Nat} (hk : 1 ≤ k) :
    recordsBody ((xs.take k).map bytes) = if xs = [] then [] else listOf ((xs.take k).map bytes) := by
  cases k with
  | zero => exact absurd hk (by decide)
  | succ k => cases xs <;> rfl

/-! ### TAKE-NOTICES -/

theorem exec_takeNotices (tag : Byte) (body : List Byte) (s : State) :
    exec (.takeNotices tag body) s = request 0x81 tag body s := rfl

theorem takeNotices_outOfRange {k : Byte} (s : State) (h : k.toNat = 0 ∨ 8 < k.toNat) :
    takeNotices [k] s = (s, .refused .outOfRange) := if_pos h

theorem takeNotices_inRange {k : Byte} (s : State) (hlow : 1 ≤ k.toNat) (hhigh : k.toNat ≤ 8) :
    takeNotices [k] s =
      (noticesTaken k.toNat s,
        .done (if s.outbox = [] then [] else listOf ((s.outbox.take k.toNat).map Notice.bytes))) := by
  rw [← recordsBody_take Notice.bytes s.outbox hlow]
  exact if_neg (by omega)

/-- A take of notices with its count in range: the reply, the outbox without its oldest, ATTN, and nothing else (R189). -/
theorem exec_takeNotices_inRange {k : Byte} (tag : Byte) {s : State} (hs : Serves s) (hlow : 1 ≤ k.toNat)
    (hhigh : k.toNat ≤ 8) :
    exec (.takeNotices tag [k]) s = .next { answered s (doneReply tag
        (if s.outbox = [] then [] else listOf ((s.outbox.take k.toNat).map Notice.bytes)))
      with outbox := s.outbox.drop k.toNat, attn := !s.results.isEmpty || !(s.outbox.drop k.toNat).isEmpty } := by
  have hsend : s.sending = none := hs.2.1
  rw [exec_takeNotices, request_done 0x81 tag [k] s _ takeNotices _ hs (by simp) (by decide) rfl
    (takeNotices_inRange (atOwner s) hlow hhigh) hsend rfl rfl]
  rfl

/-! ### TAKE-RESULTS -/

theorem exec_takeResults (tag : Byte) (body : List Byte) (s : State) :
    exec (.takeResults tag body) s = request 0x80 tag body s := rfl

theorem takeResults_outOfRange {k : Byte} (s : State) (h : k.toNat = 0 ∨ 4 < k.toNat) :
    takeResults [k] s = (s, .refused .outOfRange) := if_pos h

theorem takeResults_inRange {k : Byte} (s : State) (hlow : 1 ≤ k.toNat) (hhigh : k.toNat ≤ 4) :
    takeResults [k] s =
      (resultsTaken k.toNat s,
        .done (if s.results = [] then [] else listOf ((s.results.take k.toNat).map ResultRecord.bytes))) := by
  rw [← recordsBody_take ResultRecord.bytes s.results hlow]
  exact if_neg (by omega)

theorem resultsTaken_empty (k : Nat) {s : State} (h : s.results = []) : resultsTaken k s = s := if_pos h

theorem takeResults_empty {k : Byte} {s : State} (hlow : 1 ≤ k.toNat) (hhigh : k.toNat ≤ 4) (h : s.results = []) :
    takeResults [k] s = (s, .done []) := by
  rw [takeResults_inRange s hlow hhigh, resultsTaken_empty _ h, if_pos h]

/-- The fields after a take of `k` results: the oldest gone from the queue, and ATTN at its level (R182, R190). -/
def withoutResults (k : Nat) (s : State) : State := followAttn { s with results := s.results.drop k }

theorem takeResults_nonempty {k : Byte} {s : State} (hlow : 1 ≤ k.toNat) (hhigh : k.toNat ≤ 4) (h : s.results ≠ []) :
    takeResults [k] (atOwner s) =
      (triggerIf true (writeItem .results (atOwner (withoutResults k.toNat s))),
        .done (listOf ((s.results.take k.toNat).map ResultRecord.bytes))) := by
  have htaken : resultsTaken k.toNat (atOwner s) =
      triggerIf true (writeItem .results (atOwner (withoutResults k.toNat s))) := if_neg h
  have hne : (atOwner s).results ≠ [] := h
  rw [takeResults_inRange (atOwner s) hlow hhigh, if_neg hne, htaken]
  rfl

/-- A take that removes results, up to its passes: its one store write, its trigger and the reply by the write's fate
(R182, R183). -/
theorem exec_takeResults_nonempty {k : Byte} (tag : Byte) {s : State} (hs : Serves s) (hlow : 1 ≤ k.toNat)
    (hhigh : k.toNat ≤ 4) (h : s.results ≠ []) :
    exec (.takeResults tag [k]) s = .next (settle (afterWrite .results true
      (storedReply (writeFails s) tag (listOf ((s.results.take k.toNat).map ResultRecord.bytes)))
      (withoutResults k.toNat s))) := by
  rw [exec_takeResults]
  exact request_written 0x80 tag [k] s (withoutResults k.toNat s) takeResults _ .results true hs (by simp) (by decide) rfl
    (takeResults_nonempty hlow hhigh h) hs.2.1

/-! ### What a take of results leaves -/

theorem afterWrite_results (i : Item) (trig : Bool) (r : Reply) (base : State) :
    (afterWrite i trig r base).results = base.results := by
  rw [show afterWrite i trig r base = _ from afterWrite_only i trig r base]

/-- A take of `k` results whose write lands: the store holds the queue that is left and the counter, and ATTN is at the level
of what is left (R182, R190, R206). -/
theorem afterTake_lands {k : Nat} {r : Reply} {s u : State} (hu : afterWrite .results true r (withoutResults k s) = u)
    (hfate : writeFails s = false) :
    u.image.results = u.results ∧ u.image.counter = s.resultCounter ∧
      u.attn = (!u.results.isEmpty || !s.outbox.isEmpty) := by
  have himage := afterWrite_image .results true r (base := withoutResults k s) hfate
  have hresults := afterWrite_results .results true r (withoutResults k s)
  obtain ⟨-, -, hattn, -⟩ := (afterWrite_served .results true r (withoutResults k s)).2 hfate
  rw [hu] at himage hresults hattn
  rw [himage, hresults, hattn]
  exact ⟨rfl, rfl, rfl⟩

/-- Settles O14: the count's range first; a take of notices is done at once, one of results writes what is left and is a
trigger, unless the queue was empty. -/
theorem takesRemoveTheOldest : Obligations.TakesRemoveTheOldest := by
  unfold Obligations.TakesRemoveTheOldest
  refine ⟨fun s tag k hs => ⟨fun hrange => ?_, exec_takeNotices_inRange tag hs⟩,
    fun s tag k hs => ⟨fun hrange => ?_, fun hlow hhigh hempty => ?_, fun hlow hhigh hne => ?_⟩⟩
  · exact request_refused 0x81 tag [k] s takeNotices _ hs (by simp) (by decide) rfl (takeNotices_outOfRange _ hrange)
  · exact request_refused 0x80 tag [k] s takeResults _ hs (by simp) (by decide) rfl (takeResults_outOfRange _ hrange)
  · exact request_unchanged 0x80 tag [k] s takeResults _ hs (by simp) (by decide) rfl
      (takeResults_empty (s := atOwner s) hlow hhigh hempty)
  · have hresults := afterWrite_results .results true
      (storedReply (writeFails s) tag (listOf ((s.results.take k.toNat).map ResultRecord.bytes))) (withoutResults k.toNat s)
    refine ⟨_, exec_takeResults_nonempty tag hs hlow hhigh hne, afterWrite_trigger .results true _ _, hresults,
      afterTake_lands rfl, ?_⟩
    rw [hresults]
    exact (afterWrite_served .results true _ (withoutResults k.toNat s)).with_attn

end Sys2Proof.Machine
end

section
/-! PROOFS. IDENT and GET-PARAM (10_the_host_link.md, R199, R201): the reply's strings, the check of number and index, and the
two requests, which change nothing. -/

namespace Sys2Proof.Machine

/-! ### IDENT -/

theorem exec_ident (tag : Byte) (body : List Byte) (s : State) :
    exec (.ident tag body) s = request 0x02 tag body s := rfl

/-- A string on the wire: its length in a count byte, then its ASCII characters (R199). -/
def wireString (text : String) : List Byte :=
  BitVec.ofNat 8 text.length :: text.toList.map fun ch => BitVec.ofNat 8 ch.toNat

theorem identBytes_eq_wireStrings : identBytes = wireString "BASKENDA" ++ wireString "SV-4120" ++ [3] := by decide

theorem exec_ident_answered (tag : Byte) {s : State} (hs : Serves s) :
    exec (.ident tag []) s =
      .next (answered s (doneReply tag (wireString "BASKENDA" ++ wireString "SV-4120" ++ [3]))) := by
  rw [exec_ident, ← identBytes_eq_wireStrings]
  exact request_unchanged 0x02 tag [] s ident identBytes hs (by simp) (by decide) rfl rfl

/-! ### GET-PARAM -/

theorem exec_getParam (tag : Byte) (body : List Byte) (s : State) :
    exec (.getParam tag body) s = request 0x04 tag body s := rfl

theorem getParam_of_isParam {num index : Byte} (s : State) (h : isParam num.toNat index.toNat = true) :
    getParam [num, index] s = (s, .done ([num, index] ++ s16 (s.params.value num.toNat index.toNat))) := if_pos h

theorem getParam_of_not_isParam {num index : Byte} (s : State) (h : ¬ isParam num.toNat index.toNat = true) :
    getParam [num, index] s = (s, .refused .outOfRange) := if_neg h

/-- The check of number and index: a number of at most 13, with an index of at most 7 for the two parameters kept once per
branch and index 0 for the others (R200). -/
theorem isParam_toNat_iff (num index : Byte) :
    isParam num.toNat index.toNat = true ↔
      num.toNat ≤ 13 ∧ (if num = 7 ∨ num = 8 then index.toNat ≤ 7 else index = 0) := by
  have hbranch : (num.toNat = 7 ∨ num.toNat = 8) ↔ (num = 7 ∨ num = 8) := by bv_omega
  have hindex : index.toNat = 0 ↔ index = 0 := by bv_omega
  unfold isParam
  by_cases hper : num = 7 ∨ num = 8
  · have hnum : num.toNat ≤ 13 := by bv_omega
    simp only [hbranch, hper, hnum, if_true, true_and, decide_eq_true_eq]
    omega
  · simp only [hbranch, hper, if_false, Bool.and_eq_true, decide_eq_true_eq, beq_iff_eq, hindex]
    rw [Nat.lt_succ_iff]

/-- GET-PARAM by the check of number and index alone (R201). -/
theorem exec_getParam_answered (tag num index : Byte) {s : State} (hs : Serves s) :
    exec (.getParam tag [num, index]) s = .next (answered s
      (if isParam num.toNat index.toNat = true then
        doneReply tag ([num, index] ++ s16 (s.params.value num.toNat index.toNat))
      else refusal tag .outOfRange)) := by
  rw [exec_getParam]
  by_cases hparam : isParam num.toNat index.toNat = true
  · rw [if_pos hparam]
    exact request_unchanged 0x04 tag _ s getParam _ hs (by simp) (by decide) rfl (getParam_of_isParam (atOwner s) hparam)
  · rw [if_neg hparam]
    exact request_refused 0x04 tag _ s getParam _ hs (by simp) (by decide) rfl (getParam_of_not_isParam _ hparam)

/-- Settles O10: neither owner changes the state, and GET-PARAM's check is R200's on number and index. -/
theorem identAndGetParamAnswer : Obligations.IdentAndGetParamAnswer := by
  unfold Obligations.IdentAndGetParamAnswer
  refine ⟨fun s tag hs => exec_ident_answered tag hs, fun s tag num index hs => ?_⟩
  simp only [← isParam_toNat_iff]
  exact exec_getParam_answered tag num index hs

end Sys2Proof.Machine
end

section
/-! PROOFS. What a pass makes of a candidate (04_the_schedule_list_and_placement.md, R72, R74, R77): reserved exactly when every
condition holds, else the reason of the first that fails, or the CHECK. -/

namespace Sys2Proof.Machine

/-! ### Lists of conditions -/

theorem allHold_or_firstFailing (xs : List (Prop × BlockedBy)) : AllHold xs ∨ ∃ r, FirstFailing xs r := by
  induction xs with
  | nil => exact .inl fun x hx => nomatch hx
  | cons x rest ih =>
    obtain ⟨c, q⟩ := x
    by_cases hc : c
    · rcases ih with hall | ⟨r, hr⟩
      · exact .inl (AllHold.cons.mpr ⟨hc, hall⟩)
      · exact .inr ⟨r, .inr ⟨hc, hr⟩⟩
    · exact .inr ⟨q, .inl ⟨hc, rfl⟩⟩

theorem AllHold.nil : AllHold [] := fun _ hx => nomatch hx

/-- The coverage condition of R38, group by group. -/
theorem allHold_groups {s : State} {l : Luminaire} :
    AllHold (l.groups.map fun g =>
      ((∀ r, s.groups.get g = some r → r.dark - (if l.dark then 1 else 0) < r.cap, .group g) : Prop × BlockedBy)) ↔
    ∀ g ∈ l.groups, ∀ r, s.groups.get g = some r → r.dark - (if l.dark then 1 else 0) < r.cap := by
  unfold AllHold
  simp only [List.forall_mem_map]

/-! ### The verdict RESERVE -/

theorem lateVerdict_reserve {s : State} {l : Luminaire} {from? : Option (Fin 4)}
    (h : AllHold (lateConditions s l from?)) : lateVerdict s l from? = .reserve := by
  unfold lateConditions at h
  obtain ⟨hwindow, h⟩ := AllHold.cons.mp h
  obtain ⟨hguard, h⟩ := AllHold.cons.mp h
  obtain ⟨hplaces, -⟩ := AllHold.cons.mp h
  rw [← windowApplies_true] at hwindow
  rw [← guardHolds_true] at hguard
  have hnoWindow : ¬ (windowApplies s from? && !openNow s) = true := by
    cases ho : openNow s
    · simpa [ho] using hwindow
    · simp
  unfold lateVerdict
  rw [if_neg hnoWindow, if_neg (by simp [hguard]), if_neg (Nat.not_lt.mpr hplaces)]

theorem verdict_not_admitted {s : State} {n : Nat} {l : Luminaire} {from? : Option (Fin 4)}
    (h : ¬ (l.state = .due ∨ (from?.isSome = true ∧ l.state = .idle))) : verdict s n l from? = .pass none := by
  rw [← admits_true, Bool.not_eq_true] at h
  unfold verdict
  rw [h]
  rfl

/-- R72 in one line: the state admits the candidate, and every condition up to the branch places holds. -/
theorem verdict_reserve_iff_allHold {s : State} {n : Nat} {l : Luminaire} {from? : Option (Fin 4)} :
    verdict s n l from? = .reserve ↔
      (l.state = .due ∨ (from?.isSome = true ∧ l.state = .idle)) ∧ AllHold (earlyConditions s n l from?) ∧
        l.band ≠ .unknown ∧ AllHold (lateConditions s l from?) := by
  by_cases hadm : l.state = .due ∨ (from?.isSome = true ∧ l.state = .idle)
  · obtain ⟨hfail, hhold⟩ := verdict_early (s := s) (n := n) hadm
    rcases allHold_or_firstFailing (earlyConditions s n l from?) with hearly | ⟨r, hr⟩
    · obtain ⟨hcheck, hlate⟩ := hhold hearly
      by_cases hband : l.band = .unknown
      · simp [hcheck hband, hband]
      · rw [hlate hband]
        rcases allHold_or_firstFailing (lateConditions s l from?) with hall | ⟨r, hr⟩
        · exact ⟨fun _ => ⟨hadm, hearly, hband, hall⟩, fun _ => lateVerdict_reserve hall⟩
        · rw [lateVerdict_reason hr]
          refine ⟨fun h => (by cases h), fun ⟨_, _, _, hall⟩ => ?_⟩
          have hreserve := lateVerdict_reserve hall
          rw [lateVerdict_reason hr] at hreserve
          cases hreserve
    · rw [hfail r hr]
      refine ⟨fun h => (by cases h), fun ⟨_, hearly, hband, hall⟩ => ?_⟩
      have hreserve := (hhold hearly).2 hband
      rw [hfail r hr, lateVerdict_reserve hall] at hreserve
      cases hreserve
  · rw [verdict_not_admitted hadm]
    exact ⟨fun h => (by cases h), fun h => absurd h.1 hadm⟩

/-- The band conditions of the early and the late part together: NORMAL or WARM (R72). -/
theorem band_reservable_iff (b : Band) (places : Prop) :
    (b ≠ .cold ∧ b ≠ .hot) ∧ (b = .unknown → places) ∧ b ≠ .unknown ↔ b = .normal ∨ b = .warm := by
  cases b <;> simp

theorem earlyConditions_iff {s : State} {n : Nat} {l : Luminaire} {from? : Option (Fin 4)} :
    AllHold (earlyConditions s n l from?) ↔
      (∀ t, l.holdOff = some t → t ≤ s.campus) ∧
      (l.latches.charger = false ∧ l.latches.mainsLost = false) ∧
      s.branches[l.branch].state = .ready ∧
      occupiedOn s l.branch < s.params.concurrency[l.branch] ∧
      (from?.isSome = true → campaignSlots s < s.params.campaignShare) ∧
      (∀ g ∈ l.groups, ∀ r, s.groups.get g = some r → r.dark - (if l.dark then 1 else 0) < r.cap) ∧
      n ∉ s.checkPending ∧ (l.band ≠ .cold ∧ l.band ≠ .hot) ∧
      (l.band = .unknown → 0 < unreservedFree s l.branch) := by
  unfold earlyConditions
  rw [AllHold.append, AllHold.append, allHold_groups]
  simp only [AllHold.cons, AllHold.nil, and_true]
  tauto

theorem lateConditions_iff {s : State} {l : Luminaire} {from? : Option (Fin 4)} :
    AllHold (lateConditions s l from?) ↔
      ((∀ c, from? = some c → s.channels[c].bypass = false) → openNow s = true) ∧
      (∀ e, guardEnd s from? = some e →
        s.campus + s.classes[l.cls].rated * 60 + s.params.guardMargin * 60 ≤ e) ∧
      2 ≤ unreservedFree s l.branch := by
  unfold lateConditions
  simp only [AllHold.cons, AllHold.nil, and_true]

theorem verdict_reserve_iff (s : State) (n : Nat) (l : Luminaire) (from? : Option (Fin 4)) :
    verdict s n l from? = .reserve ↔
      (l.state = .due ∨ (from?.isSome = true ∧ l.state = .idle)) ∧
      (∀ t, l.holdOff = some t → t ≤ s.campus) ∧
      (l.latches.charger = false ∧ l.latches.mainsLost = false) ∧
      s.branches[l.branch].state = .ready ∧
      occupiedOn s l.branch < s.params.concurrency[l.branch] ∧
      (from?.isSome = true → campaignSlots s < s.params.campaignShare) ∧
      (∀ g ∈ l.groups, ∀ r, s.groups.get g = some r → r.dark - (if l.dark then 1 else 0) < r.cap) ∧
      n ∉ s.checkPending ∧
      (l.band = .normal ∨ l.band = .warm) ∧
      ((∀ c, from? = some c → s.channels[c].bypass = false) → openNow s = true) ∧
      (∀ e, guardEnd s from? = some e →
        s.campus + s.classes[l.cls].rated * 60 + s.params.guardMargin * 60 ≤ e) ∧
      2 ≤ unreservedFree s l.branch := by
  rw [verdict_reserve_iff_allHold, earlyConditions_iff, lateConditions_iff,
    ← band_reservable_iff l.band (0 < unreservedFree s l.branch)]
  tauto

/-! ### The guard's end -/

theorem guardEnd_bypass (s : State) (c : Fin 4) (h : s.channels[c].bypass = true) :
    guardEnd s (some c) = nextBlackout s := by
  unfold guardEnd windowApplies
  rw [Option.any_some, h]
  rfl

theorem guardEnd_window (s : State) (from? : Option (Fin 4)) (h : ∀ c, from? = some c → s.channels[c].bypass = false) :
    guardEnd s from? = (match openIntervalEnd s, nextBlackout s with
      | some a, some z => some (min a z)
      | some a, none => some a
      | none, z => z) := by
  unfold guardEnd
  rw [if_pos (windowApplies_true.mpr h)]
  cases openIntervalEnd s <;> cases nextBlackout s <;> rfl

/-! ### What becomes of a candidate that is not reserved -/

theorem consider_unused {s : State} {n : Nat} {from? : Option (Fin 4)} (h : s.luminaires.get n = none) :
    consider n from? s = (s, false) := by
  unfold consider
  rw [h]

/-- What a pass makes of a used candidate by its verdict; the flag says whether it was reserved. -/
def byVerdict (n : Nat) (l : Luminaire) (from? : Option (Fin 4)) (s : State) : Verdict → State × Bool
  | .reserve => (reserve n l from? s, true)
  | .check => (queueCheck n l s, false)
  | .pass none => (s, false)
  | .pass (some r) => (block n r s, false)

theorem consider_eq {s : State} {n : Nat} {l : Luminaire} {from? : Option (Fin 4)} (hl : s.luminaires.get n = some l) :
    consider n from? s = byVerdict n l from? s (verdict s n l from?) := by
  unfold consider
  rw [hl]
  dsimp only
  cases verdict s n l from? with
  | pass r => cases r <;> rfl
  | _ => rfl

theorem consider_blocks {s : State} {n : Nat} {l : Luminaire} {from? : Option (Fin 4)} {r : BlockedBy}
    (hl : s.luminaires.get n = some l) (h : verdict s n l from? = .pass (some r)) :
    ∃ u, consider n from? s = (u, false) ∧ RecordMoves n (some { l with blockedBy := some r }) s u ∧
      u = withRecords s u := by
  obtain ⟨hmoves, honly⟩ := block_moves n l r s hl
  exact ⟨block n r s, (consider_eq hl).trans (by rw [h]; rfl), hmoves, honly⟩

theorem enqueue_ready {b : Fin 8} {e : Exchange} {s : State} (h : s.branches[b].state.works = true) :
    enqueue b e s = modBranch b (fun br => { br with queue := br.queue ++ [e] }) s := if_pos h

theorem consider_checks {s : State} {n : Nat} {l : Luminaire} {from? : Option (Fin 4)}
    (hl : s.luminaires.get n = some l) (h : verdict s n l from? = .check)
    (hready : s.branches[l.branch].state = .ready) :
    ∃ u, consider n from? s = (u, false) ∧ RecordMoves n (some { l with blockedBy := some .checkPending }) s u ∧
      u = { withRecords s u with
        checkPending := s.checkPending ++ [n]
        branches := s.branches.set l.branch { s.branches[l.branch] with
          queue := s.branches[l.branch].queue ++ [readExchange .check l.node n .placement] } } := by
  let t : State := modBranch l.branch
    (fun br => { br with queue := br.queue ++ [readExchange .check l.node n .placement] })
    { s with checkPending := s.checkPending ++ [n] }
  have hqueue : queueCheck n l s = block n .checkPending t := by
    unfold queueCheck
    rw [enqueue_ready (b := l.branch) (s := { s with checkPending := s.checkPending ++ [n] })
      (by change s.branches[l.branch].state.works = true; rw [hready]; rfl)]
  obtain ⟨hmoves, honly⟩ := block_moves n l .checkPending t hl
  refine ⟨block n .checkPending t, ?_, hmoves, ?_⟩
  · rw [consider_eq hl, h, ← hqueue]
    rfl
  · rw [honly]
    rfl

/-- Settles O5: R72's conditions as the two lists of `earlyConditions` and `lateConditions`, which decide the verdict. -/
theorem aCandidateIsReservedExactlyWhen : Obligations.ACandidateIsReservedExactlyWhen := by
  unfold Obligations.ACandidateIsReservedExactlyWhen
  refine ⟨guardEnd_bypass, guardEnd_window, fun s n from? => consider_unused, fun s n l from? hl => ⟨fun hadm => ?_,
    fun hadm => ⟨fun r hr => ?_, fun hearly hband => ?_⟩⟩, verdict_reserve_iff⟩
  · rw [consider_eq hl, verdict_not_admitted hadm]
    rfl
  · obtain ⟨hfail, hhold⟩ := verdict_early (s := s) (n := n) hadm
    refine consider_blocks hl ?_
    rcases hr with hr | ⟨hearly, hband, hr⟩
    · exact hfail r hr
    · rw [(hhold hearly).2 hband, lateVerdict_reason hr]
  · obtain ⟨-, -, hready, -⟩ := earlyConditions_iff.mp hearly
    exact consider_checks hl (((verdict_early hadm).2 hearly).1 hband) hready

end Sys2Proof.Machine
end

section
/-! PROOFS. What a step can do, said once: `Moves s t` holds when the part goes from `s` to `t` by the moves that the invariants
of Safety.lean distinguish, each with what its code has checked. Every command is such a sequence of moves; an invariant is then
one case per move. -/

namespace Sys2Proof.Machine

/-! ### The moves -/

/-- Only fields that no invariant reads differ. -/
def Aside (s t : State) : Prop :=
  t = { s with
    pending := t.pending, resetLine := t.resetLine, ownCount := t.ownCount, classes := t.classes, campus := t.campus
    quality := t.quality, staleness := t.staleness, mode := t.mode, staged := t.staged, windowOpen := t.windowOpen
    checkPending := t.checkPending, lastServed := t.lastServed, resultCounter := t.resultCounter
    noticesLost := t.noticesLost, mask := t.mask, params := t.params, receiver := t.receiver, held := t.held
    service := t.service, sending := t.sending, ready := t.ready, restartWaiting := t.restartWaiting
    storeState := t.storeState, writeFates := t.writeFates, trigger := t.trigger, writeFailed := t.writeFailed }

/-- Only the fields of scheduler control, the EMG line and the phase differ. -/
def OnlyControl (s t : State) : Prop :=
  t = { s with
    phase := t.phase, emgLine := t.emgLine, sched := t.sched, resumeTo := t.resumeTo, recovery := t.recovery
    emgKept := t.emgKept }

/-- Record `l` may become `l'` where no slot is concerned: a state that holds a slot stays, and with it the branch; the open
marker stays; the groups stay or are defined groups named once. -/
structure Alike (s : State) (l l' : Luminaire) : Prop where
  state : l'.state = l.state ∨ (l.state.holdsSlot = false ∧ l'.state.holdsSlot = false)
  marker : l'.openMarker = l.openMarker
  branch : l'.branch = l.branch ∨ l.state.holdsSlot = false
  groups : l'.groups = l.groups ∨ (l'.groups.Nodup ∧ ∀ g ∈ l'.groups, s.groups.has g = true)

/-- The exchanges of a queue that stand in unreserved places (R160). -/
def unreserved (q : List Exchange) : List Exchange := q.filter fun e => !e.reserved

/-- Branch `b` may become `br`: it takes no further unreserved place, it is not left working on nothing, and it leaves READY only
without occupied slots. -/
structure BranchMay (s : State) (b : Fin 8) (br : Branch) : Prop where
  places : (unreserved br.queue).length ≤ (unreserved s.branches[b].queue).length
  quiet : br.state.works = false → s.branches[b].state.works = false ∧
    (s.branches[b].queue = [] ∧ s.branches[b].inFlight = none → br.queue = [] ∧ br.inFlight = none)
  ready : br.state ≠ .ready → s.branches[b].state ≠ .ready ∨ occupiedOn s b = 0

/-- The slot holds the same test. -/
structure SameTest (sl sl' : Slot) : Prop where
  luminaire : sl'.luminaire = sl.luminaire
  branch : sl'.branch = sl.branch
  origin : sl'.origin = sl.origin

/-- The record of a released luminaire (R92, R112). -/
structure Freed (l l' : Luminaire) : Prop where
  state : l'.state.holdsSlot = false
  marker : l'.openMarker = false
  branch : l'.branch = l.branch
  groups : l'.groups = l.groups

/-- The campaign of a released slot forgets its pair (R136). -/
def forget (o : Origin) (k : Nat) (hasResult : Bool) (s : State) : State :=
  match o with
  | .campaign c _ _ =>
    if s.channels[c].inFlight.any fun p => p.1 == k then
      modChan c (fun ch =>
        { ch with
          inFlight := ch.inFlight.filter fun p => p.1 != k
          unstarted := if hasResult then ch.unstarted else saturate (ch.unstarted + 1) }) s
    else s
  | _ => s

/-- The part as start-up and restart have loaded and rebuilt it, before the instants, the calendar and the EMG line (R208 to
R211). -/
def booted (keepTime : Bool) (s : State) : State := rebuild (recallMarkers (loadImage (fresh keepTime s)))

/-- A reservation up to the store write and the campaign (R79 to R82). -/
def reservedCore (n k : Nat) (l : Luminaire) (sl : Slot) (e : Exchange) (s : State) : State :=
  putLum n (some { l.enter .starting with openMarker := true })
    (enqueue l.branch e { s with slots := s.slots.put k sl })

/-- What the part can do, move by move. -/
inductive Moves : State → State → Prop where
  | refl (s : State) : Moves s s
  | trans {s t u : State} (h1 : Moves s t) (h2 : Moves t u) : Moves s u
  | aside {s t : State} (h : Aside s t) : Moves s t
  | begins (s : State) : Moves s { s with lastWrites := [] }
  | raises (b : NoticeBody) (s : State) : Moves s (raise b s)
  | writes (i : Item) (s : State) : Moves s (writeItem i s)
  | noticesTaken (k : Nat) (s : State) : Moves s (noticesTaken k s)
  | resultsDropped (k : Nat) (s : State) : Moves s (followAttn { s with results := s.results.drop k })
  | calendar (w : Table WindowEntry) (x : Table Blackout) (s : State) (hw : s.windows.Rising → w.Rising)
      (hx : s.blackouts.Rising → x.Rising) : Moves s { s with windows := w, blackouts := x }
  | control {s t : State} (h : OnlyControl s t) (ha : SchedulerAgrees s → SchedulerAgrees t) : Moves s t
  | second (s : State) : Moves s (secondPasses s)
  | record (n : Nat) (l l' : Luminaire) (s : State) (hl : s.luminaires.get n = some l) (h : Alike s l l') :
      Moves s (putLum n (some l') s)
  | enrols (n : Nat) (l : Luminaire) (s : State) (hn : s.luminaires.get n = none) (hstate : l.state.holdsSlot = false)
      (hmarker : l.openMarker = false) (hnodup : l.groups.Nodup) (hgroups : ∀ g ∈ l.groups, s.groups.has g = true) :
      Moves s (putLum n (some l) s)
  | withdraws (n : Nat) (l : Luminaire) (s : State) (hl : s.luminaires.get n = some l)
      (hstate : l.state.holdsSlot = false) : Moves s (putLum n none s)
  | defines (g cap : Nat) (s : State) :
      Moves s { s with groups := s.groups.put g (groupDefined (s.groups.get g) cap) }
  | drops (g : Nat) (r : Group) (s : State) (hg : s.groups.get g = some r) (hr : r.members = []) :
      Moves s { s with groups := s.groups.drop g }
  | channel (c : Fin 4) (f : Channel → Channel) (s : State)
      (h : ∀ p ∈ (f s.channels[c]).inFlight, p ∈ s.channels[c].inFlight ∧ (f s.channels[c]).run = s.channels[c].run) :
      Moves s (modChan c f s)
  | joins (c : Fin 4) (k : Nat) (sl : Slot) (s : State) (hk : s.slots.get k = some sl)
      (ho : sl.origin = .campaign c s.channels[c].cursor s.channels[c].run) :
      Moves s (modChan c (fun ch => { ch with inFlight := ch.inFlight ++ [(k, s.channels[c].cursor)] }) s)
  | branch (b : Fin 8) (f : Branch → Branch) (s : State) (h : BranchMay s b (f s.branches[b])) : Moves s (modBranch b f s)
  | queues (b : Fin 8) (e : Exchange) (s : State) (h : e.reserved = true ∨ 0 < unreservedFree s b) :
      Moves s (enqueue b e s)
  | leaves (b : Fin 8) (f : Branch → Branch) (s t : State)
      (hf : (f s.branches[b]).queue = [] ∧ (f s.branches[b]).inFlight = none)
      (h : Moves (modBranch b f s) t) (ht : s.slots.Rising → occupiedOn t b = 0) : Moves s t
  | slot (k : Nat) (sl sl' : Slot) (s : State) (hk : s.slots.get k = some sl) (h : SameTest sl sl')
      (hstatus : sl'.status = sl.status) : Moves s { s with slots := s.slots.put k sl' }
  | reserves (n k : Nat) (l : Luminaire) (sl : Slot) (e : Exchange) (s : State) (hl : s.luminaires.get n = some l)
      (hk : s.slots.get k = none) (hlt : k < slotCount) (hwaits : l.state.waits = true)
      (hsl : sl.status = .reserved ∧ sl.luminaire = n ∧ sl.branch = l.branch)
      (hready : s.branches[l.branch].state = .ready) (hplaces : 2 ≤ unreservedFree s l.branch)
      (hroom : s.slots.length + s.results.length < resultRoom) : Moves s (reservedCore n k l sl e s)
  | starts (k : Nat) (sl sl' : Slot) (l l' : Luminaire) (s : State) (hk : s.slots.get k = some sl)
      (h : SameTest sl sl') (hold : sl.status = .reserved) (hnew : sl'.status = .running)
      (hl : s.luminaires.get sl.luminaire = some l) (hstate : l'.state = .testing) (hbranch : l'.branch = l.branch)
      (hgroups : l'.groups = l.groups) (hmarker : l'.openMarker = l.openMarker) :
      Moves s (putLum sl.luminaire (some l') { s with slots := s.slots.put k sl' })
  | closes (k : Nat) (sl sl' : Slot) (s : State) (hk : s.slots.get k = some sl) (h : SameTest sl sl')
      (hrunning : sl.status = .running) : Moves s (close k sl' s)
  | releasesWithout (k : Nat) (sl : Slot) (f : Luminaire → Luminaire) (b : Bool) (s u : State)
      (hk : s.slots.get k = some sl) (hf : ∀ l, Freed l (f l))
      (h : Moves (modLum sl.luminaire f (freeSlot k sl s)) u) (hslots : u.slots = s.slots.drop k)
      (hchannels : u.channels = s.channels) : Moves s (forget sl.origin k b u)
  | releasesWith (k : Nat) (sl sl' : Slot) (l l' : Luminaire) (r : ResultRecord) (b : Bool) (s u : State)
      (hk : s.slots.get k = some sl) (hsame : SameTest sl sl') (hl : s.luminaires.get sl.luminaire = some l)
      (hf : Freed l l') (h : Moves (freeSlot k sl' (putLum sl.luminaire (some l') (addResult r s))) u)
      (hslots : u.slots = s.slots.drop k) (hchannels : u.channels = s.channels) : Moves s (forget sl.origin k b u)
  | orphan (k : Nat) (sl sl' : Slot) (s : State) (hk : s.slots.get k = some sl) (h : SameTest sl sl')
      (hl : s.luminaires.get sl.luminaire = none) : Moves s (freeSlot k sl' s)
  | boots (keepTime : Bool) (s t : State) (h : Moves (booted keepTime s) t) (hattn : AttnFollows t)
      (hsched : SchedulerAgrees t) : Moves s t
  | stops (ph : Phase) (cut : Nat) (s : State) (h : ph ≠ .operating) : Moves s (stops ph cut s)

namespace Moves

theorem foldl {α : Type} {f : State → α → State} (hf : ∀ s a, Moves s (f s a)) (xs : List α) (s : State) :
    Moves s (xs.foldl f s) := foldl_only Moves.refl Moves.trans hf xs s

theorem triggers (b : Bool) (s : State) : Moves s (triggerIf b s) := aside rfl

theorem passTriggers (s : State) : Moves s (triggerPass s) := aside rfl

/-- A change of a channel that leaves its in-flight list and run number. -/
theorem channelKept (c : Fin 4) (f : Channel → Channel) (s : State)
    (h : (f s.channels[c]).inFlight = s.channels[c].inFlight ∧ (f s.channels[c]).run = s.channels[c].run) :
    Moves s (modChan c f s) := channel c f s fun _ hp => ⟨h.1 ▸ hp, h.2⟩

end Moves

/-! ### The fields of a record that `Alike` and `Freed` compare -/

@[simp] theorem enter_branch (l : Luminaire) (st : LumState) : (l.enter st).branch = l.branch := by
  unfold Luminaire.enter
  split <;> rfl

@[simp] theorem enter_openMarker (l : Luminaire) (st : LumState) : (l.enter st).openMarker = l.openMarker := by
  unfold Luminaire.enter
  split <;> rfl

theorem waitState_waits (s : State) (due : Nat) : (waitState s due).waits = true := by
  unfold waitState
  split <;> rfl

theorem holdsSlot_of_waits {st : LumState} (h : st.waits = true) : st.holdsSlot = false := by
  cases st with
  | idle => rfl
  | due => rfl
  | _ => cases h

theorem waitState_free (s : State) (due : Nat) : (waitState s due).holdsSlot = false :=
  holdsSlot_of_waits (waitState_waits s due)

/-- A change of other fields than state, open marker, branch and groups. -/
theorem Alike.same {s : State} {l l' : Luminaire} (hstate : l'.state = l.state) (hmarker : l'.openMarker = l.openMarker)
    (hbranch : l'.branch = l.branch) (hgroups : l'.groups = l.groups) : Alike s l l' :=
  ⟨.inl hstate, hmarker, .inl hbranch, .inl hgroups⟩

/-- A change of state between states that hold no slot. -/
theorem Alike.free {s : State} {l l' : Luminaire} (hold : l.state.holdsSlot = false) (hnew : l'.state.holdsSlot = false)
    (hmarker : l'.openMarker = l.openMarker) (hgroups : l'.groups = l.groups) : Alike s l l' :=
  ⟨.inr ⟨hold, hnew⟩, hmarker, .inr hold, .inl hgroups⟩

/-! ### Notices, writes, records -/

theorem modLum_moves (n : Nat) (f : Luminaire → Luminaire) (s : State)
    (h : ∀ l, s.luminaires.get n = some l → Alike s l (f l)) : Moves s (modLum n f s) := by
  unfold modLum
  split
  · rename_i l hl
    exact .record n l (f l) s hl (h l hl)
  · exact .refl s

theorem storeRecord_moves {n : Nat} {l l' : Luminaire} {s : State} (hl : s.luminaires.get n = some l)
    (h : Alike s l l') : Moves s (storeRecord n l' s) := (Moves.record n l l' s hl h).trans (.writes _ _)

theorem checkOverdue_moves (n : Nat) (s : State) : Moves s (checkOverdue n s) := by
  unfold checkOverdue
  split
  · rename_i l hl
    split
    · refine ((Moves.raises (.overdue n l.due l.blockedBy) s).trans (.record n l _ _ ?_ ?_)).trans (.writes _ _)
      · rw [raise_luminaires]
        exact hl
      · exact .same rfl rfl rfl rfl
    · exact .refl s
  · exact .refl s

theorem setLatch_moves (n : Nat) (k : Latch) (s : State) : Moves s (setLatch n k s) := by
  unfold setLatch
  split
  · rename_i l hl
    split
    · exact .refl s
    · refine .trans ?_ (.raises _ _)
      exact .record n l _ s hl (.same rfl rfl rfl rfl)
  · exact .refl s

theorem block_moves_on (n : Nat) (r : BlockedBy) (s : State) : Moves s (block n r s) :=
  modLum_moves _ _ _ fun _ _ => .same rfl rfl rfl rfl

/-! ### The calendar and the stored instants -/

theorem windowEvent_moves (s : State) : Moves s (windowEvent s) := by
  unfold windowEvent
  split
  · exact .refl s
  · split
    · exact ((Moves.aside (t := { s with windowOpen := true }) rfl).trans (.raises _ _)).trans (.passTriggers _)
    · exact (Moves.aside (t := { s with windowOpen := false }) rfl).trans (.raises _ _)

theorem modeTakesEffect_moves (m : Mode) (w : Bool) (s : State) : Moves s (modeTakesEffect m w s) := by
  unfold modeTakesEffect
  split
  · exact .refl s
  · exact ((((Moves.aside (t := { s with mode := m }) rfl).trans (.writes _ _)).trans (.raises _ _)).trans
      (.passTriggers _)).trans (windowEvent_moves _)

theorem evaluateWindow_moves (s : State) : Moves s (evaluateWindow s) := by
  unfold evaluateWindow
  simp only
  split
  · exact ((windowEvent_moves s).trans (.aside (t := { windowEvent s with staged := none }) rfl)).trans
      (modeTakesEffect_moves _ _ _)
  · exact windowEvent_moves s

theorem holdOffArrives_moves (n : Nat) (s : State) : Moves s (holdOffArrives n s) := by
  unfold holdOffArrives
  split
  · rename_i l hl
    split
    · refine .trans ?_ (.passTriggers _)
      exact storeRecord_moves hl (.same rfl rfl rfl rfl)
    · exact .refl s
  · exact .refl s

theorem rechargeArrives_moves (n : Nat) (s : State) : Moves s (rechargeArrives n s) := by
  unfold rechargeArrives
  split
  · rename_i l hl
    split
    · rename_i h
      refine ((storeRecord_moves hl (.free (by rw [h.2.1]; rfl) ?_ ?_ ?_)).trans (.passTriggers _)).trans
        (checkOverdue_moves _ _)
      · simpa using waitState_free s l.due
      · simp
      · simp
    · exact .refl s
  · exact .refl s

theorem dueArrives_moves (n : Nat) (s : State) : Moves s (dueArrives n s) := by
  unfold dueArrives
  split
  · rename_i l hl
    split
    · rename_i h
      exact .record n l _ s hl (.free (by rw [h.1]; rfl) (by simp; rfl) (by simp) (by simp))
    · exact .refl s
  · exact .refl s

theorem instantsArrive_moves (n : Nat) (s : State) : Moves s (instantsArrive n s) :=
  (((holdOffArrives_moves n s).trans (rechargeArrives_moves _ _)).trans (dueArrives_moves _ _)).trans
    (checkOverdue_moves _ _)

theorem allInstantsArrive_moves (s : State) : Moves s (allInstantsArrive s) :=
  .foldl (fun t n => instantsArrive_moves n t) _ s

theorem resolvePending_moves (n : Nat) (s : State) : Moves s (resolvePending n s) := by
  unfold resolvePending
  split
  · rename_i l hl
    split
    · exact storeRecord_moves hl (.same rfl rfl rfl rfl)
    · exact .refl s
  · exact .refl s

theorem resolveAllPending_moves (s : State) : Moves s (resolveAllPending s) :=
  .foldl (fun t n => resolvePending_moves n t) _ s

theorem stalenessExpires_moves (s : State) : Moves s (stalenessExpires s) := by
  unfold stalenessExpires
  split
  · exact (Moves.aside (t := { s with quality := .stale, staleness := none }) rfl).trans (.raises _ _)
  · exact .refl s

theorem windowBoundaryArrives_moves (e : Nat) (s : State) : Moves s (windowBoundaryArrives e s) := by
  unfold windowBoundaryArrives
  split
  · exact evaluateWindow_moves s
  · exact .refl s

theorem blackoutBoundaryArrives_moves (e : Nat) (s : State) : Moves s (blackoutBoundaryArrives e s) := by
  unfold blackoutBoundaryArrives
  split
  · exact evaluateWindow_moves s
  · exact .refl s

/-! ### Campaigns -/

theorem checkWatch_moves (c : Fin 4) (s : State) : Moves s (checkWatch c s) :=
  (Moves.channelKept c _ s ⟨rfl, rfl⟩).trans (.foldl (fun t e => .raises (.positionFinished c e) t) _ _)

theorem modChan_at (c : Fin 4) (f : Channel → Channel) (s : State) : (modChan c f s).channels[c] = f s.channels[c] := by
  simp

@[simp] theorem raise_channels (b : NoticeBody) (s : State) : (raise b s).channels = s.channels := by
  rw [raise_only b s]

theorem campaignDone_moves (c : Fin 4) (s : State) : Moves s (campaignDone c s) := by
  have hdone : Moves s (raise (.done c s.channels[c].run s.channels[c].skipped s.channels[c].unstarted)
      (modChan c (fun ch => { ch with state := .done }) s)) :=
    (Moves.channelKept c _ s ⟨rfl, rfl⟩).trans (.raises _ _)
  unfold campaignDone
  simp only
  split
  · exact ((hdone.trans (.channelKept c _ _ ⟨rfl, rfl⟩)).trans (.raises _ _)).trans (.passTriggers _)
  · exact hdone

theorem drainedDone_moves (c : Fin 4) (s : State) : Moves s (drainedDone c s) := by
  unfold drainedDone
  simp only
  split
  · exact campaignDone_moves c s
  · exact .refl s

theorem endOfList_moves (c : Fin 4) (last cursor : Nat) (s : State) : Moves s (endOfList c last cursor s) :=
  ((Moves.channelKept c _ s ⟨rfl, rfl⟩).trans (checkWatch_moves c _)).trans (drainedDone_moves c _)

theorem finishEntry_moves (c : Fin 4) (s : State) : Moves s (finishEntry c s) := by
  unfold finishEntry
  simp only
  split
  · exact endOfList_moves c _ _ s
  · split
    · exact (Moves.channelKept c _ s ⟨rfl, rfl⟩).trans (checkWatch_moves c _)
    · split <;> exact .channelKept c _ s ⟨rfl, rfl⟩

theorem halt_moves (c : Fin 4) (r : HaltReason) (s : State) : Moves s (halt c r s) :=
  (Moves.channelKept c _ s ⟨rfl, rfl⟩).trans (.raises _ _)

theorem reachMember_moves (c : Fin 4) (s : State) : Moves s (reachMember c s) := by
  unfold reachMember
  simp only
  split
  · exact (Moves.channelKept c _ s ⟨rfl, rfl⟩).trans (finishEntry_moves c _)
  · exact .channelKept c _ s ⟨rfl, rfl⟩

theorem examineTest_moves (c : Fin 4) (n : Nat) (s : State) : Moves s (examineTest c n s) := by
  unfold examineTest
  split
  · exact halt_moves c _ s
  · split
    · exact halt_moves c _ s
    · exact .refl s

theorem markTakenUp_moves (c : Fin 4) (s : State) : Moves s (markTakenUp c s) := by
  unfold markTakenUp
  simp only
  split
  · exact (Moves.channelKept c _ s ⟨rfl, rfl⟩).trans (.raises _ _)
  · exact .channelKept c _ s ⟨rfl, rfl⟩

theorem takeUpOne_moves (c : Fin 4) (s : State) : Moves s (takeUpOne c s) := by
  unfold takeUpOne
  simp only
  split
  · exact endOfList_moves c _ _ s
  · refine (markTakenUp_moves c s).trans ?_
    split
    · exact examineTest_moves c _ _
    · split
      · exact halt_moves c _ _
      · exact (Moves.channelKept c _ _ ⟨rfl, rfl⟩).trans (reachMember_moves c _)
    · exact (Moves.raises _ _).trans (finishEntry_moves c _)

theorem takeUpAll_moves (k : Nat) (c : Fin 4) (s : State) : Moves s (takeUpAll k c s) := by
  induction k generalizing s with
  | zero => exact .refl s
  | succ k ih =>
    unfold takeUpAll
    split
    · exact (takeUpOne_moves c s).trans (ih _)
    · exact .refl s

theorem takeUp_moves (c : Fin 4) (s : State) : Moves s (takeUp c s) := takeUpAll_moves _ c s

theorem reexamine_moves (c : Fin 4) (s : State) : Moves s (reexamine c s) := by
  unfold reexamine
  simp only
  split
  · split
    · exact examineTest_moves c _ s
    · exact (reachMember_moves c s).trans (takeUp_moves c _)
    · exact .refl s
  · exact .refl s

theorem campaignReserved_moves (c : Fin 4) (k : Nat) (sl : Slot) (s : State) (hk : s.slots.get k = some sl)
    (ho : sl.origin = .campaign c s.channels[c].cursor s.channels[c].run) : Moves s (campaignReserved c k s) := by
  have hjoin := Moves.joins c k sl s hk ho
  unfold campaignReserved
  simp only
  refine hjoin.trans ?_
  split
  · exact ((Moves.channelKept c _ _ ⟨rfl, rfl⟩).trans (reachMember_moves c _)).trans (takeUp_moves c _)
  · exact (finishEntry_moves c _).trans (takeUp_moves c _)

theorem endHold_moves (c : Fin 4) (s : State) : Moves s (endHold c s) := by
  unfold endHold
  simp only
  split
  · exact .refl s
  · split
    · exact .refl s
    · split
      · exact (((Moves.channelKept c _ s ⟨rfl, rfl⟩).trans (.raises _ _)).trans (.passTriggers _)).trans (takeUp_moves c _)
      · exact .channelKept c _ s ⟨rfl, rfl⟩

/-- Once its pair is forgotten, what a campaign does about a released slot is its own affair (R136). -/
theorem tellReleased_moves (o : Origin) (k : Nat) (b : Bool) (s : State) : Moves (forget o k b s) (tellReleased o k b s) := by
  cases o with
  | campaign c e r =>
    unfold tellReleased forget
    dsimp only
    unfold campaignReleased
    split
    · exact (((endHold_moves c _).trans (checkWatch_moves c _)).trans (drainedDone_moves c _)).trans (takeUp_moves c _)
    · exact .refl s
  | periodic => exact .refl s
  | unknown => exact .refl s

end Sys2Proof.Machine
end

section
/-! PROOFS. The moves of the active test table, the branch lines and the placement pass. -/

namespace Sys2Proof.Machine

/-! ### The same test -/

theorem SameTest.refl (sl : Slot) : SameTest sl sl := ⟨rfl, rfl, rfl⟩

theorem SameTest.trans {sl sl1 sl2 : Slot} (h1 : SameTest sl sl1) (h2 : SameTest sl1 sl2) : SameTest sl sl2 :=
  ⟨h2.luminaire.trans h1.luminaire, h2.branch.trans h1.branch, h2.origin.trans h1.origin⟩

theorem fix_origin (sl : Slot) (o : TestOutcome) (m : Nat) : (sl.fix o m).origin = sl.origin := by
  unfold Slot.fix
  split <;> rfl

theorem fix_status (sl : Slot) (o : TestOutcome) (m : Nat) : (sl.fix o m).status = sl.status := by
  unfold Slot.fix
  split <;> rfl

theorem sameTest_fix (sl : Slot) (o : TestOutcome) (m : Nat) : SameTest sl (sl.fix o m) :=
  ⟨fix_luminaire sl o m, fix_branch sl o m, fix_origin sl o m⟩

theorem sameTest_recordClosing (sl : Slot) (r : NodeRecord) : SameTest sl (recordClosing sl r) := ⟨rfl, rfl, rfl⟩

/-! ### Frames that the moves need -/

theorem OnlyRecords.channels {s t : State} (h : OnlyRecords s t) : t.channels = s.channels := by
  rw [show t = _ from h]

theorem OnlyRecords.results {s t : State} (h : OnlyRecords s t) : t.results = s.results := by
  rw [show t = _ from h]

theorem OnlyRecords.branches {s t : State} (h : OnlyRecords s t) : t.branches = s.branches := by
  rw [show t = _ from h]

theorem OnlyBranches.channels {s t : State} (h : OnlyBranches s t) : t.channels = s.channels := by
  rw [show t = _ from h]

theorem OnlyBranches.slots {s t : State} (h : OnlyBranches s t) : t.slots = s.slots := by
  rw [show t = _ from h]

theorem addResult_slots (r : ResultRecord) (s : State) : (addResult r s).slots = s.slots := by
  unfold addResult
  rw [writeItem_only .results (followAttn _)]
  rfl

theorem addResult_channels (r : ResultRecord) (s : State) : (addResult r s).channels = s.channels := by
  unfold addResult
  rw [writeItem_only .results (followAttn _)]
  rfl

theorem addResult_luminaires (r : ResultRecord) (s : State) : (addResult r s).luminaires = s.luminaires := by
  unfold addResult
  rw [writeItem_luminaires]
  rfl

/-! ### Going CLOSING, recalls -/

theorem queueStop_moves (k : Nat) (sl : Slot) (s : State) : Moves s (queueStop k sl s) := by
  unfold queueStop
  split
  · exact .queues _ _ s (.inl rfl)
  · exact .refl s

theorem offer_moves (b : Fin 8) (e : Exchange) (s : State) : Moves s (offer b e s) := by
  unfold offer
  split
  · rename_i h
    exact .queues b e s (.inr h)
  · exact .refl s

theorem recallSlot_moves (r : RecallReason) (k : Nat) (s : State) : Moves s (recallSlot r k s) := by
  cases hk : s.slots.get k with
  | none =>
    rw [recallSlot_none r k s hk]
    exact .refl s
  | some sl =>
    cases hstatus : sl.status with
    | reserved =>
      rw [recallSlot_reserved r k sl s hk hstatus]
      exact modLum_moves _ _ s fun _ _ => .same rfl rfl rfl rfl
    | running =>
      unfold recallSlot
      rw [hk]
      dsimp only
      rw [hstatus]
      exact .closes k sl _ s hk (sameTest_fix _ _ _) hstatus
    | closing =>
      rw [recallSlot_closing r k sl s hk hstatus]
      exact .refl s

theorem recallAll_moves (r : RecallReason) (ks : List Nat) (s : State) : Moves s (recallAll r ks s) :=
  .foldl (fun t k => recallSlot_moves r k t) ks s

/-! ### Releases -/

theorem freed_releasedWithout (l : Luminaire) (s : State) : Freed l (l.releasedWithout s) := by
  unfold Luminaire.releasedWithout
  refine ⟨?_, rfl, enter_branch _ _, enter_groups _ _⟩
  dsimp only
  rw [enter_state]
  split
  · rfl
  · exact waitState_free s l.due

theorem freed_released (l : Luminaire) (s : State) (sl : Slot) (o : TestOutcome) : Freed l (l.released s sl o) := by
  unfold Luminaire.released Luminaire.toRecharging
  constructor <;> dsimp only
  · split <;> (dsimp only; rw [enter_state]; rfl)
  · split <;> exact enter_branch _ _
  · split <;> exact enter_groups _ _

theorem releaseWithout_moves (k : Nat) (s : State) : Moves s (releaseWithout k s) := by
  cases hk : s.slots.get k with
  | none =>
    unfold releaseWithout
    rw [hk]
    exact .refl s
  | some sl =>
    have hrecords := checkedRelease_records k sl s
    rw [releaseWithout_eq k sl s hk]
    refine .trans (.trans ?_ (tellReleased_moves sl.origin k false _)) (.passTriggers _)
    exact .releasesWithout k sl (fun l => l.releasedWithout s) false s _ hk (fun l => freed_releasedWithout l s)
      ((Moves.writes _ _).trans (checkOverdue_moves _ _)) (records_slots hrecords) hrecords.channels

theorem releaseHeldOff_moves (k : Nat) (s : State) : Moves s (releaseHeldOff k s) := by
  cases hk : s.slots.get k with
  | none =>
    unfold releaseHeldOff
    rw [hk]
    exact .refl s
  | some sl =>
    rw [releaseHeldOff_eq k sl s hk]
    refine .trans ?_ (releaseWithout_moves k _)
    exact modLum_moves _ _ s fun _ _ => .same rfl rfl rfl rfl

theorem raiseOutcomeLatch_moves (n : Nat) (l : Luminaire) (o : TestOutcome) (s : State) :
    Moves s (raiseOutcomeLatch n l o s) := by
  unfold raiseOutcomeLatch
  split
  · split
    · exact .refl s
    · exact .raises _ s
  · exact .refl s

/-- The part as a release with a result has freed the slot, with the result queued and the record written over (R110 to R113). -/
def freedWith (k : Nat) (sl : Slot) (l : Luminaire) (o : TestOutcome) (s : State) : State :=
  freeSlot k sl (putLum sl.luminaire (some (l.released s sl o)) (addResult (releaseRecord s sl l o) s))

/-- The rest of a release with a result, up to what the campaign does about it. -/
def checkedWith (k : Nat) (sl : Slot) (l : Luminaire) (o : TestOutcome) (s : State) : State :=
  checkOverdue sl.luminaire (raiseOutcomeLatch sl.luminaire l o (writeItem (.luminaire sl.luminaire) (freedWith k sl l o s)))

theorem checkedWith_records (k : Nat) (sl : Slot) (l : Luminaire) (o : TestOutcome) (s : State) :
    OnlyRecords (freedWith k sl l o s) (checkedWith k sl l o s) :=
  ((writeItem_only _ _).records.trans (raiseOutcomeLatch_only _ _ _ _).records).trans (checkOverdue_only _ _)

theorem freedWith_slots (k : Nat) (sl : Slot) (l : Luminaire) (o : TestOutcome) (s : State) :
    (freedWith k sl l o s).slots = s.slots.drop k := by
  change (putLum _ _ _).slots.drop k = _
  rw [records_slots (putLum_only _ _ _), addResult_slots]

theorem freedWith_channels (k : Nat) (sl : Slot) (l : Luminaire) (o : TestOutcome) (s : State) :
    (freedWith k sl l o s).channels = s.channels := by
  change (putLum _ _ _).channels = _
  rw [(putLum_only _ _ _).channels, addResult_channels]

/-- The slot's contents as a release with a result takes them: LOST unless an outcome is fixed (R110). -/
def Slot.lost (sl : Slot) (s : State) : Slot := sl.fix .lost (elapsedNow s sl)

theorem releaseResult_none {k : Nat} {s : State} (hk : s.slots.get k = none) : releaseResult k s = s := by
  unfold releaseResult
  rw [hk]

theorem releaseResult_orphan {k : Nat} {sl : Slot} {s : State} (hk : s.slots.get k = some sl)
    (hl : s.luminaires.get sl.luminaire = none) : releaseResult k s = freeSlot k (sl.lost s) s := by
  unfold releaseResult
  simp only [hk, fix_luminaire, hl]
  rfl

theorem releaseResult_eq {k : Nat} {sl : Slot} {l : Luminaire} {s : State} (hk : s.slots.get k = some sl)
    (hl : s.luminaires.get sl.luminaire = some l) : releaseResult k s =
      triggerPass (tellReleased sl.origin k true
        (checkedWith k (sl.lost s) l ((sl.lost s).outcome.getD .lost) s)) := by
  unfold releaseResult
  simp only [hk, fix_luminaire, hl, fix_origin]
  unfold checkedWith freedWith Slot.lost
  rw [fix_luminaire]

theorem releaseResult_moves (k : Nat) (s : State) : Moves s (releaseResult k s) := by
  cases hk : s.slots.get k with
  | none =>
    rw [releaseResult_none hk]
    exact .refl s
  | some sl =>
    have hsame : SameTest sl (sl.lost s) := sameTest_fix _ _ _
    cases hl : s.luminaires.get sl.luminaire with
    | none =>
      rw [releaseResult_orphan hk hl]
      exact .orphan k sl _ s hk hsame hl
    | some l =>
      have hrecords := checkedWith_records k (sl.lost s) l ((sl.lost s).outcome.getD .lost) s
      rw [releaseResult_eq hk hl]
      refine .trans (.trans ?_ (tellReleased_moves sl.origin k true _)) (.passTriggers _)
      refine .releasesWith k sl (sl.lost s) l _ (releaseRecord s (sl.lost s) l ((sl.lost s).outcome.getD .lost)) true s _ hk
        hsame hl (freed_released l s (sl.lost s) ((sl.lost s).outcome.getD .lost)) ?_
        ((records_slots hrecords).trans (freedWith_slots _ _ _ _ _))
        (hrecords.channels.trans (freedWith_channels _ _ _ _ _))
      rw [← hsame.luminaire]
      exact ((Moves.writes _ _).trans (raiseOutcomeLatch_moves _ _ _ _)).trans (checkOverdue_moves _ _)

/-! ### The stray rule -/

theorem stray_moves (n : Nat) (r : NodeRecord) (s : State)
    (h : ∀ l, s.luminaires.get n = some l → l.state.holdsSlot = false) : Moves s (stray n r s) := by
  unfold stray
  cases hl : s.luminaires.get n with
  | none => exact .refl s
  | some l =>
    simp only
    have hstop : Moves s (if strayStopWaits s n then s else offer l.branch (stopExchange l.node n .stray false) s) := by
      split
      · exact .refl s
      · exact offer_moves _ _ s
    have hkept : (if strayStopWaits s n then s
        else offer l.branch (stopExchange l.node n .stray false) s).luminaires.get n = some l := by
      split
      · exact hl
      · rw [show offer l.branch (stopExchange l.node n .stray false) s = _ from offer_only _ _ _]
        exact hl
    have hrecharging : Alike (if strayStopWaits s n then s else offer l.branch (stopExchange l.node n .stray false) s) l
        (l.toRecharging s) := by
      refine .free (h l hl) ?_ (enter_openMarker _ _) (enter_groups _ _)
      change (l.enter .recharging).state.holdsSlot = false
      rw [enter_state]
      rfl
    have hraised := (hstop.trans (storeRecord_moves hkept hrecharging)).trans
      (.raises (.strayTest n l.branch l.node l.state r.elapsed) _)
    split
    · exact hraised
    · exact hraised.trans (checkOverdue_moves _ _)

theorem overdueDone_free {s : State} {l : Luminaire} (h : l.state.holdsSlot = false) :
    (overdueDone s l).state.holdsSlot = false := by
  rw [overdueDone_state]
  exact h

/-! ### The ends of a slot's exchanges -/

theorem startAccepted_moves {k : Nat} {sl : Slot} (r : NodeRecord) {s : State} (hk : s.slots.get k = some sl)
    (hstatus : sl.status = .reserved) : Moves s (startAccepted k sl r s) := by
  unfold startAccepted
  simp only
  cases hl : s.luminaires.get sl.luminaire with
  | none => exact .refl s
  | some l =>
    have hstart := Moves.starts k sl
      { sl with
        status := .running, campusStart := some s.campus, elapsedRef := some s.ownCount
        supervision := some s.params.supervisionInterval, endTimer := some (sl.rated * 60)
        nodeElapsed := some 0, lowest := some r.millivolts }
      l { l.enter .testing with watchArmed := false, cancelPending := none } s hk ⟨rfl, rfl, rfl⟩ hstatus rfl hl
      (enter_state _ _) (enter_branch _ _) (enter_groups _ _) (enter_openMarker _ _)
    have hwritten := hstart.trans (.writes (.luminaire sl.luminaire) _)
    dsimp only
    split
    · exact hwritten.trans (recallSlot_moves _ k _)
    · split
      · exact hwritten.trans (recallSlot_moves _ k _)
      · exact hwritten

theorem startAnswered_moves {k : Nat} {sl : Slot} (r : NodeRecord) (code : StartCode) {s : State}
    (hk : s.slots.get k = some sl) (hstatus : sl.status = .reserved) : Moves s (startAnswered k sl r code s) := by
  unfold startAnswered
  split
  · exact startAccepted_moves r hk hstatus
  · refine (releaseWithout_moves k s).trans (stray_moves _ r _ fun l hl => ?_)
    rw [get_releaseWithout k _ sl s hk, if_pos rfl] at hl
    obtain ⟨l0, -, rfl⟩ := Option.map_eq_some_iff.mp hl
    exact overdueDone_free (freed_releasedWithout l0 s).state
  · exact releaseHeldOff_moves k s

theorem readAnswered_moves {k : Nat} {sl : Slot} (r : NodeRecord) {s : State} (hk : s.slots.get k = some sl)
    (hstatus : sl.status = .running) : Moves s (readAnswered k sl r s) := by
  have hseen : ∀ sl2 : Slot, sl2 = (if r.testing = true then
      { ({ sl.see r.millivolts with missedPolls := 0 } : Slot) with nodeElapsed := some r.elapsed }
      else { sl.see r.millivolts with missedPolls := 0 }) → SameTest sl sl2 ∧ sl2.status = sl.status := by
    intro sl2 h
    rw [h]
    split <;> exact ⟨⟨rfl, rfl, rfl⟩, rfl⟩
  unfold readAnswered
  simp only
  generalize hsl2 : (if r.testing = true then _ else _ : Slot) = sl2
  obtain ⟨hsame, hkept⟩ := hseen sl2 hsl2.symm
  split
  · refine .trans (.slot k sl _ s hk (hsame.trans ?_) ?_) (releaseResult_moves k _)
    · exact ⟨fix_luminaire _ _ _, fix_branch _ _ _, fix_origin _ _ _⟩
    · exact (fix_status _ _ _).trans hkept
  · split
    · refine .closes k sl _ s hk (hsame.trans ?_) hstatus
      exact ⟨fix_luminaire _ _ _, fix_branch _ _ _, fix_origin _ _ _⟩
    · split
      · exact (Moves.slot k sl sl2 s hk hsame hkept).trans (recallSlot_moves _ k _)
      · exact .slot k sl sl2 s hk hsame hkept

theorem slotAnswered_moves (k n : Nat) (kind : ExchangeKind) (r : NodeRecord) (code : Option StartCode) (s : State) :
    Moves s (slotAnswered k n kind r code s) := by
  unfold slotAnswered
  cases hk : s.slots.get k with
  | none => exact .refl s
  | some sl =>
    dsimp only
    split
    · exact .refl s
    · split
      · rename_i hstatus
        exact startAnswered_moves r _ hk hstatus
      · rename_i hstatus
        exact readAnswered_moves r hk hstatus
      · exact .slot k sl _ s hk (sameTest_recordClosing sl r) rfl
      · refine .trans (.slot k sl _ s hk ((sameTest_fix sl _ _).trans (sameTest_recordClosing _ r)) ?_)
          (releaseResult_moves k _)
        exact fix_status sl _ _
      · exact .refl s

theorem slotUnanswered_moves (k n : Nat) (kind : ExchangeKind) (s : State) : Moves s (slotUnanswered k n kind s) := by
  unfold slotUnanswered
  cases hk : s.slots.get k with
  | none => exact .refl s
  | some sl =>
    dsimp only
    split
    · exact .refl s
    · split
      · exact releaseHeldOff_moves k s
      · have hmissed := Moves.slot k sl { sl with missedPolls := sl.missedPolls + 1 } s hk ⟨rfl, rfl, rfl⟩ rfl
        unfold readMissed
        simp only
        split
        · exact hmissed
        · exact hmissed.trans (releaseResult_moves k _)
      · unfold stopMissed
        split
        · exact .slot k sl _ s hk ⟨rfl, rfl, rfl⟩ rfl
        · exact releaseResult_moves k s
      · exact .refl s

/-! ### Timers -/

theorem supervisionExpires_moves (k : Nat) (s : State) : Moves s (supervisionExpires k s) := by
  unfold supervisionExpires
  cases hk : s.slots.get k with
  | none => exact .refl s
  | some sl =>
    dsimp only
    split
    · exact .refl s
    · split
      · have htimer := Moves.slot k sl { sl with supervision := some s.params.supervisionInterval } s hk ⟨rfl, rfl, rfl⟩ rfl
        split
        · exact htimer.trans (offer_moves _ _ _)
        · exact htimer
      · exact (Moves.slot k sl { sl with supervision := none, stopAttempts := sl.stopAttempts + 1 } s hk ⟨rfl, rfl, rfl⟩
          rfl).trans (queueStop_moves _ _ _)
      · exact .refl s

theorem endExpires_moves (k : Nat) (s : State) : Moves s (endExpires k s) := by
  unfold endExpires
  cases hk : s.slots.get k with
  | none => exact .refl s
  | some sl =>
    dsimp only
    split
    · rename_i h
      exact .closes k sl sl s hk (.refl sl) h.1
    · exact .refl s

/-! ### The luminaire table takes an exchange's end -/

theorem latchFault_moves_on (n : Nat) (k : Latch) (calls : Bool) (s : State) : Moves s (latchFault n k calls s) := by
  unfold latchFault
  split
  · exact (setLatch_moves n k s).trans (.writes _ _)
  · exact .refl s

theorem takeRecord_moves (n : Nat) (r : NodeRecord) (code : Option StartCode) (s : State) :
    Moves s (takeRecord n r code s) := by
  have hreported : Moves s (modLum n (fun l => l.reported s r code) s) :=
    modLum_moves n _ s fun _ _ => .same rfl rfl rfl rfl
  have htaken := ((hreported.trans (.triggers ((s.luminaires.get n).any fun l => l.state == .due) _)).trans
    (latchFault_moves_on n .charger (!r.chargerOk) _)).trans (latchFault_moves_on n .mainsLost (!r.mains && !r.testing) _)
  unfold takeRecord
  simp only
  split
  · rename_i h
    refine htaken.trans (stray_moves n r _ fun l hl => ?_)
    have hfree := h.2
    rw [hl, Option.any_some, Bool.not_eq_true'] at hfree
    exact hfree
  · exact htaken

theorem tableAnswered_moves_on (b : Fin 8) (e : Exchange) (rec? : Option (NodeRecord × Option StartCode)) (s : State) :
    Moves s (tableAnswered b e rec? s) := by
  unfold tableAnswered
  split
  · exact .refl s
  · rename_i n _
    have hended : Moves s (modLum n (fun l => { l with lastExchange := some .answered }) s) :=
      modLum_moves n _ s fun _ _ => .same rfl rfl rfl rfl
    split
    · exact hended.trans (takeRecord_moves _ _ _ _)
    · exact hended

theorem tableUnanswered_moves (b : Fin 8) (e : Exchange) (s : State) : Moves s (tableUnanswered b e s) := by
  unfold tableUnanswered
  split
  · exact .refl s
  · refine .trans ?_ (latchFault_moves_on _ _ _ _)
    exact modLum_moves _ _ s fun _ _ => .same rfl rfl rfl rfl

/-! ### The end reaches the issuer -/

theorem reply_moves (r : Reply) (s : State) : Moves s (reply r s) := by
  unfold reply
  split <;> exact .aside rfl

theorem endService_moves (refused : Bool) (body : List Byte) (s : State) : Moves s (endService refused body s) := by
  unfold endService
  split
  · exact (Moves.aside (t := { s with service := none }) rfl).trans (reply_moves _ _)
  · exact .refl s

theorem checkEnds_moves (e : Exchange) (s : State) : Moves s (checkEnds e s) := by
  unfold checkEnds
  split
  · exact .aside rfl
  · exact .refl s

theorem checkUnanswered_moves (e : Exchange) (s : State) : Moves s (checkUnanswered e s) := by
  unfold checkUnanswered
  split
  · refine .trans ?_ (.writes _ _)
    exact (checkEnds_moves e s).trans (modLum_moves _ _ _ fun _ _ => .same rfl rfl rfl rfl)
  · exact checkEnds_moves e s

theorem issuerAnswered_moves (e : Exchange) (sends : Nat) (f : NodeFrame) (s : State) :
    Moves s (issuerAnswered e sends f s) := by
  unfold issuerAnswered
  split
  · exact slotAnswered_moves _ _ _ _ _ s
  · exact .refl s
  · exact checkEnds_moves e s
  · exact .refl s
  · exact .refl s
  · exact endService_moves _ _ s

theorem issuerUnanswered_moves (e : Exchange) (s : State) : Moves s (issuerUnanswered e s) := by
  unfold issuerUnanswered
  split
  · exact slotUnanswered_moves _ _ _ s
  · exact checkUnanswered_moves e s
  · exact .refl s
  · exact .refl s
  · exact endService_moves _ _ s

/-! ### Sending -/

/-- A branch that keeps its state takes no further place and, when empty, stays empty. -/
theorem BranchMay.kept {s : State} {b : Fin 8} {br : Branch} (hstate : br.state = s.branches[b].state)
    (hplaces : (unreserved br.queue).length ≤ (unreserved s.branches[b].queue).length)
    (hquiet : s.branches[b].queue = [] ∧ s.branches[b].inFlight = none → br.queue = [] ∧ br.inFlight = none) :
    BranchMay s b br :=
  ⟨hplaces, fun h => ⟨hstate ▸ h, hquiet⟩, fun h => .inl (hstate ▸ h)⟩

theorem endAnswered_moves (b : Fin 8) (f : InFlight) (a : NodeFrame) (s : State) : Moves s (endAnswered b f a s) :=
  ((Moves.branch b _ s (.kept rfl (Nat.le_refl _) fun h => ⟨h.1, rfl⟩)).trans (tableAnswered_moves_on _ _ _ _)).trans
    (issuerAnswered_moves _ _ _ _)

theorem endUnanswered_moves (b : Fin 8) (f : InFlight) (s : State) : Moves s (endUnanswered b f s) :=
  ((Moves.branch b _ s (.kept rfl (Nat.le_refl _) fun h => ⟨h.1, rfl⟩)).trans (tableUnanswered_moves _ _ _)).trans
    (issuerUnanswered_moves _ _)

theorem length_unreserved_erase (q : List Exchange) (e : Exchange) :
    (unreserved (q.erase e)).length ≤ (unreserved q).length :=
  ((List.erase_sublist (a := e) (l := q)).filter _).length_le

theorem length_unreserved_filter (q : List Exchange) (p : Exchange → Bool) :
    (unreserved (q.filter p)).length ≤ (unreserved q).length :=
  ((List.filter_sublist (p := p) (l := q)).filter _).length_le

theorem sendNext_moves (b : Fin 8) (s : State) : Moves s (sendNext b s) := by
  unfold sendNext
  simp only
  split
  · split
    · rename_i hworks
      refine .branch b _ s ⟨length_unreserved_erase _ _, fun h => ?_, fun h => .inl h⟩
      exact absurd hworks (by simpa using h)
    · exact .refl s
  · exact .refl s

theorem sendFails_moves {b : Fin 8} {f : InFlight} {s : State} (hf : s.branches[b].inFlight = some f) :
    Moves s (sendFails b f s) := by
  unfold sendFails
  split
  · refine .branch b _ s (.kept rfl (Nat.le_refl _) fun h => ?_)
    rw [hf] at h
    cases h.2
  · exact endUnanswered_moves b f s

theorem answerTimesOut_moves (b : Fin 8) (s : State) : Moves s (answerTimesOut b s) := by
  unfold answerTimesOut
  split
  · rename_i hf
    split
    · exact .refl s
    · exact sendFails_moves hf
  · exact .refl s

theorem answerBreaksOff_moves (b : Fin 8) (s : State) : Moves s (answerBreaksOff b s) := by
  unfold answerBreaksOff
  split
  · rename_i hf
    exact sendFails_moves hf
  · exact .refl s

theorem answerBegins_moves (b : Fin 8) (s : State) : Moves s (answerBegins b s) := by
  refine .branch b _ s (.kept rfl (Nat.le_refl _) fun h => ⟨h.1, ?_⟩)
  dsimp only
  rw [h.2]
  rfl

theorem answerArrives_moves (b : Fin 8) (bytes : List Byte) (s : State) : Moves s (answerArrives b bytes s) := by
  unfold answerArrives
  split
  · exact .refl s
  · rename_i hf
    split
    · split
      · exact endAnswered_moves b _ _ s
      · exact sendFails_moves hf
    · exact sendFails_moves hf

/-! ### Leaving READY or DIRECT -/

theorem issuerRemoved_moves (code : Byte) (e : Exchange) (s : State) : Moves s (issuerRemoved code e s) := by
  unfold issuerRemoved
  split
  · exact .aside rfl
  · exact endService_moves _ _ s
  · exact .refl s

theorem releaseLost_moves (k : Nat) (s : State) : Moves s (releaseLost k s) := by
  unfold releaseLost
  split
  · exact .refl s
  · split
    · exact releaseHeldOff_moves k s
    · exact releaseResult_moves k s

theorem Table.drop_of_get_none {α : Type} {t : Table α} {k : Nat} (h : t.get k = none) : t.drop k = t := by
  induction t with
  | nil => rfl
  | cons p t ih =>
    obtain ⟨j, a⟩ := p
    rw [Table.get_cons] at h
    unfold Table.drop
    by_cases hj : j = k
    · rw [if_pos hj] at h
      cases h
    · rw [if_neg hj] at h ⊢
      rw [ih h]

theorem releaseResult_slots (k : Nat) (s : State) : (releaseResult k s).slots = s.slots.drop k := by
  cases hk : s.slots.get k with
  | none => rw [releaseResult_none hk, Table.drop_of_get_none hk]
  | some sl =>
    cases hl : s.luminaires.get sl.luminaire with
    | none =>
      rw [releaseResult_orphan hk hl]
      rfl
    | some l =>
      rw [releaseResult_eq hk hl, triggerPass_slots, tellReleased_slots, records_slots (checkedWith_records _ _ _ _ _),
        freedWith_slots]

theorem releaseLost_slots (k : Nat) (s : State) : (releaseLost k s).slots = s.slots.drop k := by
  unfold releaseLost
  cases hk : s.slots.get k with
  | none => rw [Table.drop_of_get_none hk]
  | some sl =>
    dsimp only
    split
    · exact releaseHeldOff_slots k sl s hk
    · exact releaseResult_slots k s

theorem releasedAll_slots (ks : List Nat) (s : State) :
    (ks.foldl (fun u k => releaseLost k u) s).slots = ks.foldl (fun t k => Table.drop t k) s.slots := by
  induction ks generalizing s with
  | nil => rfl
  | cons k ks ih => rw [List.foldl_cons, List.foldl_cons, ih, releaseLost_slots]

/-- Dropping a list of numbers leaves a canonical table canonical, and of its entries those of other numbers. -/
theorem dropAll_spec {α : Type} (ks : List Nat) {t : Table α} (hr : t.Rising) :
    Table.Rising (ks.foldl (fun t k => Table.drop t k) t) ∧
      ∀ p ∈ ks.foldl (fun t k => Table.drop t k) t, p ∈ t ∧ p.1 ∉ ks := by
  induction ks generalizing t with
  | nil => exact ⟨hr, fun p hp => ⟨hp, List.not_mem_nil⟩⟩
  | cons k ks ih =>
    have hdrop := Table.rising_drop hr k
    obtain ⟨hrising, hmem⟩ := ih hdrop
    refine ⟨hrising, fun p hp => ?_⟩
    obtain ⟨hin, hks⟩ := hmem p hp
    have hget : (t.drop k).get p.1 = some p.2 := Table.get_of_mem hdrop hin
    have hne : p.1 ≠ k := by
      intro h
      rw [h, Table.get_drop_self hr k] at hget
      cases hget
    rw [Table.get_drop_other t hne] at hget
    exact ⟨Table.mem_of_get hget, fun h => by cases h with
      | head => exact hne rfl
      | tail _ h => exact hks h⟩

theorem leaveReady_frees (b : Fin 8) (st : BranchState) (s : State) (hr : s.slots.Rising) :
    occupiedOn (leaveReady b st s) b = 0 := by
  unfold leaveReady
  simp only
  have hslots : (flush b (modBranch b (fun br => { br with state := st }) s)).slots = s.slots := by
    unfold flush
    have hfold : ∀ (es : List Exchange) (c : Byte) (t : State),
        (es.foldl (fun t e => issuerRemoved c e t) t).slots = t.slots := by
      intro es c t
      induction es generalizing t with
      | nil => rfl
      | cons e es ih =>
        rw [List.foldl_cons, ih]
        unfold issuerRemoved
        split
        · rfl
        · unfold endService reply
          repeat' split
          all_goals rfl
        · rfl
    exact hfold _ _ _
  unfold occupiedOn
  rw [releasedAll_slots, hslots]
  refine List.length_eq_zero_iff.mpr (List.filter_eq_nil_iff.mpr fun p hp hb => ?_)
  obtain ⟨hin, hout⟩ := (dropAll_spec _ hr).2 p hp
  refine hout ?_
  unfold slotsOn
  rw [hslots]
  exact List.mem_map.mpr ⟨p, List.mem_filter.mpr ⟨hin, hb⟩, rfl⟩

/-- A branch as it leaves READY or DIRECT: nothing is queued or in flight any more (R168). -/
def Branch.left (br : Branch) (st : BranchState) : Branch := { br with state := st, queue := [], inFlight := none }

theorem modBranch_modBranch (b : Fin 8) (f g : Branch → Branch) (s : State) :
    modBranch b g (modBranch b f s) = modBranch b (fun br => g (f br)) s := by
  unfold modBranch
  simp

theorem leaveReady_moves (b : Fin 8) (st : BranchState) (s : State) : Moves s (leaveReady b st s) := by
  refine .leaves b (fun br => br.left st) s _ ⟨rfl, rfl⟩ ?_ (leaveReady_frees b st s)
  unfold leaveReady flush
  simp only [modBranch_modBranch]
  exact (Moves.foldl (fun t e => issuerRemoved_moves _ e t) _ _).trans (.foldl (fun t k => releaseLost_moves k t) _ _)

theorem chatterHappens_moves (b : Fin 8) (s : State) : Moves s (chatterHappens b s) := by
  unfold chatterHappens
  simp only
  split
  · have hcount := Moves.branch b (fun br => { br with chatter := saturate (s.branches[b].chatter + 1) }) s
      (.kept rfl (Nat.le_refl _) id)
    have hnoticed : Moves s (if s.branches[b].chatter + 1 = 8 then
        raise (.chatter b (saturate (s.branches[b].chatter + 1)) s.params.autoDisable[b])
          (modBranch b (fun br => { br with chatter := saturate (s.branches[b].chatter + 1) }) s)
        else modBranch b (fun br => { br with chatter := saturate (s.branches[b].chatter + 1) }) s) := by
      split
      · exact hcount.trans (.raises _ _)
      · exact hcount
    split
    · exact hnoticed.trans (leaveReady_moves b _ _)
    · exact hnoticed
  · exact .refl s

end Sys2Proof.Machine
end

section
/-! PROOFS. The moves of the placement pass, the requests, start-up and the link, and of every command. -/

namespace Sys2Proof.Machine

/-! ### The placement pass -/

theorem queueCheck_moves (n : Nat) (l : Luminaire) (s : State) (h : 0 < unreservedFree s l.branch) :
    Moves s (queueCheck n l s) :=
  ((Moves.aside (t := { s with checkPending := s.checkPending ++ [n] }) rfl).trans
    (.queues l.branch (readExchange .check l.node n .placement) _ (.inr h))).trans (block_moves_on _ _ _)

theorem globalFailure_results {s : State} (h : globalFailure s = none) :
    s.slots.length + s.results.length < resultRoom := by
  unfold globalFailure occupied at h
  by_contra hfull
  rw [if_pos (Nat.not_lt.mp hfull)] at h
  repeat' split at h
  all_goals cases h

theorem tellReserved_moves (from? : Option (Fin 4)) (k : Nat) (sl : Slot) (s : State) (hk : s.slots.get k = some sl)
    (ho : ∀ c, from? = some c → sl.origin = .campaign c s.channels[c].cursor s.channels[c].run) :
    Moves s (tellReserved from? k s) := by
  cases from? with
  | none => exact .refl s
  | some c =>
    refine .trans (.aside (t := { s with lastServed := c }) rfl) ?_
    exact campaignReserved_moves c k sl { s with lastServed := c } hk (ho c rfl)

theorem reserve_moves {n : Nat} {l : Luminaire} {from? : Option (Fin 4)} {s : State}
    (hl : s.luminaires.get n = some l) (hv : verdict s n l from? = .reserve)
    (hroom : s.slots.length + s.results.length < resultRoom) : Moves s (reserve n l from? s) := by
  obtain ⟨hadm, -, -, hready, -, -, -, -, -, -, -, hplaces⟩ := (verdict_reserve_iff s n l from?).mp hv
  have hwaits : l.state.waits = true := by
    rcases hadm with h | ⟨-, h⟩ <;> rw [h] <;> rfl
  unfold reserve
  cases hk : s.slots.lowestFree slotCount with
  | none => exact .refl s
  | some k =>
    obtain ⟨hlt, hfree⟩ := Table.lowestFree_spec hk
    have hcore := Moves.reserves n k l (reservedSlot s n l from?) (startExchange l.node n k s.classes[l.cls].rated) s hl
      hfree hlt hwaits ⟨rfl, rfl, rfl⟩ hready hplaces hroom
    have hwritten := hcore.trans (.writes (.luminaire n) _)
    have hrecords := (putLum_only n (some { l.enter .starting with openMarker := true })
      (enqueue l.branch (startExchange l.node n k s.classes[l.cls].rated)
        { s with slots := s.slots.put k (reservedSlot s n l from?) })).trans (writeItem_only (.luminaire n) _).records
    have hqueued := enqueue_only l.branch (startExchange l.node n k s.classes[l.cls].rated)
      { s with slots := s.slots.put k (reservedSlot s n l from?) }
    refine hwritten.trans (tellReserved_moves from? k (reservedSlot s n l from?) _ ?_ fun c hc => ?_)
    · exact (congrArg (fun t => Table.get t k) ((records_slots hrecords).trans hqueued.slots)).trans
        (Table.get_put_self _ _ _)
    · have hchannels := hrecords.channels.trans hqueued.channels
      unfold reservedCore
      rw [hchannels, hc]
      rfl

theorem verdict_check_places {s : State} {n : Nat} {l : Luminaire} {from? : Option (Fin 4)}
    (h : verdict s n l from? = .check) : 0 < unreservedFree s l.branch := by
  by_cases hadm : l.state = .due ∨ (from?.isSome = true ∧ l.state = .idle)
  · obtain ⟨hfail, hhold⟩ := verdict_early (s := s) (n := n) hadm
    rcases allHold_or_firstFailing (earlyConditions s n l from?) with hearly | ⟨r, hr⟩
    · by_cases hband : l.band = .unknown
      · exact (earlyConditions_iff.mp hearly).2.2.2.2.2.2.2.2 hband
      · rw [(hhold hearly).2 hband] at h
        rcases allHold_or_firstFailing (lateConditions s l from?) with hall | ⟨r, hr⟩
        · rw [lateVerdict_reserve hall] at h
          cases h
        · rw [lateVerdict_reason hr] at h
          cases h
    · rw [hfail r hr] at h
      cases h
  · rw [verdict_not_admitted hadm] at h
    cases h

theorem consider_moves (n : Nat) (from? : Option (Fin 4)) (s : State)
    (hroom : s.slots.length + s.results.length < resultRoom) : Moves s (consider n from? s).1 := by
  cases hl : s.luminaires.get n with
  | none =>
    rw [consider_unused hl]
    exact .refl s
  | some l =>
    rw [consider_eq hl]
    cases hv : verdict s n l from? with
    | reserve => exact reserve_moves hl hv hroom
    | check => exact queueCheck_moves n l s (verdict_check_places hv)
    | pass r =>
      cases r with
      | none => exact .refl s
      | some r => exact block_moves_on n r s

theorem blockWaiting_moves (n : Nat) (r : BlockedBy) (s : State) : Moves s (blockWaiting n r s) := by
  unfold blockWaiting
  split
  · exact block_moves_on n r s
  · exact .refl s

theorem campaign_results {s t : State} (h : OnlyCampaign s t) : t.results = s.results := by
  rw [show t = _ from h]

theorem campaignPart_moves (k : Nat) (done : List (Fin 4)) (s : State) : Moves s (campaignPart k done s) := by
  induction k generalizing done s with
  | zero => exact .refl s
  | succ k ih =>
    unfold campaignPart
    split
    · exact .refl s
    · rename_i c _
      have hpresent : Moves s (present c s).1 := reexamine_moves c s
      simp only
      split
      · exact hpresent.trans (ih _ _)
      · exact (hpresent.trans (blockWaiting_moves _ _ _)).trans (ih _ _)
      · rename_i hglobal
        refine (hpresent.trans (consider_moves _ _ _ ?_)).trans (ih _ _)
        rw [campaign_slots (present_only c s), campaign_results (present_only c s)]
        exact globalFailure_results hglobal

theorem periodicStep_moves (s : State) (n : Nat) : Moves s (periodicStep s n) := by
  unfold periodicStep
  split
  · split
    · exact block_moves_on n _ s
    · rename_i hglobal
      exact consider_moves n none s (globalFailure_results hglobal)
  · exact .refl s

theorem pass_moves (s : State) : Moves s (pass s) :=
  (campaignPart_moves _ _ s).trans (.foldl periodicStep_moves _ _)

theorem passes_moves (k : Nat) (s : State) : Moves s (passes k s) := by
  induction k generalizing s with
  | zero => exact .refl s
  | succ k ih =>
    unfold passes
    split
    · exact ((Moves.aside (t := { s with trigger := false }) rfl).trans (pass_moves _)).trans (ih _)
    · exact .refl s

theorem finish_moves (s : State) : Moves s (finish s) := .aside rfl

theorem settle_moves (s : State) : Moves s (settle s) := (passes_moves 6 s).trans (finish_moves _)

theorem begin_moves (s : State) : Moves s (begin s) :=
  (Moves.begins s).trans (.aside (t := begin s) rfl)

/-- An event is its steps and its passes. -/
theorem event_moves {f : State → State} {s t : State} (hf : ∀ u, u.phase = .operating → Moves u (f u))
    (h : event f s = .next t) : Moves s t := by
  by_cases hp : s.phase = .operating
  · rw [event_operating f s hp] at h
    cases h
    exact ((begin_moves s).trans (hf (begin s) hp)).trans (settle_moves _)
  · rw [event_not_operating f s hp] at h
    cases h
    exact .refl s

theorem branchEvent_moves {n : Nat} {f : Fin 8 → State → State} {s t : State} (hf : ∀ b u, Moves u (f b u))
    (h : branchEvent n f s = .next t) : Moves s t := by
  refine event_moves (fun u _ => ?_) h
  split
  · exact hf _ u
  · exact .refl u

/-! ### The requests of the calendar -/

theorem clockSet_moves (t : Nat) (s : State) : Moves s (clockSet t s) := by
  have hset : Moves s { s with campus := t, quality := .set, staleness := some stalenessSeconds } := .aside rfl
  unfold clockSet
  simp only
  split
  · exact hset.trans (.raises _ _)
  · exact hset

theorem setTime_moves (body : List Byte) (s : State) : Moves s (setTime body s).1 := by
  unfold setTime
  split
  · rename_i a b c d
    have hclock := clockSet_moves (be4 a b c d) s
    have hresolved : Moves s (if s.quality = .unset then resolveAllPending (clockSet (be4 a b c d) s)
        else clockSet (be4 a b c d) s) := by
      split
      · exact hclock.trans (resolveAllPending_moves _)
      · exact hclock
    exact (((hresolved.trans (allInstantsArrive_moves _)).trans (evaluateWindow_moves _)).trans (.triggers _ _)).trans
      (.aside rfl)
  · exact .refl s

/-- A change of the windows, written to the store and evaluated. -/
theorem windowsChanged_moves (w : Table WindowEntry) (i : Item) (s : State) (h : s.windows.Rising → w.Rising) :
    Moves s (evaluateWindow (writeItem i { s with windows := w })) :=
  ((Moves.calendar w s.blackouts s h id).trans (.writes i _)).trans (evaluateWindow_moves _)

/-- A change of the blackouts, written to the store and evaluated. -/
theorem blackoutsChanged_moves (x : Table Blackout) (i : Item) (s : State) (h : s.blackouts.Rising → x.Rising) :
    Moves s (evaluateWindow (writeItem i { s with blackouts := x })) :=
  ((Moves.calendar s.windows x s id h).trans (.writes i _)).trans (evaluateWindow_moves _)

theorem setWindow_moves (body : List Byte) (s : State) : Moves s (setWindow body s).1 := by
  unfold setWindow
  split
  · split
    · exact .refl s
    · exact windowsChanged_moves _ _ s fun h => Table.rising_put h _ _
  · exact .refl s

theorem clearWindow_moves (body : List Byte) (s : State) : Moves s (clearWindow body s).1 := by
  unfold clearWindow
  split
  · split
    · exact .refl s
    · split
      · exact windowsChanged_moves _ _ s fun h => Table.rising_drop h _
      · exact .refl s
  · exact .refl s

theorem setBlackout_moves (body : List Byte) (s : State) : Moves s (setBlackout body s).1 := by
  unfold setBlackout
  split
  · split
    · exact .refl s
    · exact blackoutsChanged_moves _ _ s fun h => Table.rising_put h _ _
  · exact .refl s

theorem clearBlackout_moves (body : List Byte) (s : State) : Moves s (clearBlackout body s).1 := by
  unfold clearBlackout
  split
  · split
    · exact .refl s
    · split
      · exact blackoutsChanged_moves _ _ s fun h => Table.rising_drop h _
      · exact .refl s
  · exact .refl s

theorem setMode_moves (body : List Byte) (s : State) : Moves s (setMode body s).1 := by
  unfold setMode
  split
  · split
    · exact .refl s
    · rename_i m _
      dsimp only
      split
      · exact .aside rfl
      · split
        · exact .aside rfl
        · exact (Moves.aside (t := { s with staged := none }) rfl).trans (modeTakesEffect_moves m false _)
  · exact .refl s

/-! ### The requests of campaigns and slots -/

theorem campaignLoad_moves (body : List Byte) (s : State) : Moves s (campaignLoad body s).1 := by
  unfold campaignLoad
  split
  · exact .refl s
  · split
    · rename_i c new chunk _ _ _
      dsimp only
      generalize (if new = true then chunk else s.channels[c].entries ++ chunk) = entries
      split
      · exact .refl s
      · split
        · exact .refl s
        · split
          · exact .refl s
          · exact .channelKept c (fun ch => ch.loaded entries) s ⟨rfl, rfl⟩
    · exact .refl s

theorem campaignStart_moves (body : List Byte) (s : State) : Moves s (campaignStart body s).1 := by
  unfold campaignStart
  split
  · split
    · rename_i c bypass _ _
      have hstarted : Moves s (takeUp c (triggerPass (modChan c (fun ch => ch.started bypass) s))) :=
        ((Moves.channelKept c _ s ⟨rfl, rfl⟩).trans (.passTriggers _)).trans (takeUp_moves c _)
      split
      · exact .refl s
      · exact .refl s
      · exact hstarted
      · exact hstarted
      · exact .channelKept c (fun ch => { ch with restartQueued := true, restartBypass := bypass }) s ⟨rfl, rfl⟩
    · exact .refl s
  · exact .refl s

theorem campaignPause_moves (body : List Byte) (s : State) : Moves s (campaignPause body s).1 := by
  unfold campaignPause
  split
  · split
    · rename_i c _
      have hpaused : Moves s (modChan c (fun ch => { ch with state := .paused }) s) := .channelKept c _ s ⟨rfl, rfl⟩
      split
      · exact hpaused
      · exact hpaused.trans (.passTriggers _)
      · exact .refl s
      · exact .refl s
    · exact .refl s
  · exact .refl s

theorem resumeAt_moves (c : Fin 4) (e : Nat) (s : State) : Moves s (resumeAt c e s) :=
  ((Moves.channelKept c _ s ⟨rfl, rfl⟩).trans (.passTriggers _)).trans (takeUp_moves c _)

theorem resumePaused_moves (c : Fin 4) (s : State) : Moves s (resumePaused c s) := by
  unfold resumePaused
  split
  · exact .channelKept c _ s ⟨rfl, rfl⟩
  · exact ((Moves.channelKept c _ s ⟨rfl, rfl⟩).trans (.passTriggers _)).trans (takeUp_moves c _)

theorem resumeHalted_moves (c : Fin 4) (skip : Bool) (s : State) : Moves s (resumeHalted c skip s) :=
  ((Moves.channelKept c _ s ⟨rfl, rfl⟩).trans (.passTriggers _)).trans (takeUp_moves c _)

theorem campaignResume_moves (body : List Byte) (s : State) : Moves s (campaignResume body s).1 := by
  unfold campaignResume
  split
  · split
    · split
      · exact .refl s
      · split
        · split
          · exact .refl s
          · exact resumePaused_moves _ s
        · exact resumeHalted_moves _ _ s
        · exact resumeAt_moves _ _ s
        · exact resumeAt_moves _ _ s
        · exact .refl s
    · exact .refl s
  · exact .refl s

theorem stopped_moves (c : Fin 4) (s : State) : Moves s (modChan c Channel.stopped s) :=
  .channel c _ s fun _ hp => nomatch hp

theorem campaignStop_moves (body : List Byte) (s : State) : Moves s (campaignStop body s).1 := by
  unfold campaignStop
  split
  · split
    · simp only
      split
      · exact .refl s
      · split
        · exact (recallAll_moves _ _ s).trans (stopped_moves _ _)
        · exact stopped_moves _ s
    · exact .refl s
  · exact .refl s

theorem stopPositionSet_moves (c : Fin 4) (p : Option Nat) (s : State) : Moves s (stopPositionSet c p s) := by
  unfold stopPositionSet
  simp only
  split
  · exact (Moves.channelKept c _ s ⟨rfl, rfl⟩).trans (.raises _ _)
  · exact .channelKept c _ s ⟨rfl, rfl⟩

theorem setStopPosition_moves (body : List Byte) (s : State) : Moves s (setStopPosition body s).1 := by
  unfold setStopPosition
  split
  · split
    · split
      · exact .refl s
      · exact stopPositionSet_moves _ _ s
    · exact .refl s
  · exact .refl s

theorem stopTest_moves (body : List Byte) (s : State) : Moves s (stopTest body s).1 := by
  unfold stopTest
  split
  · simp only
    split
    · exact .refl s
    · split
      · exact .refl s
      · split
        · exact recallSlot_moves _ _ s
        · exact .refl s
      · exact .refl s
  · exact .refl s

/-! ### The requests of the branch lines -/

theorem recordOff_moves (b : Fin 8) (off : Bool) (s : State) : Moves s (recordOff b off s) := by
  refine .trans ?_ (.writes _ _)
  exact .branch b _ s (.kept rfl (Nat.le_refl _) id)

theorem branchEnable_moves (body : List Byte) (s : State) : Moves s (branchEnable body s).1 := by
  unfold branchEnable
  split
  · split
    · exact .refl s
    · rename_i b _
      split
      · exact .refl s
      · refine .trans ?_ (recordOff_moves b false _)
        exact .branch b _ s (.kept rfl (Nat.le_refl _) id)
      · refine .trans (.trans ?_ (recordOff_moves b false _)) (.passTriggers _)
        exact .branch b (fun br => { br with state := .ready, chatter := 0 }) s
          ⟨Nat.le_refl _, fun h => (by cases h), fun h => absurd rfl h⟩
  · exact .refl s

theorem branchDisable_moves (body : List Byte) (s : State) : Moves s (branchDisable body s).1 := by
  unfold branchDisable
  split
  · split
    · exact .refl s
    · rename_i b _
      split
      · exact (leaveReady_moves b .off s).trans (recordOff_moves b true _)
      · exact (leaveReady_moves b .off s).trans (recordOff_moves b true _)
      · rename_i hready hdirect
        refine .trans ?_ (recordOff_moves b true _)
        refine .branch b _ s ⟨Nat.le_refl _, fun _ => ⟨?_, id⟩, fun _ => .inl hready⟩
        cases hstate : s.branches[b].state
        · rfl
        · exact absurd hstate hready
        · exact absurd hstate hdirect
        · rfl
  · exact .refl s

theorem branchDirectEnter_moves (body : List Byte) (s : State) : Moves s (branchDirectEnter body s).1 := by
  unfold branchDirectEnter
  split
  · split
    · exact .refl s
    · rename_i b _
      split
      · rename_i h
        exact .branch b (fun br => { br with state := .direct }) s ⟨Nat.le_refl _, fun h => (by cases h), fun _ => .inr h.2⟩
      · exact .refl s
  · exact .refl s

theorem branchDirectLeave_moves (body : List Byte) (s : State) : Moves s (branchDirectLeave body s).1 := by
  unfold branchDirectLeave
  split
  · split
    · exact .refl s
    · rename_i b _
      split
      · refine .trans ?_ (.passTriggers _)
        exact .branch b (fun br => { br with state := .ready }) s
          ⟨Nat.le_refl _, fun h => (by cases h), fun h => absurd rfl h⟩
      · exact .refl s
  · exact .refl s

theorem nodeExchange_moves (tag : Byte) (body : List Byte) (s : State) : Moves s (nodeExchange tag body s).1 := by
  unfold nodeExchange
  split
  · split
    · exact .refl s
    · split
      · exact .refl s
      · rename_i b _
        simp only
        split
        · exact .refl s
        · split
          · exact .refl s
          · split
            · exact .refl s
            · rename_i hplaces
              exact (Moves.aside (t := { s with service := some ⟨tag, b⟩ }) rfl).trans
                (.queues b _ _ (.inr (Nat.pos_of_ne_zero hplaces)))
  · exact .refl s

/-! ### The requests of the luminaire, class and group tables -/

theorem withRecord_moves {n : Nat} {s : State} {f : Luminaire → State × Answer}
    (h : ∀ l, s.luminaires.get n = some l → Moves s (f l).1) : Moves s (withRecord n s f).1 := by
  unfold withRecord
  split
  · exact .refl s
  · split
    · exact .refl s
    · rename_i l hl
      exact h l hl

theorem groupsInRange_nodup {gs : List Nat} (h : groupsInRange gs = true) : gs.Nodup := by
  unfold groupsInRange at h
  simp only [Bool.and_eq_true, decide_eq_true_eq] at h
  exact h.2

theorem groupsDefined_has {s : State} {gs : List Nat} (h : groupsDefined s gs = true) : ∀ g ∈ gs, s.groups.has g = true :=
  List.all_eq_true.mp h

theorem enrol_moves (body : List Byte) (s : State) : Moves s (enrol body s).1 := by
  unfold enrol
  split
  · exact .refl s
  · rename_i q _
    split
    · rename_i b c inService _ _ _
      split
      · exact .refl s
      · rename_i hrange
        split
        · exact .refl s
        · rename_i hfresh
          split
          · exact .refl s
          · rename_i hdefined
            split
            · exact .refl s
            · have hunused : s.luminaires.get q.number = none := by
                have hno : s.luminaires.has q.number = false := by simpa using (not_or.mp hfresh).1
                simpa [Table.has] using hno
              have hgroups : groupsInRange q.groups = true := by
                simpa using fun h => hrange (.inr (.inr (.inr h)))
              refine .trans (.enrols q.number _ s hunused ?_ rfl (groupsInRange_nodup hgroups) ?_) (.writes _ _)
              · change (if inService = true then waitState s q.due else .outOfService).holdsSlot = false
                split
                · exact waitState_free s q.due
                · rfl
              · exact groupsDefined_has (gs := q.groups) (by simpa using hdefined)
    · exact .refl s

theorem dropChecks_moves (b : Fin 8) (n : Nat) (s : State) : Moves s (dropChecks b n s) := by
  unfold dropChecks
  split
  · refine .trans (.aside (t := { s with checkPending := s.checkPending.erase n }) rfl) ?_
    refine .branch b _ _ (.kept rfl (length_unreserved_filter _ _) fun h => ⟨?_, h.2⟩)
    dsimp only
    rw [h.1]
    rfl
  · exact .refl s

theorem dropChecks_luminaires (b : Fin 8) (n : Nat) (s : State) : (dropChecks b n s).luminaires = s.luminaires := by
  unfold dropChecks
  split <;> rfl

theorem dropChecks_groups (b : Fin 8) (n : Nat) (s : State) : (dropChecks b n s).groups = s.groups := by
  unfold dropChecks
  split <;> rfl

theorem withdraw_moves (body : List Byte) (s : State) : Moves s (withdraw body s).1 := by
  unfold withdraw
  split
  · rename_i n1 n0
    refine withRecord_moves fun l hl => ?_
    split
    · exact .refl s
    · rename_i hfree
      refine .trans (.trans (dropChecks_moves l.branch (be2 n1 n0) s) ?_) (.writes _ _)
      exact .withdraws _ l _ (by rw [dropChecks_luminaires]; exact hl) (by simpa using hfree)
  · exact .refl s

theorem amendParts_groups {q : AmendBody} {p : AmendParts} (h : amendParts q = some p) {gs : List Nat}
    (hgs : p.groups = some gs) : groupsInRange gs = true := by
  unfold amendParts at h
  split at h
  · simp only at h
    split at h
    · rename_i hok
      cases h
      simp only at hgs
      rw [hgs] at hok
      simp only [Option.all_some, Bool.and_eq_true] at hok
      exact hok.1.2
    · cases h
  · cases h

theorem amended_state (l : Luminaire) (p : AmendParts) : (l.amended p).state = l.state := by
  unfold Luminaire.amended
  simp only
  split <;> rfl

theorem amended_openMarker (l : Luminaire) (p : AmendParts) : (l.amended p).openMarker = l.openMarker := by
  unfold Luminaire.amended
  simp only
  split <;> rfl

theorem amended_groups (l : Luminaire) (p : AmendParts) : (l.amended p).groups = p.groups.getD l.groups := by
  unfold Luminaire.amended
  simp only
  split <;> rfl

theorem amended_branch {l : Luminaire} {p : AmendParts} (h : p.address = none) : (l.amended p).branch = l.branch := by
  unfold Luminaire.amended
  rw [h]

theorem amend_moves (body : List Byte) (s : State) : Moves s (amend body s).1 := by
  unfold amend
  split
  · exact .refl s
  · rename_i q _
    split
    · exact .refl s
    · rename_i p hp
      refine withRecord_moves fun l hl => ?_
      split
      · exact .refl s
      · rename_i hheld
        split
        · exact .refl s
        · split
          · exact .refl s
          · rename_i hdefined
            split
            · exact .refl s
            · split
              · exact .refl s
              · have hdropped : Moves s (if p.address.isSome then dropChecks l.branch q.number s else s) := by
                  split
                  · exact dropChecks_moves _ _ s
                  · exact .refl s
                refine hdropped.trans (storeRecord_moves (l := l) ?_ ⟨.inl (amended_state l p), amended_openMarker l p, ?_, ?_⟩)
                · split
                  · rw [dropChecks_luminaires]
                    exact hl
                  · exact hl
                · cases haddr : p.address with
                  | none => exact .inl (amended_branch haddr)
                  | some a =>
                    refine .inr ?_
                    rw [haddr] at hheld
                    simpa using hheld
                · rw [amended_groups]
                  cases hgs : p.groups with
                  | none => exact .inl rfl
                  | some gs =>
                    refine .inr ⟨groupsInRange_nodup (amendParts_groups hp hgs), fun g hg => ?_⟩
                    rw [hgs] at hdefined
                    have hhas : s.groups.has g = true := groupsDefined_has (by simpa using hdefined) g hg
                    split
                    · rw [dropChecks_groups]
                      exact hhas
                    · exact hhas

theorem setDue_moves (body : List Byte) (s : State) : Moves s (setDue body s).1 := by
  unfold setDue
  split
  · refine withRecord_moves fun l hl => ?_
    split
    · exact .refl s
    · refine storeRecord_moves hl ?_
      unfold Luminaire.dueSet
      simp only
      split
      · rename_i hwaits
        exact .free (holdsSlot_of_waits hwaits) (by simpa using waitState_free s _) (by simp) (by simp)
      · exact .same rfl rfl rfl rfl
  · exact .refl s

theorem outAtRelease_moves {n : Nat} {l : Luminaire} {s : State} (hl : s.luminaires.get n = some l) :
    Moves s (outAtRelease n l s) := by
  have hset : Moves s (putLum n (some { l with outAtRelease := true }) s) := .record n l _ s hl (.same rfl rfl rfl rfl)
  unfold outAtRelease
  split
  · exact .refl s
  · simp only
    split
    · exact hset.trans (recallSlot_moves _ _ _)
    · exact hset.trans (recallSlot_moves _ _ _)
    · exact hset

theorem setOutOfService_moves (body : List Byte) (s : State) : Moves s (setOutOfService body s).1 := by
  unfold setOutOfService
  split
  · refine withRecord_moves fun l hl => ?_
    split
    · exact outAtRelease_moves hl
    · rename_i hfree
      split
      · exact .refl s
      · exact storeRecord_moves hl (.free (by simpa using hfree) (by simp; rfl) (by simp) (by simp))
  · exact .refl s

theorem returnToService_moves (body : List Byte) (s : State) : Moves s (returnToService body s).1 := by
  unfold returnToService
  split
  · refine withRecord_moves fun l hl => ?_
    split
    · exact .refl s
    · rename_i hout
      refine .trans (storeRecord_moves hl (.free ?_ ?_ (by simp) (by simp))) (checkOverdue_moves _ _)
      · rw [not_not.mp hout]
        rfl
      · simpa using waitState_free s l.due
  · exact .refl s

theorem clearFaults_moves (body : List Byte) (s : State) : Moves s (clearFaults body s).1 := by
  unfold clearFaults
  split
  · refine withRecord_moves fun l hl => ?_
    dsimp only
    split
    · exact .refl s
    · exact storeRecord_moves hl (.same rfl rfl rfl rfl)
  · exact .refl s

theorem setClass_moves (body : List Byte) (s : State) : Moves s (setClass body s).1 := by
  unfold setClass
  split
  · simp only
    split
    · exact .refl s
    · split
      · refine .trans ?_ (.writes _ _)
        exact .aside rfl
      · exact .refl s
  · exact .refl s

theorem defineGroup_moves (body : List Byte) (s : State) : Moves s (defineGroup body s).1 := by
  unfold defineGroup
  split
  · simp only
    split
    · exact .refl s
    · split
      · exact .refl s
      · exact ((Moves.defines _ _ s).trans (.writes _ _)).trans (.triggers _ _)
  · exact .refl s

theorem dropGroup_moves (body : List Byte) (s : State) : Moves s (dropGroup body s).1 := by
  unfold dropGroup
  split
  · simp only
    split
    · exact .refl s
    · split
      · exact .refl s
      · rename_i r hg
        split
        · exact .refl s
        · rename_i hmembers
          exact (Moves.drops _ r s hg (not_not.mp hmembers)).trans (.writes _ _)
  · exact .refl s

end Sys2Proof.Machine
end

section
/-! PROOFS. The moves of scheduler control, the parameters, start-up, the link, and of every command and step. -/

namespace Sys2Proof.Machine

/-! ### Scheduler control and the EMG line -/

theorem OnlyControl.trans {s t u : State} (h1 : OnlyControl s t) (h2 : OnlyControl t u) : OnlyControl s u := by
  unfold OnlyControl at *
  rw [h2, h1]

/-- `t` is `s` with the EMG line and its kept level asserted. -/
structure EmgRises (s t : State) : Prop where
  only : OnlyControl s t
  line : t.emgLine = true
  kept : t.emgKept = true
  sched : t.sched = s.sched
  resumeTo : t.resumeTo = s.resumeTo
  recovery : t.recovery = s.recovery

theorem EmgRises.asserted {s t : State} (h : EmgRises s t) {x : SchedState} (hx : x = .suspended ∨ x = .active)
    (hr : SchedulerAgrees s → t.recovery = none) :
    SchedulerAgrees s → SchedulerAgrees { t with resumeTo := x, sched := .emergency } := fun hs =>
  ⟨hx, fun h => (by cases h), fun h => (by cases h), by simp [hr hs], by simp [h.kept],
    fun _ => h.kept.trans h.line.symm⟩

theorem emgAsserts_moves {s t : State} (h : EmgRises s t) (hs : SchedulerAgrees s → s.sched ≠ .emergency) :
    Moves s (emgAsserts t) := by
  have hstopped : t.sched ≠ .recovery → SchedulerAgrees s → t.recovery = none := by
    rintro hne ⟨-, -, -, hrecovery, -⟩
    rw [h.recovery]
    exact Option.not_isSome_iff_eq_none.mp fun hsome => hne (h.sched.trans (hrecovery.mp hsome))
  unfold emgAsserts
  cases hsched : t.sched with
  | emergency => exact .control h.only fun ha => absurd (h.sched ▸ hsched) (hs ha)
  | recovery =>
    dsimp only
    refine .trans (.control (t := { t with sched := .emergency, recovery := none }) (h.only.trans rfl) fun ha => ?_)
      (.raises _ _)
    exact ⟨h.resumeTo ▸ ha.1, fun h => (by cases h), fun h => (by cases h), by simp, by simp [h.kept],
      fun _ => h.kept.trans h.line.symm⟩
  | suspended =>
    dsimp only
    refine .trans (.trans (.control (t := { t with resumeTo := .suspended, sched := .emergency }) (h.only.trans rfl)
      (h.asserted (.inl rfl) (hstopped (by rw [hsched]; simp)))) (recallAll_moves .emergency _ _)) (.raises _ _)
  | active =>
    dsimp only
    refine .trans (.trans (.control (t := { t with resumeTo := .active, sched := .emergency }) (h.only.trans rfl)
      (h.asserted (.inr rfl) (hstopped (by rw [hsched]; simp)))) (recallAll_moves .emergency _ _)) (.raises _ _)

/-- While the part operates the kept level is the line's, and says whether the part is in EMERGENCY (R148). -/
theorem SchedulerAgrees.emergency_iff {s : State} (h : SchedulerAgrees s) (hp : s.phase = .operating) :
    s.emgLine = true ↔ s.sched = .emergency := by
  obtain ⟨-, -, -, -, hkept, hline⟩ := h
  rw [← hline hp]
  exact hkept

theorem emgChanges_moves (asserted : Bool) {s : State} (hp : s.phase = .operating) : Moves s (emgChanges asserted s) := by
  unfold emgChanges
  split
  · exact .refl s
  · rename_i hline
    cases asserted with
    | true =>
      refine emgAsserts_moves (t := { s with emgLine := true, emgKept := true }) ⟨rfl, rfl, rfl, rfl, rfl, rfl⟩ fun ha => ?_
      exact fun he => hline ((ha.emergency_iff hp).mpr he)
    | false =>
      have hasserted : s.emgLine = true := by simpa using hline
      change Moves s (emgReleases { s with emgLine := false, emgKept := false })
      unfold emgReleases
      split
      · exact .control rfl fun ha =>
          ⟨ha.1, fun h => (by cases h), fun h => (by cases h), by simp, by simp, fun _ => rfl⟩
      · rename_i hsched
        exact .control rfl fun ha => absurd ((ha.emergency_iff hp).mp hasserted) hsched

theorem recoveryExpires_moves (s : State) : Moves s (recoveryExpires s) := by
  unfold recoveryExpires
  split
  · rename_i h
    refine .trans (.trans ?_ (.raises _ _)) (.triggers _ _)
    refine .control rfl fun ⟨hresume, _, _, _, hkept, hline⟩ => ?_
    have hoff : s.emgKept = false := by
      rw [← Bool.not_eq_true, hkept, h.1]
      simp
    rcases hresume with hr | hr <;> exact ⟨by simp [hr], by simp [hr], by simp [hr], by simp [hr], by simp [hr, hoff], hline⟩
  · exact .refl s

theorem schedStarted_moves (s : State) : Moves s (schedStarted s) := by
  unfold schedStarted
  split
  · rename_i h
    refine .trans ?_ (.passTriggers _)
    refine .control rfl fun ⟨_, _, _, hrecovery, hkept, hline⟩ => ?_
    rw [h] at hrecovery hkept
    exact ⟨by simp, by simp, by simp, by simpa using hrecovery, by simpa using hkept, hline⟩
  · exact .refl s
  · rename_i hs ha
    refine .control rfl fun ⟨_, _, _, hrecovery, hkept, hline⟩ => ?_
    exact ⟨by simp, fun h => absurd h ha, fun h => absurd h hs, hrecovery, hkept, hline⟩

theorem schedStart_moves (body : List Byte) (s : State) : Moves s (schedStart body s).1 := by
  unfold schedStart
  split
  · exact schedStarted_moves s
  · exact .refl s

theorem schedSuspended_moves (s : State) : Moves s (schedSuspended s) := by
  unfold schedSuspended
  split
  · exact .refl s
  · rename_i h
    refine .control rfl fun ⟨_, _, _, hrecovery, hkept, hline⟩ => ?_
    rw [h] at hrecovery hkept
    exact ⟨by simp, by simp, by simp, by simpa using hrecovery, by simpa using hkept, hline⟩
  · rename_i hs ha
    refine .control rfl fun ⟨_, _, _, hrecovery, hkept, hline⟩ => ?_
    exact ⟨by simp, fun h => absurd h ha, fun h => absurd h hs, hrecovery, hkept, hline⟩

theorem schedSuspend_moves (body : List Byte) (s : State) : Moves s (schedSuspend body s).1 := by
  unfold schedSuspend
  split
  · exact schedSuspended_moves s
  · exact .refl s

/-! ### Parameters, results and notices -/

theorem graceMoved_moves (s : State) : Moves s (graceMoved s) := .foldl (fun t n => checkOverdue_moves n t) _ s

theorem paramSet_moves (num index : Nat) (v : Int) (s : State) : Moves s (paramSet num index v s) := by
  have hset := (Moves.aside (s := s) (t := { s with params := s.params.put num index v }) rfl).trans (.writes .params _)
  unfold paramSet
  simp only
  split
  · exact (hset.trans (graceMoved_moves _)).trans (.triggers _ _)
  · exact hset.trans (.triggers _ _)

theorem setParam_moves (body : List Byte) (s : State) : Moves s (setParam body s).1 := by
  unfold setParam
  split
  · simp only
    split
    · exact paramSet_moves _ _ _ s
    · exact .refl s
  · exact .refl s

theorem takeResults_moves (body : List Byte) (s : State) : Moves s (takeResults body s).1 := by
  unfold takeResults
  split
  · rename_i k
    split
    · exact .refl s
    · unfold resultsTaken
      dsimp only
      split
      · exact .refl s
      · exact ((Moves.resultsDropped k.toNat s).trans (.writes _ _)).trans (.passTriggers _)
  · exact .refl s

theorem takeNotices_moves (body : List Byte) (s : State) : Moves s (takeNotices body s).1 := by
  unfold takeNotices
  split
  · split
    · exact .refl s
    · exact .noticesTaken _ s
  · exact .refl s

theorem setNoticeMask_moves (body : List Byte) (s : State) : Moves s (setNoticeMask body s).1 := by
  unfold setNoticeMask
  split
  · simp only
    split
    · exact .refl s
    · refine .trans ?_ (.writes _ _)
      exact .aside rfl
  · exact .refl s

theorem status_moves (body : List Byte) (s : State) : Moves s (status body s).1 := by
  unfold status
  split
  · exact .aside rfl
  · exact .refl s

theorem restart_moves (body : List Byte) (s : State) : Moves s (restart body s).1 := by
  unfold restart
  split
  · exact .aside rfl
  · exact .refl s

/-! ### Requests that only read -/

theorem ident_same (body : List Byte) (s : State) : (ident body s).1 = s := by
  unfold ident
  split <;> rfl

theorem getParam_same (body : List Byte) (s : State) : (getParam body s).1 = s := by
  unfold getParam
  repeat' split
  all_goals rfl

theorem readLuminaire_same (body : List Byte) (s : State) : (readLuminaire body s).1 = s := by
  unfold readLuminaire
  simp only
  repeat' split
  all_goals rfl

theorem readClass_same (body : List Byte) (s : State) : (readClass body s).1 = s := by
  unfold readClass
  repeat' split
  all_goals rfl

theorem readGroup_same (body : List Byte) (s : State) : (readGroup body s).1 = s := by
  unfold readGroup
  simp only
  repeat' split
  all_goals rfl

theorem readWindow_same (body : List Byte) (s : State) : (readWindow body s).1 = s := by
  unfold readWindow
  repeat' split
  all_goals rfl

theorem readBlackout_same (body : List Byte) (s : State) : (readBlackout body s).1 = s := by
  unfold readBlackout
  repeat' split
  all_goals rfl

theorem readCalendar_same (body : List Byte) (s : State) : (readCalendar body s).1 = s := by
  unfold readCalendar
  split <;> rfl

theorem readSlot_same (body : List Byte) (s : State) : (readSlot body s).1 = s := by
  unfold readSlot
  simp only
  repeat' split
  all_goals rfl

theorem campaignStatus_same (body : List Byte) (s : State) : (campaignStatus body s).1 = s := by
  unfold campaignStatus
  repeat' split
  all_goals rfl

theorem branchStatus_same (body : List Byte) (s : State) : (branchStatus body s).1 = s := by
  unfold branchStatus
  repeat' split
  all_goals rfl

theorem readNoticeMask_same (body : List Byte) (s : State) : (readNoticeMask body s).1 = s := by
  unfold readNoticeMask
  split <;> rfl

theorem Moves.of_same {s t : State} (h : t = s) : Moves s t := h ▸ .refl s

/-- Every owner of a request makes moves. -/
theorem owner_moves {kind : Nat} {tag : Byte} {owner : List Byte → State → State × Answer}
    (h : ownerOf kind tag = some owner) (body : List Byte) (s : State) : Moves s (owner body s).1 := by
  unfold ownerOf at h
  split at h <;> cases h
  · exact status_moves body s
  · exact .of_same (ident_same body s)
  · exact setParam_moves body s
  · exact .of_same (getParam_same body s)
  · exact enrol_moves body s
  · exact withdraw_moves body s
  · exact amend_moves body s
  · exact setDue_moves body s
  · exact setOutOfService_moves body s
  · exact returnToService_moves body s
  · exact clearFaults_moves body s
  · exact .of_same (readLuminaire_same body s)
  · exact setClass_moves body s
  · exact .of_same (readClass_same body s)
  · exact defineGroup_moves body s
  · exact dropGroup_moves body s
  · exact .of_same (readGroup_same body s)
  · exact setTime_moves body s
  · exact setWindow_moves body s
  · exact clearWindow_moves body s
  · exact .of_same (readWindow_same body s)
  · exact setBlackout_moves body s
  · exact clearBlackout_moves body s
  · exact .of_same (readBlackout_same body s)
  · exact setMode_moves body s
  · exact .of_same (readCalendar_same body s)
  · exact .of_same (readSlot_same body s)
  · exact stopTest_moves body s
  · exact campaignLoad_moves body s
  · exact campaignStart_moves body s
  · exact campaignPause_moves body s
  · exact campaignResume_moves body s
  · exact campaignStop_moves body s
  · exact setStopPosition_moves body s
  · exact .of_same (campaignStatus_same body s)
  · exact schedStart_moves body s
  · exact schedSuspend_moves body s
  · exact branchEnable_moves body s
  · exact branchDisable_moves body s
  · exact branchDirectEnter_moves body s
  · exact branchDirectLeave_moves body s
  · exact nodeExchange_moves tag body s
  · exact .of_same (branchStatus_same body s)
  · exact takeResults_moves body s
  · exact takeNotices_moves body s
  · exact setNoticeMask_moves body s
  · exact .of_same (readNoticeMask_same body s)
  · exact restart_moves body s

/-! ### Start-up and restart -/

/-- The fields of scheduler control, the EMG line and the phase are as they were. -/
structure ControlKept (s t : State) : Prop where
  phase : t.phase = s.phase
  emgLine : t.emgLine = s.emgLine
  sched : t.sched = s.sched
  resumeTo : t.resumeTo = s.resumeTo
  recovery : t.recovery = s.recovery
  emgKept : t.emgKept = s.emgKept

theorem ControlKept.refl (s : State) : ControlKept s s := ⟨rfl, rfl, rfl, rfl, rfl, rfl⟩

theorem ControlKept.trans {s t u : State} (h1 : ControlKept s t) (h2 : ControlKept t u) : ControlKept s u :=
  ⟨h2.phase.trans h1.phase, h2.emgLine.trans h1.emgLine, h2.sched.trans h1.sched, h2.resumeTo.trans h1.resumeTo,
    h2.recovery.trans h1.recovery, h2.emgKept.trans h1.emgKept⟩

theorem OnlyEnds.controlKept {s t : State} (h : OnlyEnds s t) : ControlKept s t := by
  unfold OnlyEnds at h
  rw [h]
  exact ⟨rfl, rfl, rfl, rfl, rfl, rfl⟩

theorem OnlyCalendar.controlKept {s t : State} (h : OnlyCalendar s t) : ControlKept s t := by
  unfold OnlyCalendar at h
  rw [h]
  exact ⟨rfl, rfl, rfl, rfl, rfl, rfl⟩

theorem takeImage_controlKept (m : Image) (s : State) : ControlKept s (takeImage m s) := ⟨rfl, rfl, rfl, rfl, rfl, rfl⟩

theorem writeBlank_controlKept (s : State) : ControlKept s (writeBlank s) := by
  unfold writeBlank
  simp only
  split
  · exact ⟨rfl, rfl, rfl, rfl, rfl, rfl⟩
  · refine ControlKept.trans ?_ (raise_only _ _).ends.controlKept
    exact ⟨rfl, rfl, rfl, rfl, rfl, rfl⟩

theorem loadImage_controlKept (s : State) : ControlKept s (loadImage s) := by
  unfold loadImage
  split
  · exact ControlKept.trans (t := { s with storeState := .ok }) ⟨rfl, rfl, rfl, rfl, rfl, rfl⟩ (takeImage_controlKept _ _)
  · exact (takeImage_controlKept {} s).trans (writeBlank_controlKept _)

theorem recallMarked_controlKept (m : Image) (s : State) (n : Nat) : ControlKept s (recallMarked m s n) := by
  unfold recallMarked
  split
  · exact .refl s
  · rename_i l _
    split
    · simp only
      refine ControlKept.trans ?_ (offer_only _ _ _).ends.controlKept
      refine ControlKept.trans ?_ (writeItem_only _ _).ends.controlKept
      split
      · exact (addResult_only _ s).ends.controlKept.trans ⟨rfl, rfl, rfl, rfl, rfl, rfl⟩
      · exact ⟨rfl, rfl, rfl, rfl, rfl, rfl⟩
    · exact .refl s

theorem recallMarkers_controlKept (s : State) : ControlKept s (recallMarkers s) :=
  foldl_only ControlKept.refl ControlKept.trans (fun t n => recallMarked_controlKept s.image t n) _ s

theorem booted_controlKept (keepTime : Bool) (s : State) : ControlKept (fresh keepTime s) (booted keepTime s) :=
  ((loadImage_controlKept _).trans (recallMarkers_controlKept _)).trans ⟨rfl, rfl, rfl, rfl, rfl, rfl⟩

/-- The scheduler's fields as start-up leaves them until it reads the EMG line (R209). -/
structure ControlFresh (s : State) : Prop where
  phase : s.phase = .operating
  sched : s.sched = .suspended
  resumeTo : s.resumeTo = .suspended
  recovery : s.recovery = none

theorem ControlFresh.kept {s t : State} (h : ControlFresh s) (hk : ControlKept s t) : ControlFresh t :=
  ⟨hk.phase.trans h.phase, hk.sched.trans h.sched, hk.resumeTo.trans h.resumeTo, hk.recovery.trans h.recovery⟩

theorem booted_controlFresh (keepTime : Bool) (s : State) : ControlFresh (booted keepTime s) := by
  refine ControlFresh.kept ?_ (booted_controlKept keepTime s)
  unfold fresh
  cases keepTime <;> exact ⟨rfl, rfl, rfl, rfl⟩

/-- With the EMG line read, the scheduler's fields go together (R144, R209). -/
theorem readEmg_agrees {s : State} (h : ControlFresh s) : SchedulerAgrees (readEmg s) := by
  obtain ⟨hphase, hsched, hresume, hrecovery⟩ := h
  unfold readEmg
  simp only
  split
  · rename_i hline
    have hkept : emgAsserts { s with emgKept := s.emgLine } =
        raise (.emergencyEntered .suspended (occupied s) false) (recallAll .emergency s.slots.keys
          { s with emgKept := s.emgLine, resumeTo := .suspended, sched := .emergency }) := by
      unfold emgAsserts
      dsimp only
      rw [hsched]
      rfl
    have hc := ((recallAll_only .emergency s.slots.keys
      { s with emgKept := s.emgLine, resumeTo := .suspended, sched := .emergency }).ends.trans
      (raise_only (.emergencyEntered .suspended (occupied s) false) _).ends).controlKept
    rw [hkept]
    exact ⟨.inl hc.resumeTo, fun h => (by rw [hc.sched] at h; cases h), fun h => (by rw [hc.sched] at h; cases h),
      by rw [hc.recovery, hc.sched]; simp [hrecovery], by rw [hc.emgKept, hc.sched]; simp [hline],
      fun _ => hc.emgKept.trans hc.emgLine.symm⟩
  · rename_i hline
    exact ⟨.inl hresume, by simp [hsched], fun _ => hresume, by simp [hrecovery, hsched], by simp [hsched, hline], fun _ => rfl⟩

theorem readEmg_moves {s : State} (h : ControlFresh s) : Moves s (readEmg s) := by
  have hagrees := readEmg_agrees h
  unfold readEmg at hagrees ⊢
  simp only at hagrees ⊢
  split
  · rename_i hline
    refine emgAsserts_moves ⟨rfl, hline, hline, rfl, rfl, rfl⟩ fun _ he => ?_
    rw [h.sched] at he
    cases he
  · rename_i hline
    rw [if_neg hline] at hagrees
    exact .control rfl fun _ => hagrees

theorem followAttn_moves (s : State) : Moves s (followAttn s) := .resultsDropped 0 s

theorem SchedulerAgrees.kept {s t : State} (h : SchedulerAgrees s) (hk : ControlKept s t) : SchedulerAgrees t := by
  obtain ⟨h1, h2, h3, h4, h5, h6⟩ := h
  exact ⟨by rw [hk.resumeTo]; exact h1, by rw [hk.sched, hk.resumeTo]; exact h2, by rw [hk.sched, hk.resumeTo]; exact h3,
    by rw [hk.recovery, hk.sched]; exact h4, by rw [hk.emgKept, hk.sched]; exact h5,
    by rw [hk.phase, hk.emgKept, hk.emgLine]; exact h6⟩

/-- The part as start-up and restart end, with ATTN at its level (R190). -/
theorem boots_followed {keepTime : Bool} {s v : State} (h : Moves (booted keepTime s) v)
    (ha : SchedulerAgrees v) : Moves s (followAttn v) :=
  .boots keepTime s _ (h.trans (followAttn_moves v)) rfl (ha.kept ⟨rfl, rfl, rfl, rfl, rfl, rfl⟩)

theorem startsUp_moves (s : State) : Moves s (startsUp s) :=
  (boots_followed (readEmg_moves (booted_controlFresh false s)) (readEmg_agrees (booted_controlFresh false s))).trans
    (.aside rfl)

/-- The part after a restart's image, with its pending recharge-untils resolved where time is known (R211). -/
def resolved (s : State) : State := if s.quality = .unset then s else resolveAllPending s

theorem resolved_moves (s : State) : Moves s (resolved s) := by
  unfold resolved
  split
  · exact .refl s
  · exact resolveAllPending_moves s

theorem resolved_only (s : State) : OnlyRecords s (resolved s) := by
  unfold resolved
  split
  · exact .rfl' s
  · exact resolveAllPending_only s

theorem restarts_eq (s : State) : restarts s =
    followAttn (readEmg (evaluateWindow (allInstantsArrive (resolved (booted true s))))) := rfl

theorem restarts_moves (s : State) : Moves s (restarts s) := by
  have hfresh : ControlFresh (evaluateWindow (allInstantsArrive (resolved (booted true s)))) :=
    (((booted_controlFresh true s).kept (resolved_only _).ends.controlKept).kept
      (allInstantsArrive_only _).ends.controlKept).kept (evaluateWindow_only _).controlKept
  rw [restarts_eq]
  exact boots_followed (((((resolved_moves _).trans (allInstantsArrive_moves _)).trans (evaluateWindow_moves _))).trans
    (readEmg_moves hfresh)) (readEmg_agrees hfresh)

/-! ### RESET and loss of supply -/

theorem resetAsserts_moves (cut : Nat) (s : State) : Moves s (resetAsserts cut s) := by
  unfold resetAsserts
  split
  · exact (Moves.stops .inReset cut s (by simp)).trans (.aside rfl)
  · exact .aside rfl

theorem losesPower_moves (cut : Nat) (s : State) : Moves s (losesPower cut s) := by
  unfold losesPower
  split
  · exact .stops .unpowered cut s (by simp)
  · exact .control rfl fun ⟨h1, h2, h3, h4, h5, _⟩ => ⟨h1, h2, h3, h4, h5, fun h => (by cases h)⟩

/-! ### The host link -/

theorem answer_moves (tag : Byte) (p : State × Answer) : Moves p.1 (answer tag p) := by
  unfold answer
  split
  · exact .refl _
  · exact reply_moves _ _
  · split <;> exact reply_moves _ _

theorem takeFrame_moves (f : Frame) (s : State) : Moves s (takeFrame f s) := by
  unfold takeFrame
  split
  · exact reply_moves _ s
  · split
    · exact reply_moves _ s
    · rename_i h
      exact (owner_moves h f.body s).trans (answer_moves _ _)

theorem frameComplete_moves (f : Frame) (s : State) : Moves s (frameComplete f s) := by
  unfold frameComplete
  split
  · exact .aside rfl
  · simp only
    split
    · exact (Moves.aside (t := { s with receiver := .hunt }) rfl).trans (takeFrame_moves f _)
    · split <;> exact .aside rfl

theorem frameDiscards_moves (bytes : List Byte) (s : State) : Moves s (frameDiscards bytes s) := by
  unfold frameDiscards
  split <;> exact .aside rfl

theorem byteInHunt_moves (x : Byte) (s : State) : Moves s (byteInHunt x s) := by
  unfold byteInHunt
  split <;> exact .aside rfl

theorem replyLeaves_moves (s : State) : Moves s (replyLeaves s) := by
  unfold replyLeaves
  split
  · exact .refl s
  · split
    · exact restarts_moves s
    · split
      · exact .aside rfl
      · refine .trans (.aside (t := { s with sending := none }) rfl) ?_
        unfold takeHeld
        split
        · rename_i f _
          exact .trans (.aside (t := { s with sending := none, held := none }) rfl) (takeFrame_moves f _)
        · exact .refl _

/-! ### Every command, every step -/

theorem request_moves {kind : Nat} {tag : Byte} {body : List Byte} {s t : State} (h : request kind tag body s = .next t) :
    Moves s t := event_moves (fun u _ => frameComplete_moves _ u) h

theorem emgLevel_moves {asserted : Bool} {s t : State} (h : emgLevel asserted s = .next t) : Moves s t := by
  unfold emgLevel at h
  split at h
  · exact event_moves (fun u hu => emgChanges_moves asserted hu) h
  · rename_i hp
    cases h
    exact .control rfl fun ⟨h1, h2, h3, h4, h5, _⟩ => ⟨h1, h2, h3, h4, h5, fun h => absurd h hp⟩

theorem bandExpires_moves (n : Nat) (s : State) : Moves s (bandExpires n s) := by
  refine modLum_moves n _ s fun l _ => ?_
  split <;> exact .same rfl rfl rfl rfl

/-- Every command makes moves. -/
theorem exec_moves {c : Instr} {s t : State} (h : exec c s = .next t) : Moves s t := by
  cases c
  case unknownKind | frameHeld => exact event_moves (fun u _ => frameComplete_moves _ u) h
  case frameDiscarded => exact event_moves (fun u _ => frameDiscards_moves _ u) h
  case frameGapTimeout => exact event_moves (fun u _ => .aside (t := frameGap u) rfl) h
  case startOfFrame => exact event_moves (fun u _ => byteInHunt_moves _ u) h
  case replySent => exact event_moves (fun u _ => replyLeaves_moves u) h
  case emgAssertion | emgRelease => exact emgLevel_moves h
  case resetAssertion =>
    cases h
    exact resetAsserts_moves _ s
  case startUp =>
    cases h
    exact ((begin_moves s).trans (startsUp_moves _)).trans (finish_moves _)
  case powerLoss =>
    cases h
    exact losesPower_moves _ s
  case stalenessExpiry => exact event_moves (fun u _ => stalenessExpires_moves u) h
  case recoveryHoldOffExpiry => exact event_moves (fun u _ => recoveryExpires_moves u) h
  case bandLifetimeExpiry => exact event_moves (fun u _ => bandExpires_moves _ u) h
  case supervisionTimerExpiry => exact event_moves (fun u _ => supervisionExpires_moves _ u) h
  case endTimerExpiry => exact event_moves (fun u _ => endExpires_moves _ u) h
  case answerTimeout => exact branchEvent_moves answerTimesOut_moves h
  case nodeFrameByteGap => exact branchEvent_moves answerBreaksOff_moves h
  case chatterEvent => exact branchEvent_moves chatterHappens_moves h
  case dueTimeArrival => exact event_moves (fun u _ => dueArrives_moves _ u) h
  case overdueThresholdArrival => exact event_moves (fun u _ => checkOverdue_moves _ u) h
  case holdOffEnd => exact event_moves (fun u _ => holdOffArrives_moves _ u) h
  case rechargeUntilArrival => exact event_moves (fun u _ => rechargeArrives_moves _ u) h
  case windowBoundaryArrival => exact event_moves (fun u _ => windowBoundaryArrives_moves _ u) h
  case blackoutBoundaryArrival => exact event_moves (fun u _ => blackoutBoundaryArrives_moves _ u) h
  case exchangeSend => exact branchEvent_moves sendNext_moves h
  case nodeAnswerFrame => exact branchEvent_moves (fun b u => answerArrives_moves b _ u) h
  case answerFirstByte => exact branchEvent_moves answerBegins_moves h
  all_goals exact request_moves h

theorem idle_moves (s : State) : Moves s (idle s) := by
  unfold idle
  split
  · exact .refl s
  · split
    · exact .aside rfl
    · exact (Moves.second s).trans (.aside rfl)

/-- Every step makes moves. -/
theorem step_moves {s t : State} (h : step s = .next t) : Moves s t := by
  unfold step at h
  split at h
  · rename_i rest _
    exact .trans (.aside (t := { s with pending := rest }) rfl) (exec_moves h)
  · cases h
    exact idle_moves s

end Sys2Proof.Machine
end

section
/-! PROOFS. Every step keeps the outbox within 32 notices, ATTN at its level and the scheduler's fields together (O53). -/

namespace Sys2Proof.Machine

/-! ### Moves that raise nothing -/

/-- Outbox, queue of results and ATTN are as they were. -/
structure CollectionsKept (s t : State) : Prop where
  outbox : t.outbox = s.outbox
  results : t.results = s.results
  attn : t.attn = s.attn

theorem CollectionsKept.refl (s : State) : CollectionsKept s s := ⟨rfl, rfl, rfl⟩

theorem CollectionsKept.trans {s t u : State} (h1 : CollectionsKept s t) (h2 : CollectionsKept t u) :
    CollectionsKept s u := ⟨h2.outbox.trans h1.outbox, h2.results.trans h1.results, h2.attn.trans h1.attn⟩

theorem OnlyTables.collectionsKept {s t : State} (h : OnlyTables s t) : CollectionsKept s t := by
  unfold OnlyTables at h
  rw [h]
  exact ⟨rfl, rfl, rfl⟩

theorem OnlyBranches.collectionsKept {s t : State} (h : OnlyBranches s t) : CollectionsKept s t := by
  unfold OnlyBranches at h
  rw [h]
  exact ⟨rfl, rfl, rfl⟩

theorem Aside.collectionsKept {s t : State} (h : Aside s t) : CollectionsKept s t := by
  unfold Aside at h
  rw [h]
  exact ⟨rfl, rfl, rfl⟩

theorem OnlyControl.collectionsKept {s t : State} (h : OnlyControl s t) : CollectionsKept s t := by
  unfold OnlyControl at h
  rw [h]
  exact ⟨rfl, rfl, rfl⟩

theorem freeSlot_collectionsKept (k : Nat) (sl : Slot) (s : State) : CollectionsKept s (freeSlot k sl s) := ⟨rfl, rfl, rfl⟩

theorem close_collectionsKept (k : Nat) (sl : Slot) (s : State) : CollectionsKept s (close k sl s) := by
  have hfreed : CollectionsKept s (beforeStop k sl s) :=
    CollectionsKept.trans (t := unqueue sl.branch (isReadOf k sl.luminaire) { s with slots := s.slots.put k sl.closed })
      ⟨rfl, rfl, rfl⟩ (modLum_tables _ _ _).collectionsKept
  rw [close_eq]
  exact hfreed.trans (queueStop_only _ _ _).collectionsKept

theorem forget_collectionsKept (o : Origin) (k : Nat) (b : Bool) (s : State) : CollectionsKept s (forget o k b s) := by
  unfold forget
  split
  · split
    · exact ⟨rfl, rfl, rfl⟩
    · exact .refl s
  · exact .refl s

theorem reservedCore_collectionsKept (n k : Nat) (l : Luminaire) (sl : Slot) (e : Exchange) (s : State) :
    CollectionsKept s (reservedCore n k l sl e s) := by
  have hqueued : CollectionsKept s (enqueue l.branch e { s with slots := s.slots.put k sl }) :=
    CollectionsKept.trans (t := { s with slots := s.slots.put k sl }) ⟨rfl, rfl, rfl⟩ (enqueue_only _ _ _).collectionsKept
  exact hqueued.trans (putLum_tables _ _ _).collectionsKept

/-! ### The outbox and ATTN -/

/-- What an operation that leads from `s` to `t` does to the two properties of the collections: it keeps each. -/
structure CollectionsSafe (s t : State) : Prop where
  outbox : OutboxFits s → OutboxFits t
  attn : AttnFollows s → AttnFollows t

theorem CollectionsSafe.refl (s : State) : CollectionsSafe s s := ⟨id, id⟩

theorem CollectionsSafe.trans {s t u : State} (h1 : CollectionsSafe s t) (h2 : CollectionsSafe t u) :
    CollectionsSafe s u := ⟨fun h => h2.outbox (h1.outbox h), fun h => h2.attn (h1.attn h)⟩

theorem CollectionsKept.safe {s t : State} (h : CollectionsKept s t) : CollectionsSafe s t := by
  refine ⟨fun ho => ?_, fun ha => ?_⟩
  · unfold OutboxFits
    rw [h.outbox]
    exact ho
  · unfold AttnFollows attnLevel at *
    rw [h.attn, h.results, h.outbox]
    exact ha

theorem raise_safe (b : NoticeBody) (s : State) : CollectionsSafe s (raise b s) := by
  unfold raise
  split
  · exact .refl s
  · split
    · exact CollectionsKept.safe ⟨rfl, rfl, rfl⟩
    · rename_i hroom
      refine ⟨fun _ => ?_, fun _ => rfl⟩
      change (s.outbox ++ [_]).length ≤ outboxRoom
      rw [List.length_append, List.length_singleton]
      exact Nat.not_le.mp hroom

theorem writeItem_safe (i : Item) (s : State) : CollectionsSafe s (writeItem i s) := by
  unfold writeItem
  split
  · have hfault : CollectionsKept s { s with writeFates := s.writeFates.tail, storeState := .fault, writeFailed := true } :=
      ⟨rfl, rfl, rfl⟩
    exact hfault.safe.trans (raise_safe (.storeFault i) _)
  · exact CollectionsKept.safe ⟨rfl, rfl, rfl⟩

/-- A result that joins the queue asserts ATTN (R190). -/
theorem addResult_safe (r : ResultRecord) (s : State) : CollectionsSafe s (addResult r s) :=
  CollectionsSafe.trans
    (t := followAttn { s with results := s.results ++ [r], resultCounter := (s.resultCounter + 1) % 65536 })
    ⟨id, fun _ => rfl⟩ (writeItem_safe _ _)

theorem loadImage_outbox {s : State} (h : OutboxFits s) : OutboxFits (loadImage s) := by
  unfold loadImage
  split
  · exact h
  · unfold writeBlank
    simp only
    split
    · exact h
    · exact (raise_safe _ _).outbox h

theorem recallMarked_outbox (m : Image) (n : Nat) {s : State} (h : OutboxFits s) : OutboxFits (recallMarked m s n) := by
  unfold recallMarked
  split
  · exact h
  · split
    · simp only
      refine ((writeItem_safe _ _).trans (offer_only _ _ _).collectionsKept.safe).outbox ?_
      split
      · exact (addResult_safe _ s).outbox h
      · exact h
    · exact h

/-- A property that every step of a fold keeps, the fold keeps. -/
theorem foldl_keeps {α : Type} {P : State → Prop} {f : State → α → State} (hf : ∀ s a, P s → P (f s a)) (xs : List α)
    {s : State} (h : P s) : P (xs.foldl f s) := by
  induction xs generalizing s with
  | nil => exact h
  | cons x xs ih => exact ih (hf s x h)

theorem booted_outbox (keepTime : Bool) (s : State) : OutboxFits (booted keepTime s) := by
  have hfresh : OutboxFits (fresh keepTime s) := by
    unfold fresh
    cases keepTime <;> exact Nat.zero_le _
  have hmarkers : OutboxFits (recallMarkers (loadImage (fresh keepTime s))) :=
    foldl_keeps (fun t n ht => recallMarked_outbox _ n ht) _ (loadImage_outbox hfresh)
  exact hmarkers

theorem moves_collectionsSafe {s t : State} (hm : Moves s t) : CollectionsSafe s t := by
  induction hm with
  | refl s => exact .refl s
  | trans _ _ ih1 ih2 => exact ih1.trans ih2
  | aside ha => exact ha.collectionsKept.safe
  | begins s => exact ⟨id, id⟩
  | raises b s => exact raise_safe b s
  | writes i s => exact writeItem_safe i s
  | noticesTaken k s => exact ⟨fun h => (List.length_drop ▸ Nat.sub_le _ _).trans h, fun _ => rfl⟩
  | resultsDropped k s => exact ⟨id, fun _ => rfl⟩
  | calendar w x s hw hx => exact ⟨id, id⟩
  | control hc _ => exact hc.collectionsKept.safe
  | second s => exact ⟨id, id⟩
  | record n l l' s _ _ => exact (putLum_tables _ _ _).collectionsKept.safe
  | enrols n l s _ _ _ _ _ => exact (putLum_tables _ _ _).collectionsKept.safe
  | withdraws n l s _ _ => exact (putLum_tables _ _ _).collectionsKept.safe
  | defines g cap s => exact ⟨id, id⟩
  | drops g r s _ _ => exact ⟨id, id⟩
  | channel c f s _ => exact ⟨id, id⟩
  | joins c k sl s _ _ => exact ⟨id, id⟩
  | branch b f s _ => exact ⟨id, id⟩
  | queues b e s _ => exact (enqueue_only _ _ _).collectionsKept.safe
  | leaves b f s t _ _ _ ih => exact ⟨ih.outbox, ih.attn⟩
  | slot k sl sl' s _ _ _ => exact ⟨id, id⟩
  | reserves n k l sl e s _ _ _ _ _ _ _ _ => exact (reservedCore_collectionsKept _ _ _ _ _ _).safe
  | starts k sl sl' l l' s _ _ _ _ _ _ _ _ _ =>
    exact CollectionsSafe.trans (t := { s with slots := s.slots.put k sl' }) ⟨id, id⟩ (putLum_tables _ _ _).collectionsKept.safe
  | closes k sl sl' s _ _ _ => exact (close_collectionsKept _ _ _).safe
  | releasesWithout k sl f b s u _ _ _ _ _ ih =>
    exact (((freeSlot_collectionsKept k sl s).trans (modLum_tables _ _ _).collectionsKept).safe.trans ih).trans
      (forget_collectionsKept _ _ _ _).safe
  | releasesWith k sl sl' l l' r b s u _ _ _ _ _ _ _ ih =>
    exact (((addResult_safe r s).trans ((putLum_tables _ _ _).collectionsKept.trans
      (freeSlot_collectionsKept _ _ _)).safe).trans ih).trans (forget_collectionsKept _ _ _ _).safe
  | orphan k sl sl' s _ _ _ => exact ⟨id, id⟩
  | boots keepTime s t _ hattn _ ih => exact ⟨fun _ => ih.outbox (booted_outbox keepTime s), fun _ => hattn⟩
  | stops ph cut s _ => exact ⟨fun _ => Nat.zero_le _, fun _ => rfl⟩

/-! ### The scheduler's fields -/

theorem Aside.controlKept {s t : State} (h : Aside s t) : ControlKept s t := by
  unfold Aside at h
  rw [h]
  exact ⟨rfl, rfl, rfl, rfl, rfl, rfl⟩

theorem OnlyPass.controlKept {s t : State} (h : OnlyPass s t) : ControlKept s t := by
  unfold OnlyPass at h
  rw [h]
  exact ⟨rfl, rfl, rfl, rfl, rfl, rfl⟩

theorem forget_controlKept (o : Origin) (k : Nat) (b : Bool) (s : State) : ControlKept s (forget o k b s) := by
  unfold forget
  split
  · split
    · exact ⟨rfl, rfl, rfl, rfl, rfl, rfl⟩
    · exact .refl s
  · exact .refl s

theorem freedWithout_controlKept (k : Nat) (sl : Slot) (f : Luminaire → Luminaire) (s : State) :
    ControlKept s (modLum sl.luminaire f (freeSlot k sl s)) :=
  ((freeSlot_only k sl s).trans (modLum_only _ _ _).tests).ends.controlKept

theorem freedWithResult_controlKept (k n : Nat) (sl : Slot) (l : Luminaire) (r : ResultRecord) (s : State) :
    ControlKept s (freeSlot k sl (putLum n (some l) (addResult r s))) :=
  (((addResult_only r s).trans (putLum_only _ _ _).tests).trans (freeSlot_only _ _ _)).ends.controlKept

theorem reservedCore_controlKept (n k : Nat) (l : Luminaire) (sl : Slot) (e : Exchange) (s : State) :
    ControlKept s (reservedCore n k l sl e s) :=
  (((slots_tests _ s).trans (enqueue_only _ _ _).tests).trans (putLum_only _ _ _).tests).ends.controlKept

theorem moves_schedulerAgrees {s t : State} (hm : Moves s t) : SchedulerAgrees s → SchedulerAgrees t := by
  induction hm with
  | refl s => exact id
  | trans _ _ ih1 ih2 => exact fun h => ih2 (ih1 h)
  | aside ha => exact fun h => h.kept ha.controlKept
  | begins s => exact id
  | raises b s => exact fun h => h.kept (raise_only b s).ends.controlKept
  | writes i s => exact fun h => h.kept (writeItem_only i s).ends.controlKept
  | noticesTaken k s => exact id
  | resultsDropped k s => exact id
  | calendar w x s hw hx => exact id
  | control _ ha => exact ha
  | second s =>
    rintro ⟨h1, h2, h3, h4, h5, h6⟩
    exact ⟨h1, h2, h3, Iff.trans (by simp [secondPasses, countDown]) h4, h5, h6⟩
  | record n l l' s _ _ => exact fun h => h.kept (putLum_only _ _ _).ends.controlKept
  | enrols n l s _ _ _ _ _ => exact fun h => h.kept (putLum_only _ _ _).ends.controlKept
  | withdraws n l s _ _ => exact fun h => h.kept (putLum_only _ _ _).ends.controlKept
  | defines g cap s => exact id
  | drops g r s _ _ => exact id
  | channel c f s _ => exact id
  | joins c k sl s _ _ => exact id
  | branch b f s _ => exact id
  | queues b e s _ => exact fun h => h.kept (enqueue_only _ _ _).ends.controlKept
  | leaves b f s t _ _ _ ih => exact ih
  | slot k sl sl' s _ _ _ => exact id
  | reserves n k l sl e s _ _ _ _ _ _ _ _ => exact fun h => h.kept (reservedCore_controlKept _ _ _ _ _ _)
  | starts k sl sl' l l' s _ _ _ _ _ _ _ _ _ =>
    exact fun h => h.kept ((slots_tests (s.slots.put k sl') s).trans (putLum_only _ _ _).tests).ends.controlKept
  | closes k sl sl' s _ _ _ => exact fun h => h.kept (close_only _ _ _).ends.controlKept
  | releasesWithout k sl f b s u _ _ _ _ _ ih =>
    exact fun h => (ih (h.kept (freedWithout_controlKept k sl f s))).kept (forget_controlKept _ _ _ _)
  | releasesWith k sl sl' l l' r b s u _ _ _ _ _ _ _ ih =>
    exact fun h => (ih (h.kept (freedWithResult_controlKept k _ sl' l' r s))).kept (forget_controlKept _ _ _ _)
  | orphan k sl sl' s _ _ _ => exact id
  | boots keepTime s t _ _ hsched _ => exact fun _ => hsched
  | stops ph cut s hph => exact fun _ => ⟨.inl rfl, fun h => (by cases h), fun _ => rfl, by simp [stops, fresh],
      by simp [stops, fresh], fun h => absurd h hph⟩

/-- Settles O53: what the three properties read changes in few moves, and in each of those it is restored. -/
theorem everyStepKeepsOutboxAttnAndScheduler : Obligations.EveryStepKeepsOutboxAttnAndScheduler := by
  unfold Obligations.EveryStepKeepsOutboxAttnAndScheduler
  exact ⟨fun s t h => ⟨(moves_collectionsSafe (step_moves h)).outbox, (moves_collectionsSafe (step_moves h)).attn⟩,
    fun s t ha h => moves_schedulerAgrees (step_moves h) ha⟩

end Sys2Proof.Machine
end

section
/-! PROOFS. Every step keeps every table of the part and of its store images in its canonical form (O54). -/

namespace Sys2Proof.Machine

/-! ### Tables that stay -/

/-- The canonical tables, the image and the images before the last writes are as they were. -/
structure TablesKept (s t : State) : Prop where
  luminaires : t.luminaires = s.luminaires
  groups : t.groups = s.groups
  windows : t.windows = s.windows
  blackouts : t.blackouts = s.blackouts
  slots : t.slots = s.slots
  image : t.image = s.image
  lastWrites : t.lastWrites = s.lastWrites

theorem Canonical.kept {s t : State} (h : Canonical s) (hk : TablesKept s t) : Canonical t := by
  unfold Canonical
  rw [hk.luminaires, hk.groups, hk.windows, hk.blackouts, hk.slots, hk.image, hk.lastWrites]
  exact h

theorem OnlyNotices.tablesKept {s t : State} (h : OnlyNotices s t) : TablesKept s t := by
  unfold OnlyNotices at h
  rw [h]
  exact ⟨rfl, rfl, rfl, rfl, rfl, rfl, rfl⟩

theorem Aside.tablesKept {s t : State} (h : Aside s t) : TablesKept s t := by
  unfold Aside at h
  rw [h]
  exact ⟨rfl, rfl, rfl, rfl, rfl, rfl, rfl⟩

theorem OnlyControl.tablesKept {s t : State} (h : OnlyControl s t) : TablesKept s t := by
  unfold OnlyControl at h
  rw [h]
  exact ⟨rfl, rfl, rfl, rfl, rfl, rfl, rfl⟩

theorem OnlyBranches.tablesKept {s t : State} (h : OnlyBranches s t) : TablesKept s t := by
  unfold OnlyBranches at h
  rw [h]
  exact ⟨rfl, rfl, rfl, rfl, rfl, rfl, rfl⟩

theorem OnlyCampaign.tablesKept {s t : State} (h : OnlyCampaign s t) : TablesKept s t := by
  unfold OnlyCampaign at h
  rw [h]
  exact ⟨rfl, rfl, rfl, rfl, rfl, rfl, rfl⟩

theorem forget_only (o : Origin) (k : Nat) (b : Bool) (s : State) : OnlyCampaign s (forget o k b s) := by
  unfold forget
  split
  · split
    · exact modChan_only _ _ s
    · exact .rfl' s
  · exact .rfl' s

/-! ### Store writes -/

theorem storeItem_canonical (s : State) (i : Item) {m : Image} (h : m.Canonical) : (storeItem s i m).Canonical := by
  obtain ⟨hl, hg, hw, hb⟩ := h
  cases i with
  | luminaire n => exact ⟨Table.rising_set hl n _, hg, hw, hb⟩
  | group n => exact ⟨hl, Table.rising_set hg n _, hw, hb⟩
  | window n => exact ⟨hl, hg, Table.rising_set hw n _, hb⟩
  | blackout n => exact ⟨hl, hg, hw, Table.rising_set hb n _⟩
  | _ => exact ⟨hl, hg, hw, hb⟩

theorem canonical_writeItem (i : Item) {s : State} (h : Canonical s) : Canonical (writeItem i s) := by
  unfold writeItem
  split
  · have hfault : Canonical { s with writeFates := s.writeFates.tail, storeState := .fault, writeFailed := true } := h
    exact hfault.kept (raise_only (.storeFault i) _).tablesKept
  · obtain ⟨hl, hg, hw, hb, hs, himage, hlast⟩ := h
    exact ⟨hl, hg, hw, hb, hs, storeItem_canonical s i himage, List.forall_mem_cons.mpr ⟨himage, hlast⟩⟩

/-! ### Records and slots -/

@[simp] theorem putLum_groups (n : Nat) (new : Option Luminaire) (s : State) :
    (putLum n new s).groups = s.groups.mapValues (regroupOne n (s.luminaires.get n) new) := by
  unfold putLum relist
  simp only [triggerIf]
  repeat' split
  all_goals rfl

theorem canonical_putLum (n : Nat) (new : Option Luminaire) {s : State} (h : Canonical s) : Canonical (putLum n new s) := by
  obtain ⟨hl, hg, hw, hb, hs, himage, hlast⟩ := h
  have htables := putLum_tables n new s
  unfold OnlyTables at htables
  refine ⟨?_, ?_, ?_⟩
  · rw [putLum_luminaires]
    exact Table.rising_set hl n new
  · rw [putLum_groups]
    exact Table.rising_mapValues hg _
  · rw [htables]
    exact ⟨hw, hb, hs, himage, hlast⟩

theorem canonical_modLum (n : Nat) (f : Luminaire → Luminaire) {s : State} (h : Canonical s) :
    Canonical (modLum n f s) := by
  unfold modLum
  split
  · exact canonical_putLum n _ h
  · exact h

theorem canonical_slots {t : Table Slot} {s : State} (h : Canonical s) (ht : t.Rising) :
    Canonical { s with slots := t } := by
  obtain ⟨hl, hg, hw, hb, -, himage, hlast⟩ := h
  exact ⟨hl, hg, hw, hb, ht, himage, hlast⟩

theorem canonical_groups {t : Table Group} {s : State} (h : Canonical s) (ht : t.Rising) :
    Canonical { s with groups := t } := by
  obtain ⟨hl, -, hw, hb, hs, himage, hlast⟩ := h
  exact ⟨hl, ht, hw, hb, hs, himage, hlast⟩

theorem Canonical.slotsRising {s : State} (h : Canonical s) : s.slots.Rising := h.2.2.2.2.1

theorem Canonical.groupsRising {s : State} (h : Canonical s) : s.groups.Rising := h.2.1

theorem Canonical.luminairesRising {s : State} (h : Canonical s) : s.luminaires.Rising := h.1

theorem canonical_freeSlot (k : Nat) (sl : Slot) {s : State} (h : Canonical s) : Canonical (freeSlot k sl s) :=
  (canonical_slots h (Table.rising_drop h.slotsRising k)).kept (unqueue_only _ _ _).tablesKept

theorem canonical_close (k : Nat) (sl : Slot) {s : State} (h : Canonical s) : Canonical (close k sl s) := by
  rw [close_eq]
  refine Canonical.kept (canonical_modLum _ _ ?_) (queueStop_only _ _ _).tablesKept
  exact (canonical_slots h (Table.rising_put h.slotsRising k _)).kept (unqueue_only _ _ _).tablesKept

theorem canonical_addResult (r : ResultRecord) {s : State} (h : Canonical s) : Canonical (addResult r s) :=
  canonical_writeItem _ (s := followAttn { s with results := s.results ++ [r], resultCounter := _ }) h

theorem canonical_reservedCore (n k : Nat) (l : Luminaire) (sl : Slot) (e : Exchange) {s : State} (h : Canonical s) :
    Canonical (reservedCore n k l sl e s) :=
  canonical_putLum _ _ ((canonical_slots h (Table.rising_put h.slotsRising k sl)).kept (enqueue_only _ _ _).tablesKept)

/-! ### Start-up, RESET and loss of supply -/

theorem keepItem_canonical {old m : Image} (i : Item) (h : m.Canonical) : (keepItem old m i).Canonical := by
  have hdamaged : (if old.damaged.contains i then { m with damaged := m.damaged ++ [i] } else m : Image).Canonical := by
    split <;> exact h
  unfold keepItem
  simp only
  generalize (if old.damaged.contains i then { m with damaged := m.damaged ++ [i] } else m : Image) = blank at hdamaged
  obtain ⟨hl, hg, hw, hb⟩ := hdamaged
  cases i with
  | luminaire n => exact ⟨Table.rising_set hl n _, hg, hw, hb⟩
  | group n => exact ⟨hl, Table.rising_set hg n _, hw, hb⟩
  | window n => exact ⟨hl, hg, Table.rising_set hw n _, hb⟩
  | blackout n => exact ⟨hl, hg, hw, Table.rising_set hb n _⟩
  | _ => exact ⟨hl, hg, hw, hb⟩

theorem blankImage_canonical (old : Image) (items : List Item) {m : Image} (h : m.Canonical) :
    (items.foldl (keepItem old) m).Canonical := by
  induction items generalizing m with
  | nil => exact h
  | cons i items ih => exact ih (keepItem_canonical i h)

theorem canonical_takeImage {m : Image} {s : State} (hm : m.Canonical) (h : Canonical s) : Canonical (takeImage m s) := by
  obtain ⟨-, -, -, -, hs, himage, hlast⟩ := h
  obtain ⟨ml, mg, mw, mb⟩ := hm
  exact ⟨Table.rising_mapValues ml fun _ i => restored i, Table.rising_mapValues mg fun _ cap => (⟨cap, [], 0⟩ : Group), mw, mb, hs,
    himage, hlast⟩

theorem emptyImage_canonical : Image.Canonical {} := ⟨.nil, .nil, .nil, .nil⟩

theorem canonical_writeBlank {s : State} (h : Canonical s) : Canonical (writeBlank s) := by
  obtain ⟨hl, hg, hw, hb, hs, himage, -⟩ := h
  have hblank := blankImage_canonical s.image (blankFailures s.writeFates) emptyImage_canonical
  have hlast : ∀ m ∈ [s.image], m.Canonical := List.forall_mem_singleton.mpr himage
  unfold writeBlank
  simp only
  split
  · exact ⟨hl, hg, hw, hb, hs, hblank, hlast⟩
  · refine Canonical.kept ?_ (raise_only _ _).tablesKept
    exact ⟨hl, hg, hw, hb, hs, hblank, hlast⟩

theorem canonical_loadImage {s : State} (h : Canonical s) : Canonical (loadImage s) := by
  have himage : s.image.Canonical := h.2.2.2.2.2.1
  unfold loadImage
  split
  · exact canonical_takeImage (s := { s with storeState := .ok }) himage h
  · exact canonical_writeBlank (canonical_takeImage emptyImage_canonical h)

theorem canonical_recallMarked (m : Image) (n : Nat) {s : State} (h : Canonical s) : Canonical (recallMarked m s n) := by
  unfold recallMarked
  split
  · exact h
  · rename_i l _
    split
    · simp only
      refine Canonical.kept (canonical_writeItem _ ?_) (offer_only _ _ _).tablesKept
      have hput : ∀ (u : State) (x : Luminaire), Canonical u → Canonical { u with luminaires := u.luminaires.put n x } :=
        fun u x ⟨hl, hrest⟩ => ⟨Table.rising_put hl n x, hrest⟩
      refine hput _ _ ?_
      split
      · exact canonical_addResult _ h
      · exact h
    · exact h

theorem canonical_fresh (keepTime : Bool) {s : State} (h : Canonical s) : Canonical (fresh keepTime s) := by
  obtain ⟨-, -, -, -, -, himage, hlast⟩ := h
  unfold fresh
  cases keepTime <;> exact ⟨.nil, .nil, .nil, .nil, .nil, himage, hlast⟩

theorem canonical_booted (keepTime : Bool) {s : State} (h : Canonical s) : Canonical (booted keepTime s) := by
  have hmarkers : Canonical (recallMarkers (loadImage (fresh keepTime s))) :=
    foldl_keeps (fun t n ht => canonical_recallMarked _ n ht) _ (canonical_loadImage (canonical_fresh keepTime h))
  obtain ⟨hl, hg, hrest⟩ := hmarkers
  exact ⟨hl, Table.rising_mapValues hg _, hrest⟩

theorem cutImage_canonical (cut : Nat) {s : State} (h : Canonical s) : (cutImage cut s).Canonical := by
  obtain ⟨-, -, -, -, -, himage, hlast⟩ := h
  unfold cutImage
  split
  · exact himage
  · rename_i k
    cases hk : s.lastWrites[k]? with
    | some m => exact hlast m (List.mem_of_getElem? hk)
    | none =>
      cases hl : s.lastWrites.getLast? with
      | none => exact himage
      | some m => exact hlast m (List.mem_of_getLast? hl)

/-! ### The second -/

/-- The record after the countdown of a second (R24). -/
def Luminaire.counted (l : Luminaire) : Luminaire := { l with bandLife := countDown l.bandLife }

/-- The slot after the countdown of a second (R103, R104). -/
def Slot.counted (sl : Slot) : Slot :=
  { sl with supervision := countDown sl.supervision, endTimer := countDown sl.endTimer }

theorem secondPasses_luminaires (s : State) :
    (secondPasses s).luminaires = s.luminaires.mapValues fun _ => Luminaire.counted := rfl

theorem secondPasses_slots (s : State) : (secondPasses s).slots = s.slots.mapValues fun _ => Slot.counted := rfl

/-! ### Every move -/

theorem moves_canonical {s t : State} (hm : Moves s t) : Canonical s → Canonical t := by
  induction hm with
  | refl s => exact id
  | trans _ _ ih1 ih2 => exact fun h => ih2 (ih1 h)
  | aside ha => exact fun h => h.kept ha.tablesKept
  | begins s =>
    rintro ⟨hl, hg, hw, hb, hs, himage, -⟩
    exact ⟨hl, hg, hw, hb, hs, himage, fun _ hm => nomatch hm⟩
  | raises b s => exact fun h => h.kept (raise_only b s).tablesKept
  | writes i s => exact canonical_writeItem i
  | noticesTaken k s => exact id
  | resultsDropped k s => exact id
  | calendar w x s hw hx =>
    rintro ⟨hl, hg, hwindows, hblackouts, hrest⟩
    exact ⟨hl, hg, hw hwindows, hx hblackouts, hrest⟩
  | control hc _ => exact fun h => h.kept hc.tablesKept
  | second s =>
    rintro ⟨hl, hg, hw, hb, hs, himage, -⟩
    refine ⟨?_, hg, hw, hb, ?_, himage, fun _ hm => nomatch hm⟩
    · rw [secondPasses_luminaires]
      exact Table.rising_mapValues hl _
    · rw [secondPasses_slots]
      exact Table.rising_mapValues hs _
  | record n l l' s _ _ => exact canonical_putLum n _
  | enrols n l s _ _ _ _ _ => exact canonical_putLum n _
  | withdraws n l s _ _ => exact canonical_putLum n _
  | defines g cap s => exact fun h => canonical_groups h (Table.rising_put h.groupsRising g _)
  | drops g r s _ _ => exact fun h => canonical_groups h (Table.rising_drop h.groupsRising g)
  | channel c f s _ => exact id
  | joins c k sl s _ _ => exact id
  | branch b f s _ => exact id
  | queues b e s _ => exact fun h => h.kept (enqueue_only b e s).tablesKept
  | leaves b f s t _ _ _ ih => exact ih
  | slot k sl sl' s _ _ _ => exact fun h => canonical_slots h (Table.rising_put h.slotsRising k sl')
  | reserves n k l sl e s _ _ _ _ _ _ _ _ => exact canonical_reservedCore n k l sl e
  | starts k sl sl' l l' s _ _ _ _ _ _ _ _ _ =>
    exact fun h => canonical_putLum _ _ (canonical_slots h (Table.rising_put h.slotsRising k sl'))
  | closes k sl sl' s _ _ _ => exact canonical_close k sl'
  | releasesWithout k sl f b s u _ _ _ _ _ ih =>
    exact fun h => (ih (canonical_modLum _ f (canonical_freeSlot k sl h))).kept (forget_only _ _ _ _).tablesKept
  | releasesWith k sl sl' l l' r b s u _ _ _ _ _ _ _ ih =>
    exact fun h => (ih (canonical_freeSlot k sl' (canonical_putLum _ _ (canonical_addResult r h)))).kept
      (forget_only _ _ _ _).tablesKept
  | orphan k sl sl' s _ _ _ => exact canonical_freeSlot k sl'
  | boots keepTime s t _ _ _ ih => exact fun h => ih (canonical_booted keepTime h)
  | stops ph cut s _ => exact fun h => ⟨.nil, .nil, .nil, .nil, .nil, cutImage_canonical cut h, fun _ hm => nomatch hm⟩

/-- Settles O54: tables change by put, drop and mapValues alone, in every move. -/
theorem everyStepKeepsTablesCanonical : Obligations.EveryStepKeepsTablesCanonical := by
  unfold Obligations.EveryStepKeepsTablesCanonical
  exact fun s t hc h => moves_canonical (step_moves h) hc

end Sys2Proof.Machine
end

section
/-! PROOFS. Every step keeps room in the result queue for every occupied slot (O55). -/

namespace Sys2Proof.Machine

/-! ### Slots and results that stay -/

/-- The active test table and the result queue are as they were. -/
structure TestsKept (s t : State) : Prop where
  slots : t.slots = s.slots
  results : t.results = s.results

theorem TestsKept.trans {s t u : State} (h1 : TestsKept s t) (h2 : TestsKept t u) : TestsKept s u :=
  ⟨h2.slots.trans h1.slots, h2.results.trans h1.results⟩

theorem OnlyTables.testsKept {s t : State} (h : OnlyTables s t) : TestsKept s t := by
  unfold OnlyTables at h
  rw [h]
  exact ⟨rfl, rfl⟩

theorem OnlyBranches.testsKept {s t : State} (h : OnlyBranches s t) : TestsKept s t := by
  unfold OnlyBranches at h
  rw [h]
  exact ⟨rfl, rfl⟩

theorem OnlyCampaign.testsKept {s t : State} (h : OnlyCampaign s t) : TestsKept s t := by
  unfold OnlyCampaign at h
  rw [h]
  exact ⟨rfl, rfl⟩

theorem OnlyWrites.testsKept {s t : State} (h : OnlyWrites s t) : TestsKept s t := by
  unfold OnlyWrites at h
  rw [h]
  exact ⟨rfl, rfl⟩

theorem Aside.testsKept {s t : State} (h : Aside s t) : TestsKept s t := by
  unfold Aside at h
  rw [h]
  exact ⟨rfl, rfl⟩

theorem OnlyControl.testsKept {s t : State} (h : OnlyControl s t) : TestsKept s t := by
  unfold OnlyControl at h
  rw [h]
  exact ⟨rfl, rfl⟩

theorem addResult_results (r : ResultRecord) (s : State) : (addResult r s).results = s.results ++ [r] := by
  unfold addResult
  rw [(writeItem_only .results _).testsKept.results]
  rfl

/-! ### What the operations do to the room -/

theorem ResultsFit.kept {s t : State} (h : ResultsFit s) (hk : TestsKept s t) : ResultsFit t := by
  unfold ResultsFit
  rw [hk.slots, hk.results]
  exact h

/-- A position of the table stays among its positions when it is written, dropped or mapped. -/
theorem below_of_keys {t u : Table Slot} (h : ∀ p ∈ t, p.1 < slotCount) (hkeys : ∀ i ∈ u.keys, i ∈ t.keys) :
    ∀ p ∈ u, p.1 < slotCount := by
  intro p hp
  obtain ⟨q, hq, hqp⟩ := List.mem_map.mp (hkeys p.1 (List.mem_map.mpr ⟨p, hp, rfl⟩))
  exact hqp ▸ h q hq

theorem resultsFit_put {k : Nat} {sl : Slot} (sl' : Slot) {s : State} (hk : s.slots.get k = some sl)
    (h : ResultsFit s) : ResultsFit { s with slots := s.slots.put k sl' } := by
  obtain ⟨hroom, hrising, hbelow⟩ := h
  refine ⟨?_, Table.rising_put hrising k sl', below_of_keys hbelow fun i hi => ?_⟩
  · change (s.slots.put k sl').length + s.results.length ≤ _
    rw [Table.length_put_of_get hrising hk]
    exact hroom
  · rcases Table.mem_keys_put hi with e | m
    · exact e ▸ Table.mem_keys_of_get hk
    · exact m

theorem resultsFit_freeSlot {k : Nat} {sl : Slot} (sl' : Slot) {s : State} (hk : s.slots.get k = some sl)
    (hroom : s.slots.length + s.results.length ≤ resultRoom + 1) (hrising : s.slots.Rising)
    (hbelow : ∀ p ∈ s.slots, p.1 < slotCount) : ResultsFit (freeSlot k sl' s) := by
  have hlength := Table.length_drop_of_get hk
  refine ⟨?_, Table.rising_drop hrising k, below_of_keys hbelow fun i hi => Table.mem_keys_drop hi⟩
  change (s.slots.drop k).length + s.results.length ≤ _
  omega

theorem resultsFit_reserved {k : Nat} (sl : Slot) {s : State} (hlt : k < slotCount)
    (hroom : s.slots.length + s.results.length < resultRoom) (h : ResultsFit s) :
    ResultsFit { s with slots := s.slots.put k sl } := by
  obtain ⟨-, hrising, hbelow⟩ := h
  have hlength := Table.length_put_le s.slots k sl
  refine ⟨?_, Table.rising_put hrising k sl, fun p hp => ?_⟩
  · change (s.slots.put k sl).length + s.results.length ≤ _
    omega
  · rcases Table.mem_keys_put (List.mem_map.mpr ⟨p, hp, rfl⟩) with e | m
    · exact e ▸ hlt
    · obtain ⟨q, hq, hqp⟩ := List.mem_map.mp m
      exact hqp ▸ hbelow q hq

theorem resultsFit_noSlot {s : State} (hslots : s.slots = []) (hroom : s.results.length ≤ resultRoom) : ResultsFit s := by
  unfold ResultsFit
  rw [hslots]
  refine ⟨?_, .nil, fun p hp => nomatch hp⟩
  rw [List.length_nil, Nat.zero_add]
  exact hroom

/-! ### Start-up -/

/-- No slot is occupied and the result queue is within its room. -/
structure QueueAlone (s : State) : Prop where
  slots : s.slots = []
  room : s.results.length ≤ resultRoom

theorem QueueAlone.kept {s t : State} (h : QueueAlone s) (hk : TestsKept s t) : QueueAlone t :=
  ⟨hk.slots.trans h.slots, hk.results ▸ h.room⟩

theorem imageOk_results {m : Image} (h : imageOk m = true) : m.results.length ≤ resultRoom := by
  unfold imageOk at h
  simp only [Bool.and_eq_true, decide_eq_true_eq] at h
  obtain ⟨⟨⟨⟨-, hresults⟩, -⟩, -⟩, -⟩ := h
  exact hresults

theorem fresh_slots (keepTime : Bool) (s : State) : (fresh keepTime s).slots = [] := by
  unfold fresh
  cases keepTime <;> rfl

theorem queueAlone_loadImage {s : State} (h : s.slots = []) : QueueAlone (loadImage s) := by
  unfold loadImage
  split
  · rename_i hok
    exact ⟨h, imageOk_results hok⟩
  · have hblank : QueueAlone (takeImage {} s) := ⟨h, Nat.zero_le _⟩
    unfold writeBlank
    simp only
    split
    · exact hblank.kept ⟨rfl, rfl⟩
    · refine QueueAlone.kept ?_ (raise_only _ _).writes.testsKept
      exact hblank.kept ⟨rfl, rfl⟩

theorem queueAlone_recallMarked (m : Image) (n : Nat) {s : State} (h : QueueAlone s) : QueueAlone (recallMarked m s n) := by
  unfold recallMarked
  split
  · exact h
  · split
    · simp only
      refine QueueAlone.kept ?_ ((writeItem_only _ _).testsKept.trans (offer_only _ _ _).testsKept)
      split
      · rename_i hlt
        refine ⟨(addResult_slots _ s).trans h.slots, ?_⟩
        change (addResult _ s).results.length ≤ _
        rw [addResult_results, List.length_append, List.length_singleton]
        exact hlt
      · exact ⟨h.slots, h.room⟩
    · exact h

theorem booted_queueAlone (keepTime : Bool) (s : State) : QueueAlone (booted keepTime s) := by
  have hmarkers : QueueAlone (recallMarkers (loadImage (fresh keepTime s))) :=
    foldl_keeps (fun t n ht => queueAlone_recallMarked _ n ht) _ (queueAlone_loadImage (fresh_slots keepTime s))
  exact ⟨hmarkers.slots, hmarkers.room⟩

/-! ### Every move -/

theorem putLum_testsKept (n : Nat) (new : Option Luminaire) (s : State) : TestsKept s (putLum n new s) :=
  (putLum_tables n new s).testsKept

theorem moves_resultsFit {s t : State} (hm : Moves s t) : ResultsFit s → ResultsFit t := by
  induction hm with
  | refl s => exact id
  | trans _ _ ih1 ih2 => exact fun h => ih2 (ih1 h)
  | aside ha => exact fun h => h.kept ha.testsKept
  | begins s => exact id
  | raises b s => exact fun h => h.kept (raise_only b s).writes.testsKept
  | writes i s => exact fun h => h.kept (writeItem_only i s).testsKept
  | noticesTaken k s => exact id
  | resultsDropped k s =>
    rintro ⟨hroom, hrising, hbelow⟩
    refine ⟨?_, hrising, hbelow⟩
    change s.slots.length + (s.results.drop k).length ≤ _
    rw [List.length_drop]
    omega
  | calendar w x s _ _ => exact id
  | control hc _ => exact fun h => h.kept hc.testsKept
  | second s =>
    rintro ⟨hroom, hrising, hbelow⟩
    unfold ResultsFit
    rw [secondPasses_slots, Table.length_mapValues]
    exact ⟨hroom, Table.rising_mapValues hrising _, below_of_keys hbelow fun i hi => by rwa [Table.keys_mapValues] at hi⟩
  | record n l l' s _ _ => exact fun h => h.kept (putLum_testsKept n _ s)
  | enrols n l s _ _ _ _ _ => exact fun h => h.kept (putLum_testsKept n _ s)
  | withdraws n l s _ _ => exact fun h => h.kept (putLum_testsKept n _ s)
  | defines g cap s => exact id
  | drops g r s _ _ => exact id
  | channel c f s _ => exact id
  | joins c k sl s _ _ => exact id
  | branch b f s _ => exact id
  | queues b e s _ => exact fun h => h.kept (enqueue_only b e s).testsKept
  | leaves b f s t _ _ _ ih => exact ih
  | slot k sl sl' s hk _ _ => exact resultsFit_put sl' hk
  | reserves n k l sl e s _ _ hlt _ _ _ _ hroom =>
    exact fun h => (resultsFit_reserved sl hlt hroom h).kept
      ((enqueue_only _ _ _).testsKept.trans (putLum_testsKept _ _ _))
  | starts k sl sl' l l' s hk _ _ _ _ _ _ _ _ =>
    exact fun h => (resultsFit_put sl' hk h).kept (putLum_testsKept _ _ _)
  | closes k sl sl' s hk _ _ =>
    intro h
    refine (resultsFit_put sl'.closed hk h).kept ⟨close_slots k sl' s, (close_collectionsKept k sl' s).results⟩
  | releasesWithout k sl f b s u hk _ _ _ _ ih =>
    rintro ⟨hroom, hrising, hbelow⟩
    have hfreed := resultsFit_freeSlot sl hk (Nat.le_succ_of_le hroom) hrising hbelow
    exact (ih (hfreed.kept (modLum_tables _ _ _).testsKept)).kept (forget_only _ _ _ _).testsKept
  | releasesWith k sl sl' l l' r b s u hk _ _ _ _ _ _ ih =>
    rintro ⟨hroom, hrising, hbelow⟩
    have hput := putLum_testsKept sl.luminaire (some l') (addResult r s)
    have hslots : (putLum sl.luminaire (some l') (addResult r s)).slots = s.slots :=
      hput.slots.trans (addResult_slots r s)
    refine (ih (resultsFit_freeSlot sl' (hslots ▸ hk) ?_ (hslots ▸ hrising) (hslots ▸ hbelow))).kept
      (forget_only _ _ _ _).testsKept
    rw [hslots, hput.results, addResult_results, List.length_append, List.length_singleton]
    exact Nat.succ_le_succ hroom
  | orphan k sl sl' s hk _ _ =>
    rintro ⟨hroom, hrising, hbelow⟩
    exact resultsFit_freeSlot sl' hk (Nat.le_succ_of_le hroom) hrising hbelow
  | boots keepTime s t _ _ _ ih =>
    exact fun _ => ih (resultsFit_noSlot (booted_queueAlone keepTime s).slots (booted_queueAlone keepTime s).room)
  | stops ph cut s _ => exact fun _ => resultsFit_noSlot rfl (Nat.zero_le _)

/-- Settles O55: a reservation needs a free place of the 256, and a release turns a slot into at most one result. -/
theorem everyStepKeepsRoomForResults : Obligations.EveryStepKeepsRoomForResults := by
  unfold Obligations.EveryStepKeepsRoomForResults
  exact fun s t _ hfit h => moves_resultsFit (step_moves h) hfit

end Sys2Proof.Machine
end

section
/-! PROOFS. Every step keeps the schedule list what R59 says (O56). -/

namespace Sys2Proof.Machine

/-! ### Records, groups and list that stay -/

/-- The luminaire records, the groups and the schedule list are as they were. -/
structure RecordsKept (s t : State) : Prop where
  luminaires : t.luminaires = s.luminaires
  groups : t.groups = s.groups
  schedule : t.schedule = s.schedule

theorem RecordsKept.refl (s : State) : RecordsKept s s := ⟨rfl, rfl, rfl⟩

theorem RecordsKept.trans {s t u : State} (h1 : RecordsKept s t) (h2 : RecordsKept t u) : RecordsKept s u :=
  ⟨h2.luminaires.trans h1.luminaires, h2.groups.trans h1.groups, h2.schedule.trans h1.schedule⟩

theorem OnlyWrites.recordsKept {s t : State} (h : OnlyWrites s t) : RecordsKept s t := by
  unfold OnlyWrites at h
  rw [h]
  exact ⟨rfl, rfl, rfl⟩

theorem OnlyBranches.recordsKept {s t : State} (h : OnlyBranches s t) : RecordsKept s t := by
  unfold OnlyBranches at h
  rw [h]
  exact ⟨rfl, rfl, rfl⟩

theorem OnlyCampaign.recordsKept {s t : State} (h : OnlyCampaign s t) : RecordsKept s t := by
  unfold OnlyCampaign at h
  rw [h]
  exact ⟨rfl, rfl, rfl⟩

theorem Aside.recordsKept {s t : State} (h : Aside s t) : RecordsKept s t := by
  unfold Aside at h
  rw [h]
  exact ⟨rfl, rfl, rfl⟩

theorem OnlyControl.recordsKept {s t : State} (h : OnlyControl s t) : RecordsKept s t := by
  unfold OnlyControl at h
  rw [h]
  exact ⟨rfl, rfl, rfl⟩

theorem addResult_recordsKept (r : ResultRecord) (s : State) : RecordsKept s (addResult r s) :=
  RecordsKept.trans
    (t := followAttn { s with results := s.results ++ [r], resultCounter := (s.resultCounter + 1) % 65536 })
    ⟨rfl, rfl, rfl⟩ (writeItem_only _ _).recordsKept

theorem freeSlot_recordsKept (k : Nat) (sl : Slot) (s : State) : RecordsKept s (freeSlot k sl s) := ⟨rfl, rfl, rfl⟩

theorem queueStop_recordsKept (k : Nat) (sl : Slot) (s : State) : RecordsKept s (queueStop k sl s) :=
  (queueStop_only k sl s).recordsKept

/-! ### The order of the list -/

/-- Luminaire `m` stands before luminaire `n` (R59). -/
abbrev Precedes (t : Table Luminaire) (m n : Nat) : Prop := standsBefore (dueOf t m) m (dueOf t n) n = true

theorem standsBefore_iff {d n e m : Nat} : standsBefore d n e m = true ↔ d < e ∨ (d = e ∧ n < m) := by
  simp [standsBefore]

theorem standsBefore_total {d n e m : Nat} (h : ¬standsBefore d n e m = true) (hne : n ≠ m) :
    standsBefore e m d n = true := by
  rw [standsBefore_iff] at *
  omega

theorem standsBefore_trans {d n e m f k : Nat} (h1 : standsBefore d n e m = true) (h2 : standsBefore e m f k = true) :
    standsBefore d n f k = true := by
  rw [standsBefore_iff] at *
  omega

theorem precedes_irrefl (t : Table Luminaire) (n : Nat) : ¬Precedes t n n := fun h => by
  have hlt := standsBefore_iff.mp h
  omega

/-- The luminaires of `list` are those of the table in IDLE or DUE, each once, in the order of R59. -/
structure Listed (t : Table Luminaire) (list : List Nat) : Prop where
  sorted : list.Pairwise (Precedes t)
  mem_iff : ∀ n, n ∈ list ↔ (listKey (t.get n)).isSome = true

theorem Listed.nodup {t : Table Luminaire} {list : List Nat} (h : Listed t list) : list.Nodup :=
  h.sorted.imp fun {m n} (hmn : Precedes t m n) (he : m = n) => precedes_irrefl t n (he ▸ hmn)

theorem listKey_isSome (l? : Option Luminaire) : (listKey l?).isSome = l?.any fun l => l.state.waits := by
  cases l? with
  | none => rfl
  | some l =>
    change (if l.state.waits then some l.due else none).isSome = l.state.waits
    cases l.state.waits <;> rfl

theorem dueOf_of_listKey {t : Table Luminaire} {n d : Nat} (h : listKey (t.get n) = some d) : dueOf t n = d := by
  unfold dueOf
  cases hn : t.get n with
  | none => rw [hn] at h; cases h
  | some l =>
    rw [hn] at h
    change (if l.state.waits then some l.due else none) = some d at h
    split at h
    · exact Option.some.inj h
    · cases h

/-- The list is right exactly when R59's clauses hold of it. -/
theorem scheduleSound_iff {s : State} (hr : s.luminaires.Rising) : ScheduleSound s ↔ Listed s.luminaires s.schedule := by
  constructor
  · rintro ⟨hsorted, hwaits, hall⟩
    refine ⟨hsorted, fun n => ⟨fun hn => (listKey_isSome _).trans (hwaits n hn), fun hn => ?_⟩⟩
    rw [listKey_isSome] at hn
    cases hl : s.luminaires.get n with
    | none => rw [hl] at hn; cases hn
    | some l =>
      rw [hl] at hn
      exact hall (n, l) (Table.mem_of_get hl) hn
  · rintro ⟨hsorted, hmem⟩
    refine ⟨hsorted, fun n hn => (listKey_isSome _).symm.trans ((hmem n).mp hn), fun p hp hwaits => (hmem p.1).mpr ?_⟩
    rw [listKey_isSome, Table.get_of_mem hr hp]
    exact hwaits

/-! ### Placing a luminaire -/

theorem mem_insertDue {t : Table Luminaire} {d n m : Nat} {list : List Nat} :
    m ∈ insertDue t d n list ↔ m = n ∨ m ∈ list := by
  induction list with
  | nil => simp [insertDue]
  | cons k rest ih =>
    unfold insertDue
    split
    · rw [List.mem_cons]
    · rw [List.mem_cons, List.mem_cons, ih]
      exact or_left_comm

theorem insertDue_sorted {t : Table Luminaire} {d n : Nat} {list : List Nat} (hd : dueOf t n = d) (hn : n ∉ list)
    (h : list.Pairwise (Precedes t)) : (insertDue t d n list).Pairwise (Precedes t) := by
  induction list with
  | nil => exact List.pairwise_singleton _ _
  | cons m rest ih =>
    obtain ⟨hm, hrest⟩ := List.pairwise_cons.mp h
    obtain ⟨hne, hnrest⟩ := not_or.mp (List.mem_cons.not.mp hn)
    unfold insertDue
    split
    · rename_i hbefore
      have hnm : Precedes t n m := by
        rw [← hd] at hbefore
        exact hbefore
      refine List.pairwise_cons.mpr ⟨fun k hk => ?_, h⟩
      rcases List.mem_cons.mp hk with e | hk
      · exact e ▸ hnm
      · exact standsBefore_trans hnm (hm k hk)
    · rename_i hafter
      have hmn : Precedes t m n := by
        rw [← hd] at hafter
        exact standsBefore_total hafter hne
      refine List.pairwise_cons.mpr ⟨fun k hk => ?_, ih hnrest hrest⟩
      rcases mem_insertDue.mp hk with e | hk
      · exact e ▸ hmn
      · exact hm k hk

/-- The order depends on the due times of the luminaires in the list alone. -/
theorem sorted_congr {t u : Table Luminaire} {list : List Nat} (hdue : ∀ n ∈ list, dueOf u n = dueOf t n)
    (h : list.Pairwise (Precedes t)) : list.Pairwise (Precedes u) :=
  h.imp_of_mem fun {m n} hm hn hmn => by
    unfold Precedes
    rw [hdue m hm, hdue n hn]
    exact hmn

/-- Records that change in neither due time nor waiting leave the list as it is. -/
theorem Listed.congr {t u : Table Luminaire} {list : List Nat} (h : Listed t list)
    (hkey : ∀ n, listKey (u.get n) = listKey (t.get n)) : Listed u list := by
  refine ⟨sorted_congr (fun n hn => ?_) h.sorted, fun n => hkey n ▸ h.mem_iff n⟩
  obtain ⟨d, hd⟩ := Option.isSome_iff_exists.mp ((h.mem_iff n).mp hn)
  rw [dueOf_of_listKey hd, dueOf_of_listKey ((hkey n).trans hd)]

/-- The list without luminaire `n`, whose record alone has changed. -/
theorem sorted_erase {t u : Table Luminaire} {list : List Nat} {n : Nat} (h : Listed t list)
    (hother : ∀ m, m ≠ n → u.get m = t.get m) : (list.erase n).Pairwise (Precedes u) := by
  refine sorted_congr (fun m hm => ?_) (h.sorted.sublist List.erase_sublist)
  unfold dueOf
  rw [hother m (h.nodup.mem_erase_iff.mp hm).1]

/-- R60: the list follows the change of one record. -/
theorem Listed.relisted {t u : Table Luminaire} {list : List Nat} {n : Nat} (h : Listed t list)
    (hother : ∀ m, m ≠ n → u.get m = t.get m) (hkey : listKey (t.get n) ≠ listKey (u.get n)) :
    Listed u (match listKey (u.get n) with
      | none => list.erase n
      | some d => insertDue u d n (list.erase n)) := by
  have herase := sorted_erase h hother
  have hmem : ∀ m, m ∈ list.erase n ↔ m ≠ n ∧ (listKey (u.get m)).isSome = true := fun m => by
    rw [h.nodup.mem_erase_iff, h.mem_iff]
    exact and_congr_right fun hne => by rw [hother m hne]
  cases hu : listKey (u.get n) with
  | none =>
    refine ⟨herase, fun m => (hmem m).trans (and_iff_right_of_imp ?_)⟩
    rintro hsome rfl
    rw [hu] at hsome
    cases hsome
  | some d =>
    refine ⟨insertDue_sorted (dueOf_of_listKey hu) (fun hn => ((hmem n).mp hn).1 rfl) herase, fun m => ?_⟩
    rw [mem_insertDue, hmem]
    by_cases hm : m = n
    · rw [hm, hu]
      exact iff_of_true (.inl rfl) rfl
    · rw [or_iff_right hm, and_iff_right hm]

theorem putLum_relisted (n : Nat) (new : Option Luminaire) (s : State) :
    (putLum n new s).schedule =
      if listKey (s.luminaires.get n) = listKey new then s.schedule
      else match listKey new with
        | none => s.schedule.erase n
        | some d => insertDue (s.luminaires.set n new) d n (s.schedule.erase n) := by
  unfold putLum relist
  dsimp only
  by_cases hkey : listKey (s.luminaires.get n) = listKey new
  · rw [if_pos hkey, if_pos hkey]
    rfl
  · rw [if_neg hkey, if_neg hkey]
    cases listKey new <;> rfl

theorem listed_putLum {s : State} (n : Nat) (new : Option Luminaire) (hr : s.luminaires.Rising)
    (h : Listed s.luminaires s.schedule) : Listed (putLum n new s).luminaires (putLum n new s).schedule := by
  have hnew : (s.luminaires.set n new).get n = new := Table.get_set_self hr n new
  have hother : ∀ m, m ≠ n → (s.luminaires.set n new).get m = s.luminaires.get m :=
    fun m hm => Table.get_set_other _ _ hm
  rw [putLum_luminaires, putLum_relisted]
  split
  · rename_i hkey
    refine h.congr fun m => ?_
    by_cases hm : m = n
    · rw [hm, hnew, hkey]
    · rw [hother m hm]
  · rename_i hkey
    have hlisted := h.relisted hother (by rwa [hnew])
    rw [hnew] at hlisted
    exact hlisted

/-! ### The list rebuilt -/

theorem listed_foldl (t : Table Luminaire) (ps : Table Luminaire) (list : List Nat) (hps : ps.keys.Nodup)
    (hfresh : ∀ p ∈ ps, p.1 ∉ list) (hdue : ∀ p ∈ ps, dueOf t p.1 = p.2.due) (h : list.Pairwise (Precedes t)) :
    (ps.foldl (fun list p => insertDue t p.2.due p.1 list) list).Pairwise (Precedes t) ∧
      ∀ n, n ∈ ps.foldl (fun list p => insertDue t p.2.due p.1 list) list ↔ n ∈ list ∨ n ∈ ps.keys := by
  induction ps generalizing list with
  | nil => exact ⟨h, fun n => (or_iff_left List.not_mem_nil).symm⟩
  | cons p ps ih =>
    obtain ⟨hp, hrest⟩ := List.nodup_cons.mp hps
    have hsorted := insertDue_sorted (hdue p List.mem_cons_self) (hfresh p List.mem_cons_self) h
    have hfresh' : ∀ q ∈ ps, q.1 ∉ insertDue t p.2.due p.1 list := by
      intro q hq hmem
      rcases mem_insertDue.mp hmem with e | hmem
      · exact hp (List.mem_map.mpr ⟨q, hq, e⟩)
      · exact hfresh q (List.mem_cons_of_mem _ hq) hmem
    obtain ⟨h1, h2⟩ := ih _ hrest hfresh' (fun q hq => hdue q (List.mem_cons_of_mem _ hq)) hsorted
    refine ⟨h1, fun n => (h2 n).trans ?_⟩
    rw [mem_insertDue, or_comm (a := n = p.1), or_assoc]
    exact or_congr_right List.mem_cons.symm

theorem listed_rebuilt {t : Table Luminaire} (hr : t.Rising) : Listed t (rebuiltSchedule t) := by
  have hdue : ∀ p ∈ t.filter (fun p => p.2.state.waits), dueOf t p.1 = p.2.due := fun p hp => by
    unfold dueOf
    rw [Table.get_of_mem hr (List.mem_of_mem_filter hp)]
    rfl
  have hkeys : (Table.keys (t.filter fun p => p.2.state.waits)).Nodup :=
    List.Nodup.sublist (List.filter_sublist.map _) (List.Pairwise.imp Nat.ne_of_lt hr)
  obtain ⟨hsorted, hmem⟩ := listed_foldl t _ [] hkeys (fun _ _ => List.not_mem_nil) hdue .nil
  refine ⟨hsorted, fun n => (hmem n).trans ?_⟩
  rw [or_iff_right List.not_mem_nil, listKey_isSome]
  constructor
  · intro hn
    obtain ⟨p, hp, hpn⟩ := List.mem_map.mp hn
    obtain ⟨hpt, hwaits⟩ := List.mem_filter.mp hp
    rw [← hpn, Table.get_of_mem hr hpt]
    exact hwaits
  · intro hn
    cases hl : t.get n with
    | none => rw [hl] at hn; cases hn
    | some l =>
      rw [hl] at hn
      exact List.mem_map.mpr ⟨(n, l), List.mem_filter.mpr ⟨Table.mem_of_get hl, hn⟩, rfl⟩

/-! ### Every move -/

theorem Listed.kept {s t : State} (h : Listed s.luminaires s.schedule) (hk : RecordsKept s t) :
    Listed t.luminaires t.schedule := by
  rw [hk.luminaires, hk.schedule]
  exact h

theorem listed_modLum {s : State} (n : Nat) (f : Luminaire → Luminaire) (hr : s.luminaires.Rising)
    (h : Listed s.luminaires s.schedule) : Listed (modLum n f s).luminaires (modLum n f s).schedule := by
  unfold modLum
  split
  · exact listed_putLum n _ hr h
  · exact h

theorem moves_listed {s t : State} (hm : Moves s t) (hc : Canonical s) :
    Listed s.luminaires s.schedule → Listed t.luminaires t.schedule := by
  induction hm with
  | refl s => exact id
  | trans h1 _ ih1 ih2 => exact fun h => ih2 (moves_canonical h1 hc) (ih1 hc h)
  | aside ha => exact fun h => h.kept ha.recordsKept
  | begins s => exact id
  | raises b s => exact fun h => h.kept (raise_only b s).writes.recordsKept
  | writes i s => exact fun h => h.kept (writeItem_only i s).recordsKept
  | noticesTaken k s => exact id
  | resultsDropped k s => exact id
  | calendar w x s _ _ => exact id
  | control hcontrol _ => exact fun h => h.kept hcontrol.recordsKept
  | second s =>
    intro h
    refine Listed.congr h fun n => ?_
    rw [secondPasses_luminaires, Table.get_mapValues]
    cases s.luminaires.get n <;> rfl
  | record n l l' s _ _ => exact listed_putLum n _ hc.luminairesRising
  | enrols n l s _ _ _ _ _ => exact listed_putLum n _ hc.luminairesRising
  | withdraws n l s _ _ => exact listed_putLum n _ hc.luminairesRising
  | defines g cap s => exact id
  | drops g r s _ _ => exact id
  | channel c f s _ => exact id
  | joins c k sl s _ _ => exact id
  | branch b f s _ => exact id
  | queues b e s _ => exact fun h => h.kept (enqueue_only b e s).recordsKept
  | leaves b f s t _ _ _ ih => exact ih hc
  | slot k sl sl' s hk _ _ => exact id
  | reserves n k l sl e s _ _ _ _ _ _ _ _ =>
    intro h
    have hqueued : RecordsKept s (enqueue l.branch e { s with slots := s.slots.put k sl }) :=
      RecordsKept.trans (t := { s with slots := s.slots.put k sl }) ⟨rfl, rfl, rfl⟩ (enqueue_only _ _ _).recordsKept
    refine listed_putLum _ _ ?_ (h.kept hqueued)
    rw [hqueued.luminaires]
    exact hc.luminairesRising
  | starts k sl sl' l l' s _ _ _ _ _ _ _ _ _ =>
    exact fun h => listed_putLum (s := { s with slots := s.slots.put k sl' }) _ _ hc.luminairesRising h
  | closes k sl sl' s _ _ _ =>
    intro h
    rw [close_eq]
    refine Listed.kept ?_ (queueStop_recordsKept _ _ _)
    exact listed_modLum (s := unqueue _ _ { s with slots := s.slots.put k sl'.closed }) _ _ hc.luminairesRising h
  | releasesWithout k sl f b s u _ _ _ _ _ ih =>
    intro h
    refine (ih (canonical_modLum _ f (canonical_freeSlot k sl hc)) ?_).kept (forget_only _ _ _ _).recordsKept
    exact listed_modLum (s := freeSlot k sl s) _ _ hc.luminairesRising h
  | releasesWith k sl sl' l l' r b s u _ _ _ _ _ _ _ ih =>
    intro h
    have hresult := addResult_recordsKept r s
    have hput := canonical_putLum sl.luminaire (some l') (canonical_addResult r hc)
    refine (ih (canonical_freeSlot k sl' hput) ?_).kept (forget_only _ _ _ _).recordsKept
    exact (listed_putLum _ _ (canonical_addResult r hc).luminairesRising (h.kept hresult)).kept
      (freeSlot_recordsKept k sl' _)
  | orphan k sl sl' s _ _ _ => exact id
  | boots keepTime s t _ _ _ ih =>
    intro _
    have hbooted := canonical_booted keepTime hc
    exact ih hbooted (listed_rebuilt hbooted.luminairesRising)
  | stops ph cut s _ =>
    intro _
    exact ⟨.nil, fun n => iff_of_false List.not_mem_nil fun h => nomatch h⟩

/-- Settles O56: every change of a record places the luminaire anew where its due time or its waiting changes (R60), and
start-up rebuilds the list. -/
theorem everyStepKeepsTheScheduleList : Obligations.EveryStepKeepsTheScheduleList := by
  unfold Obligations.EveryStepKeepsTheScheduleList
  intro s t hc hsound h
  have hmoves := step_moves h
  rw [scheduleSound_iff hc.luminairesRising] at hsound
  rw [scheduleSound_iff (moves_canonical hmoves hc).luminairesRising]
  exact moves_listed hmoves hc hsound

end Sys2Proof.Machine
end

section
/-! PROOFS. Every step keeps each group's member list and dark count what the luminaire records say (O57). -/

namespace Sys2Proof.Machine

/-! ### The positions whose records satisfy a condition -/

section Chosen

variable {α : Type}

/-- The positions of a table whose records satisfy `q`, in ascending order. -/
def chosen (q : α → Bool) (t : Table α) : List Nat := (t.filter fun p => q p.2).map Prod.fst

theorem chosen_cons (q : α → Bool) (j : Nat) (b : α) (t : Table α) :
    chosen q ((j, b) :: t) = if q b then j :: chosen q t else chosen q t := by
  unfold chosen
  rw [List.filter_cons]
  dsimp only
  split <;> rfl

theorem mem_keys_of_chosen {q : α → Bool} {t : Table α} {n : Nat} (h : n ∈ chosen q t) : n ∈ t.keys := by
  obtain ⟨p, hp, hpn⟩ := List.mem_map.mp h
  exact List.mem_map.mpr ⟨p, List.mem_of_mem_filter hp, hpn⟩

theorem mem_chosen {q : α → Bool} {t : Table α} (hr : t.Rising) {n : Nat} :
    n ∈ chosen q t ↔ (t.get n).any q = true := by
  constructor
  · intro h
    obtain ⟨p, hp, hpn⟩ := List.mem_map.mp h
    obtain ⟨hpt, hq⟩ := List.mem_filter.mp hp
    rw [← hpn, Table.get_of_mem hr hpt]
    exact hq
  · intro h
    cases hl : t.get n with
    | none => rw [hl] at h; cases h
    | some l =>
      rw [hl] at h
      exact List.mem_map.mpr ⟨(n, l), List.mem_filter.mpr ⟨Table.mem_of_get hl, h⟩, rfl⟩

theorem insertNumber_of_below {n : Nat} {xs : List Nat} (h : ∀ m ∈ xs, n < m) : insertNumber n xs = n :: xs := by
  cases xs with
  | nil => rfl
  | cons m xs => exact if_pos (h m List.mem_cons_self)

theorem insertNumber_head (n : Nat) (xs : List Nat) : insertNumber n (n :: xs) = n :: xs := by
  unfold insertNumber
  rw [if_neg (Nat.lt_irrefl n), if_pos rfl]

theorem insertNumber_above {n j : Nat} (h : j < n) (xs : List Nat) :
    insertNumber n (j :: xs) = j :: insertNumber n xs := by
  rw [insertNumber, if_neg (Nat.lt_asymm h), if_neg (Nat.ne_of_gt h)]

theorem insertNumber_of_mem {n : Nat} {xs : List Nat} (hs : xs.Pairwise (· < ·)) (h : n ∈ xs) :
    insertNumber n xs = xs := by
  induction xs with
  | nil => cases h
  | cons m xs ih =>
    obtain ⟨hm, hxs⟩ := List.pairwise_cons.mp hs
    rcases List.mem_cons.mp h with e | h
    · rw [e, insertNumber_head]
    · rw [insertNumber_above (hm n h), ih hxs h]

theorem length_insertNumber_of_not_mem {n : Nat} {xs : List Nat} (h : n ∉ xs) :
    (insertNumber n xs).length = xs.length + 1 := by
  induction xs with
  | nil => rfl
  | cons m xs ih =>
    obtain ⟨hne, hxs⟩ := not_or.mp (List.mem_cons.not.mp h)
    unfold insertNumber
    split
    · rfl
    · exact congrArg Nat.succ (ih hxs)

/-- Writing a position places it among those chosen, or takes it out. -/
theorem chosen_put (q : α → Bool) {t : Table α} (hr : t.Rising) (n : Nat) (a : α) :
    chosen q (t.put n a) = if q a then insertNumber n (chosen q t) else (chosen q t).erase n := by
  induction t with
  | nil =>
    rw [Table.put, chosen_cons]
    rfl
  | cons p t ih =>
    obtain ⟨j, b⟩ := p
    obtain ⟨hj, hrest⟩ := Table.rising_cons.mp hr
    have habove : ∀ m ∈ chosen q t, j < m := fun m hm => hj m (mem_keys_of_chosen hm)
    unfold Table.put
    split
    · rename_i hnj
      have hbelow : ∀ m ∈ chosen q ((j, b) :: t), n < m := fun m hm => by
        rcases List.mem_cons.mp (mem_keys_of_chosen hm) with e | hm
        · exact e ▸ hnj
        · exact Nat.lt_trans hnj (hj m hm)
      rw [chosen_cons q n a, insertNumber_of_below hbelow,
        List.erase_of_not_mem fun hn => Nat.lt_irrefl n (hbelow n hn)]
    · split
      · rename_i hnj
        subst hnj
        rw [chosen_cons, chosen_cons]
        cases q b
        · rw [if_neg Bool.false_ne_true, insertNumber_of_below habove,
            List.erase_of_not_mem fun hn => Nat.lt_irrefl n (habove n hn)]
        · rw [if_pos rfl, insertNumber_head, List.erase_cons_head]
      · rename_i hlt hne
        have hjn : j < n := by omega
        rw [chosen_cons, chosen_cons, ih hrest]
        cases q b
        · rw [if_neg Bool.false_ne_true, if_neg Bool.false_ne_true]
        · rw [if_pos rfl, if_pos rfl, insertNumber_above hjn, List.erase_cons_tail (by simpa using Nat.ne_of_lt hjn)]
          split <;> rfl

theorem chosen_drop (q : α → Bool) {t : Table α} (hr : t.Rising) (n : Nat) :
    chosen q (t.drop n) = (chosen q t).erase n := by
  induction t with
  | nil => rfl
  | cons p t ih =>
    obtain ⟨j, b⟩ := p
    obtain ⟨hj, hrest⟩ := Table.rising_cons.mp hr
    unfold Table.drop
    split
    · rename_i hjn
      subst hjn
      rw [chosen_cons]
      split
      · rw [List.erase_cons_head]
      · rw [List.erase_of_not_mem fun hn => Nat.lt_irrefl j (hj j (mem_keys_of_chosen hn))]
    · rename_i hjn
      rw [chosen_cons, chosen_cons, ih hrest]
      split
      · rw [List.erase_cons_tail (by simpa using hjn)]
      · rfl

theorem chosen_set (q : α → Bool) {t : Table α} (hr : t.Rising) (n : Nat) (new : Option α) :
    chosen q (t.set n new) = if new.any q then insertNumber n (chosen q t) else (chosen q t).erase n := by
  cases new with
  | none => exact chosen_drop q hr n
  | some a => exact chosen_put q hr n a

theorem chosen_mapValues (q : α → Bool) (t : Table α) (f : Nat → α → α)
    (hq : ∀ n l, q (f n l) = q l) : chosen q (t.mapValues f) = chosen q t := by
  unfold chosen Table.mapValues
  rw [List.filter_map, List.map_map]
  have hcomp : (fun p : Nat × α => q p.2) ∘ (fun p : Nat × α => (p.1, f p.1 p.2)) = fun p => q p.2 :=
    funext fun p => hq p.1 p.2
  rw [hcomp]
  rfl

theorem chosen_sorted (q : α → Bool) {t : Table α} (hr : t.Rising) :
    (chosen q t).Pairwise (· < ·) := List.Pairwise.sublist (List.filter_sublist.map _) hr

theorem length_chosen_set (q : α → Bool) {t : Table α} (hr : t.Rising) (n : Nat)
    (new : Option α) :
    (chosen q (t.set n new)).length = (chosen q t).length + (new.any q).toNat - ((t.get n).any q).toNat := by
  rw [chosen_set q hr]
  cases hold : (t.get n).any q with
  | true =>
    have hmem : n ∈ chosen q t := (mem_chosen hr).mpr hold
    split
    · rename_i hnew
      rw [insertNumber_of_mem (chosen_sorted q hr) hmem, hnew, Nat.add_sub_cancel]
    · rename_i hnew
      rw [List.length_erase_of_mem hmem, Bool.eq_false_of_not_eq_true hnew]
      rfl
  | false =>
    have hmem : n ∉ chosen q t := fun h => by rw [mem_chosen hr, hold] at h; cases h
    split
    · rename_i hnew
      rw [length_insertNumber_of_not_mem hmem, hnew]
      rfl
    · rename_i hnew
      rw [List.erase_of_not_mem hmem, Bool.eq_false_of_not_eq_true hnew]
      rfl

end Chosen

/-! ### The groups as the records say -/

/-- The record names group `g`. -/
def names (g : Nat) (l : Luminaire) : Bool := l.groups.contains g

/-- The record is dark in group `g` (R34). -/
def darkens (g : Nat) (l : Luminaire) : Bool := l.groups.contains g && l.dark

theorem rebuiltGroup_eq (t : Table Luminaire) (g : Nat) (r : Group) :
    rebuiltGroup t g r = ⟨r.cap, chosen (names g) t, (chosen (darkens g) t).length⟩ := by
  unfold rebuiltGroup chosen
  rw [List.length_map]
  rfl

/-- R28, R36: a group's record follows the change of one luminaire record. -/
theorem regroupOne_rebuilt {t : Table Luminaire} (hr : t.Rising) (n g : Nat) (new : Option Luminaire) (r : Group) :
    regroupOne n (t.get n) new g (rebuiltGroup t g r) = rebuiltGroup (t.set n new) g r := by
  rw [rebuiltGroup_eq, rebuiltGroup_eq, length_chosen_set _ hr, chosen_set _ hr]
  unfold regroupOne
  congr 1
  change (if new.any (names g) then _ else if (t.get n).any (names g) then _ else _) = _
  split
  · rfl
  · split
    · rfl
    · rename_i hold
      exact (List.erase_of_not_mem fun h => hold ((mem_chosen hr).mp h)).symm

/-- Groups and records agree (R28, R35): the member lists and counts are those of the records, and the records name defined
groups alone, each once. -/
structure Grouped (t : Table Luminaire) (groups : Table Group) : Prop where
  counted : ∀ g r, groups.get g = some r → r = rebuiltGroup t g r
  named : ∀ n l, t.get n = some l → l.groups.Nodup ∧ ∀ g ∈ l.groups, groups.has g = true

theorem groupsSound_iff {s : State} (hl : s.luminaires.Rising) (hg : s.groups.Rising) :
    GroupsSound s ↔ Grouped s.luminaires s.groups := by
  constructor
  · rintro ⟨hcounted, hnamed⟩
    exact ⟨fun g r hr => hcounted (g, r) (Table.mem_of_get hr), fun n l hn => hnamed (n, l) (Table.mem_of_get hn)⟩
  · rintro ⟨hcounted, hnamed⟩
    exact ⟨fun p hp => hcounted p.1 p.2 (Table.get_of_mem hg hp), fun p hp => hnamed p.1 p.2 (Table.get_of_mem hl hp)⟩

theorem has_mapValues {α β : Type} (t : Table α) (f : Nat → α → β) (k : Nat) : (t.mapValues f).has k = t.has k := by
  unfold Table.has
  rw [Table.get_mapValues, Option.isSome_map]

theorem grouped_putLum {s : State} (n : Nat) (new : Option Luminaire) (hr : s.luminaires.Rising)
    (hnew : ∀ l, new = some l → l.groups.Nodup ∧ ∀ g ∈ l.groups, s.groups.has g = true)
    (h : Grouped s.luminaires s.groups) : Grouped (putLum n new s).luminaires (putLum n new s).groups := by
  rw [putLum_luminaires, putLum_groups]
  constructor
  · intro g r hg
    rw [Table.get_mapValues] at hg
    obtain ⟨r0, hr0, rfl⟩ := Option.map_eq_some_iff.mp hg
    rw [h.counted g r0 hr0, regroupOne_rebuilt hr]
    rfl
  · intro m l hm
    simp only [has_mapValues]
    by_cases hmn : m = n
    · rw [hmn, Table.get_set_self hr] at hm
      exact hnew l hm
    · rw [Table.get_set_other _ _ hmn] at hm
      exact h.named m l hm

theorem grouped_same {s : State} {n : Nat} {l l' : Luminaire} (hr : s.luminaires.Rising)
    (hl : s.luminaires.get n = some l) (hgroups : l'.groups = l.groups) (h : Grouped s.luminaires s.groups) :
    Grouped (putLum n (some l') s).luminaires (putLum n (some l') s).groups := by
  refine grouped_putLum n _ hr (fun l'' hl'' => ?_) h
  cases hl''
  rw [hgroups]
  exact h.named n l hl

theorem Grouped.mapValues {t : Table Luminaire} {groups : Table Group} (f : Nat → Luminaire → Luminaire)
    (hgroups : ∀ n l, (f n l).groups = l.groups) (hdark : ∀ n l, (f n l).dark = l.dark) (h : Grouped t groups) :
    Grouped (t.mapValues f) groups := by
  constructor
  · intro g r hg
    have hnames : ∀ n l, names g (f n l) = names g l := fun n l => by
      unfold names
      rw [hgroups]
    have hdarkens : ∀ n l, darkens g (f n l) = darkens g l := fun n l => by
      unfold darkens
      rw [hgroups, hdark]
    rw [rebuiltGroup_eq, chosen_mapValues _ t f hnames, chosen_mapValues _ t f hdarkens, ← rebuiltGroup_eq]
    exact h.counted g r hg
  · intro n l hn
    rw [Table.get_mapValues] at hn
    obtain ⟨l0, hl0, rfl⟩ := Option.map_eq_some_iff.mp hn
    rw [hgroups]
    exact h.named n l0 hl0

/-- The groups that no record names are those without members. -/
theorem not_named_of_members {t : Table Luminaire} {groups : Table Group} (hr : t.Rising) (h : Grouped t groups)
    {g : Nat} {r : Group} (hg : groups.get g = some r) (hr0 : r.members = []) :
    ∀ n l, t.get n = some l → g ∉ l.groups := by
  intro n l hn hmem
  have hmembers : chosen (names g) t = [] := by
    rw [← hr0, h.counted g r hg, rebuiltGroup_eq]
  have hchosen : n ∈ chosen (names g) t := by
    rw [mem_chosen hr, hn]
    exact List.contains_iff_mem.mpr hmem
  rw [hmembers] at hchosen
  cases hchosen

theorem chosen_eq_nil {q : Luminaire → Bool} {t : Table Luminaire} (hr : t.Rising)
    (h : ∀ n l, t.get n = some l → q l = false) : chosen q t = [] := by
  refine List.eq_nil_iff_forall_not_mem.mpr fun n hn => ?_
  rw [mem_chosen hr] at hn
  cases hl : t.get n with
  | none => rw [hl] at hn; cases hn
  | some l =>
    rw [hl] at hn
    exact Bool.false_ne_true ((h n l hl).symm.trans hn)

theorem grouped_defines {t : Table Luminaire} {groups : Table Group} (hr : t.Rising) (g cap : Nat) (h : Grouped t groups) :
    Grouped t (groups.put g (groupDefined (groups.get g) cap)) := by
  constructor
  · intro g' r hg
    rw [Table.get_put] at hg
    split at hg
    · rename_i hgg
      cases hg
      rw [hgg]
      cases hr0 : groups.get g with
      | some r0 =>
        have hcounted := h.counted g r0 hr0
        rw [rebuiltGroup_eq] at hcounted ⊢
        change (⟨cap, r0.members, r0.dark⟩ : Group) = _
        rw [hcounted]
        rfl
      | none =>
        have hunnamed : ∀ n l, t.get n = some l → names g l = false := fun n l hn => by
          refine Bool.eq_false_iff.mpr fun hc => ?_
          have hhas := (h.named n l hn).2 g (List.contains_iff_mem.mp hc)
          unfold Table.has at hhas
          rw [hr0] at hhas
          cases hhas
        have hdarkens : ∀ n l, t.get n = some l → darkens g l = false := fun n l hn => by
          change (names g l && l.dark) = false
          rw [hunnamed n l hn]
          rfl
        rw [rebuiltGroup_eq, chosen_eq_nil hr hunnamed, chosen_eq_nil hr hdarkens]
        rfl
    · exact h.counted g' r hg
  · intro n l hn
    obtain ⟨hnodup, hhas⟩ := h.named n l hn
    refine ⟨hnodup, fun g' hg' => ?_⟩
    have hdefined := hhas g' hg'
    unfold Table.has at hdefined ⊢
    rw [Table.get_put]
    split
    · rfl
    · exact hdefined

theorem grouped_drops {t : Table Luminaire} {groups : Table Group} (hr : t.Rising) (hgr : groups.Rising) {g : Nat}
    {r : Group} (hg : groups.get g = some r) (hempty : r.members = []) (h : Grouped t groups) :
    Grouped t (groups.drop g) := by
  have hother : ∀ g', g' ≠ g → (groups.drop g).get g' = groups.get g' := fun g' hg' => Table.get_drop_other groups hg'
  constructor
  · intro g' r' hg'
    by_cases hgg : g' = g
    · rw [hgg, Table.get_drop_self hgr] at hg'
      cases hg'
    · exact h.counted g' r' (hother g' hgg ▸ hg')
  · intro n l hn
    obtain ⟨hnodup, hhas⟩ := h.named n l hn
    refine ⟨hnodup, fun g' hg' => ?_⟩
    have hgg : g' ≠ g := fun e => not_named_of_members hr h hg hempty n l hn (e ▸ hg')
    unfold Table.has
    rw [hother g' hgg]
    exact hhas g' hg'

/-! ### Start-up -/

/-- The records name defined groups alone, each once. -/
def WellNamed (s : State) : Prop :=
  ∀ n l, s.luminaires.get n = some l → l.groups.Nodup ∧ ∀ g ∈ l.groups, s.groups.has g = true

theorem imageOk_names {m : Image} (h : imageOk m = true) {n : Nat} {i : StoredLuminaire} (hi : m.luminaires.get n = some i) :
    i.groups.Nodup ∧ ∀ g ∈ i.groups, m.groups.has g = true := by
  unfold imageOk namesDefined at h
  simp only [Bool.and_eq_true, List.all_eq_true] at h
  obtain ⟨⟨⟨⟨⟨⟨⟨⟨⟨⟨⟨⟨⟨-, hrange⟩, -⟩, -⟩, -⟩, -⟩, -⟩, -⟩, -⟩, -⟩, -⟩, -⟩, hnames⟩, -⟩ := h
  have hmem := Table.mem_of_get hi
  refine ⟨?_, hnames _ hmem⟩
  have hstored := (hrange _ hmem).2
  unfold StoredLuminaire.inRange at hstored
  simp only [Bool.and_eq_true] at hstored
  obtain ⟨⟨⟨⟨⟨⟨-, hgroups⟩, -⟩, -⟩, -⟩, -⟩, -⟩ := hstored
  exact groupsInRange_nodup hgroups

theorem wellNamed_loadImage (s : State) : WellNamed (loadImage s) := by
  unfold loadImage
  split
  · rename_i hok
    intro n l hn
    change (Table.mapValues (fun _ i => restored i) s.image.luminaires).get n = some l at hn
    rw [Table.get_mapValues] at hn
    obtain ⟨i, hi, rfl⟩ := Option.map_eq_some_iff.mp hn
    obtain ⟨hnodup, hhas⟩ := imageOk_names hok hi
    refine ⟨hnodup, fun g hg => ?_⟩
    change (Table.mapValues (fun _ cap => (⟨cap, [], 0⟩ : Group)) s.image.groups).has g = true
    rw [has_mapValues]
    exact hhas g hg
  · have hblank : (writeBlank (takeImage {} s)).luminaires = [] := by
      unfold writeBlank
      simp only
      split
      · rfl
      · rw [raise_luminaires]
        rfl
    intro n l hn
    rw [hblank] at hn
    cases hn

/-- The record of a luminaire that the start-up recall has taken (R210). -/
def Luminaire.recalledAtStart (l : Luminaire) : Luminaire :=
  if l.openMarker then { l.enter .recharging with openMarker := false, recharge := some .pending } else l

theorem recallMarked_groups (m : Image) (n : Nat) (s : State) : (recallMarked m s n).groups = s.groups := by
  unfold recallMarked
  split
  · rfl
  · split
    · simp only
      rw [(offer_only _ _ _).recordsKept.groups, (writeItem_only _ _).recordsKept.groups]
      split
      · exact (addResult_recordsKept _ s).groups
      · rfl
    · rfl

theorem get_recallMarked (m : Image) (n k : Nat) (s : State) : (recallMarked m s n).luminaires.get k =
    if k = n then (s.luminaires.get n).map Luminaire.recalledAtStart else s.luminaires.get k := by
  unfold recallMarked Luminaire.recalledAtStart
  split
  · rename_i hl
    exact get_same fun l h => by rw [hl] at h; cases h
  · rename_i l hl
    split
    · rename_i hmarked
      simp only
      rw [(offer_only _ _ _).recordsKept.luminaires, (writeItem_only _ _).recordsKept.luminaires, Table.get_put, hl,
        Option.map_some, if_pos hmarked]
      split
      · rfl
      · split
        · rw [addResult_luminaires]
        · rfl
    · rename_i hmarked
      refine get_same fun l' h => ?_
      rw [hl] at h
      cases h
      exact if_neg hmarked

theorem recalledAtStart_groups (l : Luminaire) : l.recalledAtStart.groups = l.groups := by
  unfold Luminaire.recalledAtStart
  split
  · exact enter_groups l _
  · rfl

theorem wellNamed_recallMarked (m : Image) (n : Nat) {s : State} (h : WellNamed s) : WellNamed (recallMarked m s n) := by
  intro k l hk
  rw [recallMarked_groups]
  rw [get_recallMarked] at hk
  split at hk
  · obtain ⟨l0, hl0, rfl⟩ := Option.map_eq_some_iff.mp hk
    rw [recalledAtStart_groups]
    exact h n l0 hl0
  · exact h k l hk

theorem grouped_booted (keepTime : Bool) (s : State) :
    Grouped (booted keepTime s).luminaires (booted keepTime s).groups := by
  have hmarkers : WellNamed (recallMarkers (loadImage (fresh keepTime s))) :=
    foldl_keeps (fun t n ht => wellNamed_recallMarked _ n ht) _ (wellNamed_loadImage _)
  unfold booted
  generalize recallMarkers (loadImage (fresh keepTime s)) = u at hmarkers
  constructor
  · intro g r hg
    change (u.groups.mapValues (rebuiltGroup u.luminaires)).get g = some r at hg
    rw [Table.get_mapValues] at hg
    obtain ⟨r0, -, rfl⟩ := Option.map_eq_some_iff.mp hg
    rfl
  · intro n l hn
    change l.groups.Nodup ∧ ∀ g ∈ l.groups, (u.groups.mapValues (rebuiltGroup u.luminaires)).has g = true
    simp only [has_mapValues]
    exact hmarkers n l hn

/-! ### Every move -/

theorem Grouped.kept {s t : State} (h : Grouped s.luminaires s.groups) (hk : RecordsKept s t) :
    Grouped t.luminaires t.groups := by
  rw [hk.luminaires, hk.groups]
  exact h

theorem grouped_modLum {s : State} (n : Nat) (f : Luminaire → Luminaire) (hr : s.luminaires.Rising)
    (hf : ∀ l, (f l).groups = l.groups) (h : Grouped s.luminaires s.groups) :
    Grouped (modLum n f s).luminaires (modLum n f s).groups := by
  unfold modLum
  split
  · rename_i l hl
    exact grouped_same hr hl (hf l) h
  · exact h

theorem moves_grouped {s t : State} (hm : Moves s t) (hc : Canonical s) :
    Grouped s.luminaires s.groups → Grouped t.luminaires t.groups := by
  induction hm with
  | refl s => exact id
  | trans h1 _ ih1 ih2 => exact fun h => ih2 (moves_canonical h1 hc) (ih1 hc h)
  | aside ha => exact fun h => h.kept ha.recordsKept
  | begins s => exact id
  | raises b s => exact fun h => h.kept (raise_only b s).writes.recordsKept
  | writes i s => exact fun h => h.kept (writeItem_only i s).recordsKept
  | noticesTaken k s => exact id
  | resultsDropped k s => exact id
  | calendar w x s _ _ => exact id
  | control hcontrol _ => exact fun h => h.kept hcontrol.recordsKept
  | second s => exact fun h => h.mapValues (fun _ => Luminaire.counted) (fun _ _ => rfl) (fun _ _ => rfl)
  | record n l l' s hl ha =>
    intro h
    refine grouped_putLum n _ hc.luminairesRising (fun l'' hl'' => ?_) h
    cases hl''
    rcases ha.groups with hsame | hnew
    · rw [hsame]
      exact h.named n l hl
    · exact hnew
  | enrols n l s _ _ _ hnodup hgroups =>
    exact grouped_putLum n _ hc.luminairesRising fun l' hl' => by cases hl'; exact ⟨hnodup, hgroups⟩
  | withdraws n l s _ _ => exact grouped_putLum n _ hc.luminairesRising fun l' hl' => nomatch hl'
  | defines g cap s => exact grouped_defines hc.luminairesRising g cap
  | drops g r s hg hr => exact grouped_drops hc.luminairesRising hc.groupsRising hg hr
  | channel c f s _ => exact id
  | joins c k sl s _ _ => exact id
  | branch b f s _ => exact id
  | queues b e s _ => exact fun h => h.kept (enqueue_only b e s).recordsKept
  | leaves b f s t _ _ _ ih => exact ih hc
  | slot k sl sl' s hk _ _ => exact id
  | reserves n k l sl e s hl _ _ _ _ _ _ _ =>
    intro h
    have hqueued : RecordsKept s (enqueue l.branch e { s with slots := s.slots.put k sl }) :=
      RecordsKept.trans (t := { s with slots := s.slots.put k sl }) ⟨rfl, rfl, rfl⟩ (enqueue_only _ _ _).recordsKept
    refine grouped_same (l := l) ?_ ?_ (enter_groups l .starting) (h.kept hqueued)
    · rw [hqueued.luminaires]
      exact hc.luminairesRising
    · rw [hqueued.luminaires]
      exact hl
  | starts k sl sl' l l' s _ _ _ _ hl _ _ hgroups _ =>
    exact fun h => grouped_same (s := { s with slots := s.slots.put k sl' }) hc.luminairesRising hl hgroups h
  | closes k sl sl' s _ _ _ =>
    intro h
    rw [close_eq]
    refine Grouped.kept ?_ (queueStop_recordsKept _ _ _)
    exact grouped_modLum (s := unqueue _ _ { s with slots := s.slots.put k sl'.closed }) _ _ hc.luminairesRising
      (fun l => enter_groups l _) h
  | releasesWithout k sl f b s u _ hf _ _ _ ih =>
    intro h
    refine (ih (canonical_modLum _ f (canonical_freeSlot k sl hc)) ?_).kept (forget_only _ _ _ _).recordsKept
    exact grouped_modLum (s := freeSlot k sl s) _ _ hc.luminairesRising (fun l => (hf l).groups) h
  | releasesWith k sl sl' l l' r b s u _ _ hl hf _ _ _ ih =>
    intro h
    have hresult := addResult_recordsKept r s
    have hput := canonical_putLum sl.luminaire (some l') (canonical_addResult r hc)
    refine (ih (canonical_freeSlot k sl' hput) ?_).kept (forget_only _ _ _ _).recordsKept
    refine Grouped.kept ?_ (freeSlot_recordsKept k sl' _)
    exact grouped_same (canonical_addResult r hc).luminairesRising (hresult.luminaires.symm ▸ hl) hf.groups (h.kept hresult)
  | orphan k sl sl' s _ _ _ => exact id
  | boots keepTime s t _ _ _ ih => exact fun _ => ih (canonical_booted keepTime hc) (grouped_booted keepTime s)
  | stops ph cut s _ =>
    intro _
    exact ⟨fun _ _ h => (nomatch h), fun _ _ h => (nomatch h)⟩

/-- Settles O57: every change of a record regroups it as the definition of the rebuilt group says, and start-up rebuilds the
groups from an image whose luminaires name defined groups alone. -/
theorem everyStepKeepsGroupCounts : Obligations.EveryStepKeepsGroupCounts := by
  unfold Obligations.EveryStepKeepsGroupCounts
  intro s t hc hsound h
  have hmoves := step_moves h
  have ht := moves_canonical hmoves hc
  rw [groupsSound_iff hc.luminairesRising hc.groupsRising] at hsound
  rw [groupsSound_iff ht.luminairesRising ht.groupsRising]
  exact moves_grouped hmoves hc hsound

end Sys2Proof.Machine
end

section
/-! PROOFS. Every step keeps slots and luminaires together (O58). -/

namespace Sys2Proof.Machine

/-! ### Slots and records in step -/

/-- What R86 says of the records and the slots, position by position. -/
structure Paired (t : Table Luminaire) (slots : Table Slot) : Prop where
  holds : ∀ k sl, slots.get k = some sl →
    ∃ l, t.get sl.luminaire = some l ∧ l.state = sl.status.pairs ∧ l.branch = sl.branch
  once : ∀ k k' sl sl', slots.get k = some sl → slots.get k' = some sl' → sl.luminaire = sl'.luminaire → k = k'
  marker : ∀ n l, t.get n = some l → l.openMarker = l.state.holdsSlot
  slot : ∀ n l, t.get n = some l → l.state.holdsSlot = true → ∃ k sl, slots.get k = some sl ∧ sl.luminaire = n

theorem slotsSound_iff {s : State} (hl : s.luminaires.Rising) (hs : s.slots.Rising) :
    SlotsSound s ↔ Paired s.luminaires s.slots := by
  constructor
  · rintro ⟨hholds, honce, hmarker, hslot⟩
    refine ⟨fun k sl hk => ?_, fun k k' sl sl' hk hk' he => ?_, fun n l hn => hmarker (n, l) (Table.mem_of_get hn),
      fun n l hn hstate => ?_⟩
    · obtain ⟨l, hl, hboth⟩ := (Option.any_eq_true _ _).mp (hholds (k, sl) (Table.mem_of_get hk))
      obtain ⟨hstate, hbranch⟩ := (Bool.and_eq_true _ _).mp hboth
      exact ⟨l, hl, beq_iff_eq.mp hstate, beq_iff_eq.mp hbranch⟩
    · exact congrArg Prod.fst (List.inj_on_of_nodup_map honce (Table.mem_of_get hk) (Table.mem_of_get hk') he)
    · obtain ⟨⟨k, sl⟩, hfound⟩ := Option.isSome_iff_exists.mp (hslot (n, l) (Table.mem_of_get hn) hstate)
      have hsl : (sl.luminaire == n) = true := List.find?_some (p := fun p : Nat × Slot => p.2.luminaire == n) hfound
      exact ⟨k, sl, Table.get_of_mem hs (List.mem_of_find?_eq_some hfound), beq_iff_eq.mp hsl⟩
  · rintro ⟨hholds, honce, hmarker, hslot⟩
    refine ⟨fun p hp => ?_, ?_, fun p hp => hmarker p.1 p.2 (Table.get_of_mem hl hp), fun p hp hstate => ?_⟩
    · obtain ⟨l, hget, hstate, hbranch⟩ := hholds p.1 p.2 (Table.get_of_mem hs hp)
      rw [hget]
      exact (Bool.and_eq_true _ _).mpr ⟨beq_iff_eq.mpr hstate, beq_iff_eq.mpr hbranch⟩
    · have hnodup : s.slots.Nodup := List.Nodup.of_map _ (List.Pairwise.imp Nat.ne_of_lt hs : s.slots.keys.Nodup)
      refine List.Nodup.map_on (fun p hp q hq he => ?_) hnodup
      have hkeys := honce p.1 q.1 p.2 q.2 (Table.get_of_mem hs hp) (Table.get_of_mem hs hq) he
      have hvalues := (Table.get_of_mem hs hp).symm.trans (hkeys ▸ Table.get_of_mem hs hq)
      exact Prod.ext hkeys (Option.some.inj hvalues)
    · obtain ⟨k, sl, hk, hn⟩ := hslot p.1 p.2 (Table.get_of_mem hl hp) hstate
      exact List.find?_isSome.mpr ⟨(k, sl), Table.mem_of_get hk, beq_iff_eq.mpr hn⟩

theorem pairs_holdsSlot (st : SlotStatus) : st.pairs.holdsSlot = true := by cases st <;> rfl

namespace Paired

variable {t u : Table Luminaire} {slots slots' : Table Slot} {n k : Nat} {l l' : Luminaire} {sl sl' : Slot}

/-- A luminaire whose state holds no slot is in none. -/
theorem notHeld (h : Paired t slots) (hn : ∀ l, t.get n = some l → l.state.holdsSlot = false)
    (hk : slots.get k = some sl) : sl.luminaire ≠ n := by
  rintro rfl
  obtain ⟨l, hl, hstate, -⟩ := h.holds k sl hk
  have hheld := pairs_holdsSlot sl.status
  rw [← hstate, hn l hl] at hheld
  cases hheld

/-- A record that keeps what R86 speaks of may change, at a position that stays used. -/
theorem record (h : Paired t slots) (hl : t.get n = some l)
    (hother : ∀ m, m ≠ n → u.get m = t.get m) (hn : u.get n = some l')
    (hstate : l'.state = l.state ∨ (l.state.holdsSlot = false ∧ l'.state.holdsSlot = false))
    (hmarker : l'.openMarker = l.openMarker) (hbranch : l'.branch = l.branch ∨ l.state.holdsSlot = false) :
    Paired u slots := by
  have hholdsSlot : l'.state.holdsSlot = l.state.holdsSlot := by
    rcases hstate with he | ⟨h1, h2⟩
    · rw [he]
    · rw [h1, h2]
  refine ⟨fun k sl hk => ?_, h.once, fun m x hm => ?_, fun m x hm hx => ?_⟩
  · obtain ⟨x, hx, hxstate, hxbranch⟩ := h.holds k sl hk
    by_cases hm : sl.luminaire = n
    · rw [hm, hl] at hx
      cases hx
      have hheld : l.state.holdsSlot = true := hxstate ▸ pairs_holdsSlot sl.status
      refine ⟨l', hm ▸ hn, ?_, ?_⟩
      · exact (hstate.resolve_right fun hfree => Bool.false_ne_true (hfree.1.symm.trans hheld)).trans hxstate
      · exact (hbranch.resolve_right fun hfree => Bool.false_ne_true (hfree.symm.trans hheld)).trans hxbranch
    · exact ⟨x, (hother _ hm).trans hx, hxstate, hxbranch⟩
  · by_cases hmn : m = n
    · rw [hmn, hn] at hm
      cases hm
      rw [hmarker, hholdsSlot]
      exact h.marker n l hl
    · exact h.marker m x (hother m hmn ▸ hm)
  · by_cases hmn : m = n
    · rw [hmn, hn] at hm
      cases hm
      exact hmn ▸ h.slot n l hl (hholdsSlot.symm.trans hx)
    · exact h.slot m x (hother m hmn ▸ hm) hx

/-- A record that holds no slot may take another's place or leave, where the one before held none. -/
theorem free (h : Paired t slots) (hold : ∀ l, t.get n = some l → l.state.holdsSlot = false)
    (hother : ∀ m, m ≠ n → u.get m = t.get m)
    (hnew : ∀ l, u.get n = some l → l.state.holdsSlot = false ∧ l.openMarker = false) : Paired u slots := by
  refine ⟨fun k sl hk => ?_, h.once, fun m x hm => ?_, fun m x hm hx => ?_⟩
  · obtain ⟨x, hx, hboth⟩ := h.holds k sl hk
    exact ⟨x, (hother _ (h.notHeld hold hk)).trans hx, hboth⟩
  · by_cases hmn : m = n
    · obtain ⟨hstate, hmarker⟩ := hnew x (hmn ▸ hm)
      rw [hstate, hmarker]
    · exact h.marker m x (hother m hmn ▸ hm)
  · by_cases hmn : m = n
    · rw [(hnew x (hmn ▸ hm)).1] at hx
      cases hx
    · exact h.slot m x (hother m hmn ▸ hm) hx

/-- A slot and its luminaire may change together, to a status and the state that goes with it. -/
theorem change (h : Paired t slots) (hk : slots.get k = some sl) (hl : t.get sl.luminaire = some l)
    (hslots : ∀ j, slots'.get j = if j = k then some sl' else slots.get j)
    (hrecords : ∀ m, u.get m = if m = sl.luminaire then some l' else t.get m)
    (hluminaire : sl'.luminaire = sl.luminaire) (hbranch : l'.branch = l.branch ∧ sl'.branch = sl.branch)
    (hstate : l'.state = sl'.status.pairs) (hmarker : l'.openMarker = l.openMarker) : Paired u slots' := by
  obtain ⟨l0, hl0, hstate0, hbranch0⟩ := h.holds k sl hk
  obtain rfl : l0 = l := Option.some.inj (hl0.symm.trans hl)
  have hback : ∀ j x, slots'.get j = some x → ∃ y, slots.get j = some y ∧ x.luminaire = y.luminaire := by
    intro j x hj
    rw [hslots] at hj
    split at hj
    · rename_i hjk
      cases hj
      exact ⟨sl, hjk ▸ hk, hluminaire⟩
    · exact ⟨x, hj, rfl⟩
  refine ⟨fun j x hj => ?_, fun j j' x x' hj hj' he => ?_, fun m x hm => ?_, fun m x hm hx => ?_⟩
  · rw [hslots] at hj
    split at hj
    · cases hj
      exact ⟨l', by rw [hrecords, if_pos hluminaire], hstate, hbranch.1.trans (hbranch0.trans hbranch.2.symm)⟩
    · rename_i hjk
      obtain ⟨y, hy, hboth⟩ := h.holds j x hj
      exact ⟨y, by rw [hrecords, if_neg fun he => hjk (h.once j k x sl hj hk he), hy], hboth⟩
  · obtain ⟨y, hy, hxy⟩ := hback j x hj
    obtain ⟨y', hy', hxy'⟩ := hback j' x' hj'
    exact h.once j j' y y' hy hy' (hxy.symm.trans (he.trans hxy'))
  · rw [hrecords] at hm
    split at hm
    · cases hm
      rw [hmarker, hstate, pairs_holdsSlot, h.marker _ _ hl0, hstate0, pairs_holdsSlot]
    · exact h.marker m x hm
  · rw [hrecords] at hm
    have hsome : ∃ j y, slots.get j = some y ∧ y.luminaire = m := by
      split at hm
      · rename_i hmn
        exact ⟨k, sl, hk, hmn.symm⟩
      · exact h.slot m x hm hx
    obtain ⟨j, y, hj, hy⟩ := hsome
    by_cases hjk : j = k
    · rw [hjk, hk] at hj
      cases hj
      exact ⟨k, sl', by rw [hslots, if_pos rfl], hluminaire.trans hy⟩
    · exact ⟨j, y, by rw [hslots, if_neg hjk, hj], hy⟩

/-- A slot may be taken for a luminaire that held none. -/
theorem reserve (h : Paired t slots) (hk : slots.get k = none) (hl : t.get n = some l)
    (hfree : l.state.holdsSlot = false) (hslots : ∀ j, slots'.get j = if j = k then some sl else slots.get j)
    (hrecords : ∀ m, u.get m = if m = n then some l' else t.get m) (hluminaire : sl.luminaire = n)
    (hbranch : l'.branch = sl.branch) (hstate : l'.state = sl.status.pairs) (hmarker : l'.openMarker = true) :
    Paired u slots' := by
  have hother : ∀ j x, slots.get j = some x → x.luminaire ≠ n := fun j x hj =>
    h.notHeld (fun y hy => Option.some.inj (hl.symm.trans hy) ▸ hfree) hj
  refine ⟨fun j x hj => ?_, fun j j' x x' hj hj' he => ?_, fun m x hm => ?_, fun m x hm hx => ?_⟩
  · rw [hslots] at hj
    split at hj
    · cases hj
      exact ⟨l', by rw [hrecords, if_pos hluminaire], hstate, hbranch⟩
    · obtain ⟨y, hy, hboth⟩ := h.holds j x hj
      exact ⟨y, by rw [hrecords, if_neg (hother j x hj), hy], hboth⟩
  · rw [hslots] at hj hj'
    split at hj <;> split at hj'
    · rename_i h1 h2
      exact h1.trans h2.symm
    · cases hj
      exact absurd (he.symm.trans hluminaire) (hother j' x' hj')
    · cases hj'
      exact absurd (he.trans hluminaire) (hother j x hj)
    · exact h.once j j' x x' hj hj' he
  · rw [hrecords] at hm
    split at hm
    · cases hm
      rw [hmarker, hstate, pairs_holdsSlot]
    · exact h.marker m x hm
  · rw [hrecords] at hm
    split at hm
    · rename_i hmn
      exact ⟨k, sl, by rw [hslots, if_pos rfl], hluminaire.trans hmn.symm⟩
    · obtain ⟨j, y, hj, hy⟩ := h.slot m x hm hx
      refine ⟨j, y, ?_, hy⟩
      rw [hslots, if_neg, hj]
      rintro rfl
      rw [hk] at hj
      cases hj

/-- A slot may be given up together with its luminaire's hold on it. -/
theorem release (h : Paired t slots) (hk : slots.get k = some sl)
    (hslots : ∀ j, slots'.get j = if j = k then none else slots.get j)
    (hother : ∀ m, m ≠ sl.luminaire → u.get m = t.get m)
    (hnew : ∀ l, u.get sl.luminaire = some l → l.state.holdsSlot = false ∧ l.openMarker = false) : Paired u slots' := by
  have hkept : ∀ j x, slots'.get j = some x → j ≠ k ∧ slots.get j = some x := by
    intro j x hj
    rw [hslots] at hj
    split at hj
    · cases hj
    · rename_i hjk
      exact ⟨hjk, hj⟩
  refine ⟨fun j x hj => ?_, fun j j' x x' hj hj' he => ?_, fun m x hm => ?_, fun m x hm hx => ?_⟩
  · obtain ⟨hjk, hj⟩ := hkept j x hj
    obtain ⟨y, hy, hboth⟩ := h.holds j x hj
    exact ⟨y, (hother _ fun he => hjk (h.once j k x sl hj hk he)).trans hy, hboth⟩
  · exact h.once j j' x x' (hkept j x hj).2 (hkept j' x' hj').2 he
  · by_cases hmn : m = sl.luminaire
    · obtain ⟨hstate, hmarker⟩ := hnew x (hmn ▸ hm)
      rw [hstate, hmarker]
    · exact h.marker m x (hother m hmn ▸ hm)
  · by_cases hmn : m = sl.luminaire
    · rw [(hnew x (hmn ▸ hm)).1] at hx
      cases hx
    · obtain ⟨j, y, hj, hy⟩ := h.slot m x (hother m hmn ▸ hm) hx
      refine ⟨j, y, ?_, hy⟩
      rw [hslots, if_neg, hj]
      rintro rfl
      rw [hk] at hj
      cases hj
      exact hmn hy.symm

/-- Values that keep what R86 speaks of may change everywhere. -/
theorem mapValues (h : Paired t slots) : Paired (t.mapValues fun _ => Luminaire.counted)
    (slots.mapValues fun _ => Slot.counted) := by
  refine ⟨fun k sl hk => ?_, fun k k' sl sl' hk hk' he => ?_, fun n l hn => ?_, fun n l hn hl => ?_⟩
  · rw [Table.get_mapValues] at hk
    obtain ⟨x, hx, rfl⟩ := Option.map_eq_some_iff.mp hk
    obtain ⟨l, hl, hboth⟩ := h.holds k x hx
    refine ⟨l.counted, ?_, hboth⟩
    change (t.mapValues fun _ => Luminaire.counted).get x.luminaire = _
    rw [Table.get_mapValues, hl]
    rfl
  · rw [Table.get_mapValues] at hk hk'
    obtain ⟨x, hx, rfl⟩ := Option.map_eq_some_iff.mp hk
    obtain ⟨x', hx', rfl⟩ := Option.map_eq_some_iff.mp hk'
    exact h.once k k' x x' hx hx' he
  · rw [Table.get_mapValues] at hn
    obtain ⟨x, hx, rfl⟩ := Option.map_eq_some_iff.mp hn
    exact h.marker n x hx
  · rw [Table.get_mapValues] at hn
    obtain ⟨x, hx, rfl⟩ := Option.map_eq_some_iff.mp hn
    obtain ⟨k, sl, hk, hsl⟩ := h.slot n x hx hl
    refine ⟨k, sl.counted, ?_, hsl⟩
    rw [Table.get_mapValues, hk]
    rfl

end Paired

/-! ### Start-up -/

/-- A fold over positions that changes each one's record by `g` changes the records of those positions. -/
theorem get_foldl_each {f : State → Nat → State} {g : Luminaire → Luminaire}
    (hf : ∀ s n k, (f s n).luminaires.get k = if k = n then (s.luminaires.get n).map g else s.luminaires.get k)
    {ks : List Nat} (hks : ks.Nodup) (s : State) (k : Nat) :
    (ks.foldl f s).luminaires.get k = if k ∈ ks then (s.luminaires.get k).map g else s.luminaires.get k := by
  induction ks generalizing s with
  | nil => rw [if_neg List.not_mem_nil, List.foldl_nil]
  | cons n ks ih =>
    obtain ⟨hn, hks⟩ := List.nodup_cons.mp hks
    rw [List.foldl_cons, ih hks, hf]
    by_cases hk : k = n
    · rw [if_pos hk, if_neg (hk ▸ hn), if_pos (hk ▸ List.mem_cons_self), hk]
    · rw [if_neg hk]
      simp only [List.mem_cons, hk, false_or]

theorem loadImage_free {s : State} {n : Nat} {l : Luminaire} (hl : (loadImage s).luminaires.get n = some l) :
    l.state.holdsSlot = false := by
  unfold loadImage at hl
  split at hl
  · change (Table.mapValues (fun _ i => restored i) s.image.luminaires).get n = some l at hl
    rw [Table.get_mapValues] at hl
    obtain ⟨i, -, rfl⟩ := Option.map_eq_some_iff.mp hl
    change i.service.state.holdsSlot = false
    cases i.service <;> rfl
  · unfold writeBlank at hl
    simp only at hl
    split at hl
    · cases hl
    · rw [raise_luminaires] at hl
      cases hl

theorem recalledAtStart_free {l : Luminaire} (h : l.state.holdsSlot = false) :
    l.recalledAtStart.state.holdsSlot = false ∧ l.recalledAtStart.openMarker = false := by
  unfold Luminaire.recalledAtStart
  split
  · refine ⟨?_, rfl⟩
    change (l.enter .recharging).state.holdsSlot = false
    rw [enter_state]
    rfl
  · rename_i hmarker
    exact ⟨h, Bool.eq_false_of_not_eq_true hmarker⟩

theorem booted_free {keepTime : Bool} {s : State} {n : Nat} {l : Luminaire} (hc : Canonical s)
    (hl : (booted keepTime s).luminaires.get n = some l) : l.state.holdsSlot = false ∧ l.openMarker = false := by
  have hload := canonical_loadImage (canonical_fresh keepTime hc)
  change (recallMarkers (loadImage (fresh keepTime s))).luminaires.get n = some l at hl
  unfold recallMarkers at hl
  rw [get_foldl_each (fun t m k => get_recallMarked _ m k t) (List.Pairwise.imp Nat.ne_of_lt hload.luminairesRising)] at hl
  split at hl
  · obtain ⟨l0, hl0, rfl⟩ := Option.map_eq_some_iff.mp hl
    exact recalledAtStart_free (loadImage_free hl0)
  · rename_i hn
    exact absurd (Table.mem_keys_of_get hl) hn

theorem paired_noSlot {t : Table Luminaire} (h : ∀ n l, t.get n = some l → l.state.holdsSlot = false ∧ l.openMarker = false) :
    Paired t [] := by
  refine ⟨fun k sl hk => (nomatch hk), fun k k' sl sl' hk => (nomatch hk), fun n l hl => ?_, fun n l hl hheld => ?_⟩
  · obtain ⟨hstate, hmarker⟩ := h n l hl
    rw [hstate, hmarker]
  · rw [(h n l hl).1] at hheld
    cases hheld

/-! ### Every move -/

/-- The records and the slots are as they were. -/
structure PairsKept (s t : State) : Prop where
  luminaires : t.luminaires = s.luminaires
  slots : t.slots = s.slots

theorem Paired.kept {s t : State} (h : Paired s.luminaires s.slots) (hk : PairsKept s t) : Paired t.luminaires t.slots := by
  rw [hk.luminaires, hk.slots]
  exact h

theorem RecordsKept.pairs {s t : State} (h1 : RecordsKept s t) (h2 : TestsKept s t) : PairsKept s t :=
  ⟨h1.luminaires, h2.slots⟩

theorem OnlyWrites.pairsKept {s t : State} (h : OnlyWrites s t) : PairsKept s t := h.recordsKept.pairs h.testsKept

theorem OnlyBranches.pairsKept {s t : State} (h : OnlyBranches s t) : PairsKept s t := h.recordsKept.pairs h.testsKept

theorem OnlyCampaign.pairsKept {s t : State} (h : OnlyCampaign s t) : PairsKept s t := h.recordsKept.pairs h.testsKept

theorem get_drop {α : Type} {t : Table α} (hr : t.Rising) (k j : Nat) :
    (t.drop k).get j = if j = k then none else t.get j := by
  split
  · rename_i hjk
    rw [hjk, Table.get_drop_self hr]
  · rename_i hjk
    exact Table.get_drop_other t hjk

theorem moves_paired {s t : State} (hm : Moves s t) (hc : Canonical s) :
    Paired s.luminaires s.slots → Paired t.luminaires t.slots := by
  induction hm with
  | refl s => exact id
  | trans h1 _ ih1 ih2 => exact fun h => ih2 (moves_canonical h1 hc) (ih1 hc h)
  | aside ha => exact fun h => h.kept (ha.recordsKept.pairs ha.testsKept)
  | begins s => exact id
  | raises b s => exact fun h => h.kept (raise_only b s).writes.pairsKept
  | writes i s => exact fun h => h.kept (writeItem_only i s).pairsKept
  | noticesTaken k s => exact id
  | resultsDropped k s => exact id
  | calendar w x s _ _ => exact id
  | control hcontrol _ => exact fun h => h.kept (hcontrol.recordsKept.pairs hcontrol.testsKept)
  | second s => exact Paired.mapValues
  | record n l l' s hl ha =>
    intro h
    rw [(putLum_testsKept n _ s).slots, putLum_luminaires]
    exact h.record hl (fun m hm => Table.get_set_other _ _ hm) (Table.get_put_self _ _ _) ha.state ha.marker ha.branch
  | enrols n l s hn hstate hmarker _ _ =>
    intro h
    rw [(putLum_testsKept n _ s).slots, putLum_luminaires]
    refine h.free (fun x hx => ?_) (fun m hm => Table.get_set_other _ _ hm) fun x hx => ?_
    · rw [hn] at hx
      cases hx
    · rw [Table.get_set_self hc.luminairesRising] at hx
      cases hx
      exact ⟨hstate, hmarker⟩
  | withdraws n l s hl hstate =>
    intro h
    rw [(putLum_testsKept n _ s).slots, putLum_luminaires]
    refine h.free (fun x hx => ?_) (fun m hm => Table.get_set_other _ _ hm) fun x hx => ?_
    · rw [hl] at hx
      cases hx
      exact hstate
    · rw [Table.get_set_self hc.luminairesRising] at hx
      cases hx
  | defines g cap s => exact id
  | drops g r s _ _ => exact id
  | channel c f s _ => exact id
  | joins c k sl s _ _ => exact id
  | branch b f s _ => exact id
  | queues b e s _ => exact fun h => h.kept (enqueue_only b e s).pairsKept
  | leaves b f s t _ _ _ ih => exact ih hc
  | slot k sl sl' s hk hsame hstatus =>
    intro h
    obtain ⟨l, hl, hstate, -⟩ := h.holds k sl hk
    refine h.change hk hl (fun j => Table.get_put _ _ _ _) (fun m => ?_) hsame.luminaire ⟨rfl, hsame.branch⟩
      (hstatus ▸ hstate) rfl
    split
    · rename_i hm
      rw [hm, hl]
    · rfl
  | reserves n k l sl e s hl hk _ hwaits hsl _ _ _ =>
    intro h
    obtain ⟨hstatus, hluminaire, hbranch⟩ := hsl
    have hqueued := enqueue_only l.branch e { s with slots := s.slots.put k sl }
    unfold reservedCore
    rw [(putLum_testsKept _ _ _).slots, putLum_luminaires, hqueued.testsKept.slots, hqueued.recordsKept.luminaires]
    refine h.reserve hk hl (holdsSlot_of_waits hwaits) (fun j => Table.get_put _ _ _ _) (fun m => Table.get_put _ _ _ _)
      hluminaire ?_ ?_ rfl
    · rw [hbranch]
      exact enter_branch l _
    · rw [hstatus]
      exact enter_state l _
  | starts k sl sl' l l' s hk hsame _ hnew hl hstate hbranch _ hmarker =>
    intro h
    rw [(putLum_testsKept _ _ _).slots, putLum_luminaires]
    refine h.change hk hl (fun j => Table.get_put _ _ _ _) (fun m => Table.get_put _ _ _ _) hsame.luminaire
      ⟨hbranch, hsame.branch⟩ ?_ hmarker
    rw [hstate, hnew]
    rfl
  | closes k sl sl' s hk hsame _ =>
    intro h
    obtain ⟨l, hl, -, -⟩ := h.holds k sl hk
    rw [close_slots]
    refine h.change (l' := l.enter .stopping) hk hl (fun j => Table.get_put _ _ _ _) (fun m => ?_) hsame.luminaire
      ⟨enter_branch l _, hsame.branch⟩ (enter_state l _) (enter_openMarker l _)
    rw [get_close, hsame.luminaire, hl]
    rfl
  | releasesWithout k sl f b s u hk hf _ _ _ ih =>
    intro h
    refine (ih (canonical_modLum _ f (canonical_freeSlot k sl hc)) ?_).kept (forget_only _ _ _ _).pairsKept
    rw [(modLum_tables _ _ _).testsKept.slots]
    refine h.release hk (get_drop hc.slotsRising k) (fun m hm => ?_) fun l hl => ?_
    · rw [get_modLum, if_neg hm]
      rfl
    · rw [get_modLum, if_pos rfl] at hl
      obtain ⟨l0, -, rfl⟩ := Option.map_eq_some_iff.mp hl
      exact ⟨(hf l0).state, (hf l0).marker⟩
  | releasesWith k sl sl' l l' r b s u hk _ _ hf _ _ _ ih =>
    intro h
    have hput := canonical_putLum sl.luminaire (some l') (canonical_addResult r hc)
    refine (ih (canonical_freeSlot k sl' hput) ?_).kept (forget_only _ _ _ _).pairsKept
    change Paired (putLum _ _ _).luminaires ((putLum _ _ _).slots.drop k)
    rw [(putLum_testsKept _ _ _).slots, addResult_slots, putLum_luminaires, addResult_luminaires]
    refine h.release hk (get_drop hc.slotsRising k) (fun m hm => Table.get_set_other _ _ hm) fun x hx => ?_
    rw [Table.get_set_self hc.luminairesRising] at hx
    cases hx
    exact ⟨hf.state, hf.marker⟩
  | orphan k sl sl' s hk _ hl =>
    intro h
    obtain ⟨l, hl', -⟩ := h.holds k sl hk
    rw [hl] at hl'
    cases hl'
  | boots keepTime s t _ _ _ ih =>
    intro _
    refine ih (canonical_booted keepTime hc) ?_
    rw [(booted_queueAlone keepTime s).slots]
    exact paired_noSlot fun n l hl => booted_free hc hl
  | stops ph cut s _ => exact fun _ => paired_noSlot fun n l hl => nomatch hl

/-- Settles O58: a slot's status and its luminaire's state change together, in a reservation, a start, a close and a release;
start-up clears every open marker. -/
theorem everyStepKeepsSlotsAndLuminaires : Obligations.EveryStepKeepsSlotsAndLuminaires := by
  unfold Obligations.EveryStepKeepsSlotsAndLuminaires
  intro s t hc hsound h
  have hmoves := step_moves h
  have ht := moves_canonical hmoves hc
  rw [slotsSound_iff hc.luminairesRising hc.slotsRising] at hsound
  rw [slotsSound_iff ht.luminairesRising ht.slotsRising]
  exact moves_paired hmoves hc hsound

end Sys2Proof.Machine
end

section
/-! PROOFS. Every step keeps each campaign's in-flight list on slots of its own (O60). -/

namespace Sys2Proof.Machine

/-! ### Lists on slots of their own -/

/-- What R121 says, position by position. -/
def InFlightOwn (s : State) : Prop :=
  ∀ (c : Fin 4) (p : Nat × Nat), p ∈ s.channels[c].inFlight →
    ∃ sl, s.slots.get p.1 = some sl ∧ sl.origin = .campaign c p.2 s.channels[c].run

theorem campaignsSound_iff (s : State) : CampaignsSound s ↔ InFlightOwn s := by
  refine forall_congr' fun c => forall_congr' fun p => forall_congr' fun _ => ?_
  rw [Option.any_eq_true]
  exact exists_congr fun sl => and_congr_right fun _ => beq_iff_eq

theorem modChan_other (c d : Fin 4) (f : Channel → Channel) (s : State) (h : d ≠ c) :
    (modChan c f s).channels[d] = s.channels[d] :=
  Vector.getElem_set_ne c.isLt d.isLt fun he => h (Fin.ext he.symm)

/-- The channels and the slots are as they were. -/
structure ChannelsKept (s t : State) : Prop where
  channels : t.channels = s.channels
  slots : t.slots = s.slots

theorem InFlightOwn.kept {s t : State} (h : InFlightOwn s) (hk : ChannelsKept s t) : InFlightOwn t := by
  unfold InFlightOwn
  rw [hk.channels, hk.slots]
  exact h

theorem OnlyWrites.channelsKept {s t : State} (h : OnlyWrites s t) : ChannelsKept s t := by
  unfold OnlyWrites at h
  rw [h]
  exact ⟨rfl, rfl⟩

theorem Aside.channelsKept {s t : State} (h : Aside s t) : ChannelsKept s t := by
  unfold Aside at h
  rw [h]
  exact ⟨rfl, rfl⟩

theorem OnlyControl.channelsKept {s t : State} (h : OnlyControl s t) : ChannelsKept s t := by
  unfold OnlyControl at h
  rw [h]
  exact ⟨rfl, rfl⟩

theorem putLum_channelsKept (n : Nat) (new : Option Luminaire) (s : State) : ChannelsKept s (putLum n new s) :=
  ⟨(putLum_only n new s).channels, (putLum_testsKept n new s).slots⟩

/-- A table in which every slot in use keeps its origin serves as well. -/
theorem InFlightOwn.slots {s t : State} (h : InFlightOwn s) (hchannels : t.channels = s.channels)
    (hslots : ∀ k sl, s.slots.get k = some sl → ∃ sl', t.slots.get k = some sl' ∧ sl'.origin = sl.origin) :
    InFlightOwn t := by
  intro c p hp
  rw [hchannels] at hp ⊢
  obtain ⟨sl, hsl, horigin⟩ := h c p hp
  obtain ⟨sl', hsl', hsame⟩ := hslots p.1 sl hsl
  exact ⟨sl', hsl', hsame.trans horigin⟩

/-- Writing a slot with another of the same origin. -/
theorem get_put_origin {t : Table Slot} {k : Nat} {sl sl' : Slot} (hk : t.get k = some sl)
    (horigin : sl'.origin = sl.origin) (j : Nat) (x : Slot) (hj : t.get j = some x) :
    ∃ x', (t.put k sl').get j = some x' ∧ x'.origin = x.origin := by
  rw [Table.get_put]
  split
  · rename_i hjk
    rw [hjk, hk] at hj
    cases hj
    exact ⟨sl', rfl, horigin⟩
  · exact ⟨x, hj, rfl⟩

/-- A channel may drop pairs, and may begin another run with none. -/
theorem inFlightOwn_channel {s : State} (c : Fin 4) (f : Channel → Channel)
    (hf : ∀ p ∈ (f s.channels[c]).inFlight, p ∈ s.channels[c].inFlight ∧ (f s.channels[c]).run = s.channels[c].run)
    (h : InFlightOwn s) : InFlightOwn (modChan c f s) := by
  intro d p hp
  by_cases hd : d = c
  · subst hd
    rw [modChan_at] at hp ⊢
    obtain ⟨hmem, hrun⟩ := hf p hp
    rw [hrun]
    exact h d p hmem
  · rw [modChan_other _ _ _ _ hd] at hp ⊢
    exact h d p hp

theorem inFlightOwn_joins {s : State} (c : Fin 4) (k : Nat) (sl : Slot) (hk : s.slots.get k = some sl)
    (ho : sl.origin = .campaign c s.channels[c].cursor s.channels[c].run) (h : InFlightOwn s) :
    InFlightOwn (modChan c (fun ch => { ch with inFlight := ch.inFlight ++ [(k, s.channels[c].cursor)] }) s) := by
  intro d p hp
  by_cases hd : d = c
  · subst hd
    rw [modChan_at] at hp ⊢
    rcases List.mem_append.mp hp with hp | hp
    · exact h d p hp
    · obtain rfl := List.mem_singleton.mp hp
      exact ⟨sl, hk, ho⟩
  · rw [modChan_other _ _ _ _ hd] at hp ⊢
    exact h d p hp

/-- A released slot's pair is in no list once its campaign has forgotten it (R136): the pairs left are pairs of before, of other
slots, in the same run. -/
theorem forget_left {o : Origin} {k : Nat} (b : Bool) {u : State}
    (horigin : ∀ (c : Fin 4) (p : Nat × Nat), p ∈ u.channels[c].inFlight → p.1 = k →
      o = .campaign c p.2 u.channels[c].run)
    (d : Fin 4) (p : Nat × Nat) (hp : p ∈ (forget o k b u).channels[d].inFlight) :
    p ∈ u.channels[d].inFlight ∧ p.1 ≠ k ∧ (forget o k b u).channels[d].run = u.channels[d].run := by
  cases o with
  | campaign c e r =>
    have hd : ∀ {p : Nat × Nat}, p ∈ u.channels[d].inFlight → p.1 = k → d = c := fun hp hpk => by
      have hsame := horigin d _ hp hpk
      injection hsame with hcd
      exact hcd.symm
    unfold forget at hp ⊢
    dsimp only at hp ⊢
    split at hp
    · rename_i hany
      rw [if_pos hany]
      by_cases hdc : d = c
      · subst hdc
        rw [modChan_at] at hp ⊢
        obtain ⟨hmem, hne⟩ := List.mem_filter.mp hp
        exact ⟨hmem, bne_iff_ne.mp hne, rfl⟩
      · rw [modChan_other _ _ _ _ hdc] at hp ⊢
        exact ⟨hp, fun hpk => hdc (hd hp hpk), rfl⟩
    · rename_i hany
      rw [if_neg hany]
      refine ⟨hp, fun hpk => hany ?_, rfl⟩
      obtain rfl := hd hp hpk
      exact List.any_eq_true.mpr ⟨p, hp, beq_iff_eq.mpr hpk⟩
  | periodic => exact ⟨hp, fun hpk => (nomatch horigin d p hp hpk), rfl⟩
  | unknown => exact ⟨hp, fun hpk => (nomatch horigin d p hp hpk), rfl⟩

theorem inFlightOwn_forget {s u : State} {k : Nat} {sl : Slot} (b : Bool) (hr : s.slots.Rising)
    (hk : s.slots.get k = some sl) (hslots : u.slots = s.slots.drop k) (hchannels : u.channels = s.channels)
    (h : InFlightOwn s) : InFlightOwn (forget sl.origin k b u) := by
  have horigin : ∀ (c : Fin 4) (p : Nat × Nat), p ∈ u.channels[c].inFlight → p.1 = k →
      sl.origin = .campaign c p.2 u.channels[c].run := fun c p hp hpk => by
    rw [hchannels] at hp ⊢
    obtain ⟨x, hx, hxo⟩ := h c p hp
    rw [hpk, hk] at hx
    cases hx
    exact hxo
  intro d p hp
  obtain ⟨hmem, hne, hrun⟩ := forget_left b horigin d p hp
  rw [hrun, (forget_only sl.origin k b u).testsKept.slots, hslots, get_drop hr, if_neg hne]
  rw [hchannels] at hmem ⊢
  exact h d p hmem

/-! ### Every move -/

theorem loadImage_channels (s : State) : (loadImage s).channels = s.channels := by
  unfold loadImage
  split
  · rfl
  · unfold writeBlank
    simp only
    split
    · rfl
    · rw [raise_channels]
      rfl

theorem recallMarked_channels (m : Image) (s : State) (n : Nat) : (recallMarked m s n).channels = s.channels := by
  unfold recallMarked
  split
  · rfl
  · split
    · simp only
      rw [(offer_only _ _ _).channels, (writeItem_only _ _).records.channels]
      split
      · exact addResult_channels _ s
      · rfl
    · rfl

theorem booted_channels (keepTime : Bool) (s : State) : (booted keepTime s).channels = Vector.replicate 4 {} := by
  have hmarkers (u : State) : (recallMarkers u).channels = u.channels :=
    foldl_only (F := fun s t => t.channels = s.channels) (fun _ => rfl) (fun h1 h2 => h2.trans h1)
      (fun t n => recallMarked_channels u.image t n) _ u
  change (recallMarkers (loadImage (fresh keepTime s))).channels = _
  rw [hmarkers, loadImage_channels]
  unfold fresh
  cases keepTime <;> rfl

theorem inFlightOwn_of_channels {s : State} (h : s.channels = Vector.replicate 4 {}) : InFlightOwn s := by
  intro c p hp
  rw [h] at hp
  change p ∈ ((Vector.replicate 4 ({} : Channel))[c.val]'c.isLt).inFlight at hp
  rw [Vector.getElem_replicate] at hp
  cases hp

theorem moves_inFlightOwn {s t : State} (hm : Moves s t) (hc : Canonical s) (hpaired : Paired s.luminaires s.slots) :
    InFlightOwn s → InFlightOwn t := by
  induction hm with
  | refl s => exact id
  | trans h1 _ ih1 ih2 =>
    exact fun h => ih2 (moves_canonical h1 hc) (moves_paired h1 hc hpaired) (ih1 hc hpaired h)
  | aside ha => exact fun h => h.kept ha.channelsKept
  | begins s => exact id
  | raises b s => exact fun h => h.kept (raise_only b s).writes.channelsKept
  | writes i s => exact fun h => h.kept (writeItem_only i s).channelsKept
  | noticesTaken k s => exact id
  | resultsDropped k s => exact id
  | calendar w x s _ _ => exact id
  | control hcontrol _ => exact fun h => h.kept hcontrol.channelsKept
  | second s =>
    refine fun h => h.slots rfl fun k sl hk => ⟨sl.counted, ?_, rfl⟩
    rw [secondPasses_slots, Table.get_mapValues, hk]
    rfl
  | record n l l' s _ _ => exact fun h => h.kept (putLum_channelsKept n _ s)
  | enrols n l s _ _ _ _ _ => exact fun h => h.kept (putLum_channelsKept n _ s)
  | withdraws n l s _ _ => exact fun h => h.kept (putLum_channelsKept n _ s)
  | defines g cap s => exact id
  | drops g r s _ _ => exact id
  | channel c f s hf => exact inFlightOwn_channel c f hf
  | joins c k sl s hk ho => exact inFlightOwn_joins c k sl hk ho
  | branch b f s _ => exact id
  | queues b e s _ =>
    exact fun h => h.kept ⟨(enqueue_only b e s).channels, (enqueue_only b e s).slots⟩
  | leaves b f s t _ _ _ ih => exact ih hc hpaired
  | slot k sl sl' s hk hsame _ => exact fun h => h.slots rfl (get_put_origin hk hsame.origin)
  | reserves n k l sl e s _ hk _ _ _ _ _ _ =>
    intro h
    have hqueued := enqueue_only l.branch e { s with slots := s.slots.put k sl }
    refine InFlightOwn.kept ?_ (putLum_channelsKept _ _ _)
    refine InFlightOwn.kept (s := { s with slots := s.slots.put k sl }) ?_ ⟨hqueued.channels, hqueued.slots⟩
    refine h.slots rfl fun j x hj => ⟨x, ?_, rfl⟩
    change (s.slots.put k sl).get j = some x
    rw [Table.get_put, if_neg, hj]
    rintro rfl
    rw [hk] at hj
    cases hj
  | starts k sl sl' l l' s hk hsame _ _ _ _ _ _ _ =>
    intro h
    refine InFlightOwn.kept (s := { s with slots := s.slots.put k sl' }) ?_ (putLum_channelsKept _ _ _)
    exact h.slots rfl (get_put_origin hk hsame.origin)
  | closes k sl sl' s hk hsame _ =>
    intro h
    have hchannels : (close k sl' s).channels = s.channels := by
      rw [close_eq, (queueStop_only _ _ _).channels]
      exact (modLum_only _ _ _).channels
    refine h.slots hchannels fun j x hj => ?_
    rw [close_slots]
    exact get_put_origin hk (sl' := sl'.closed) hsame.origin j x hj
  | releasesWithout k sl f b s u hk _ _ hslots hchannels _ =>
    exact inFlightOwn_forget b hc.slotsRising hk hslots hchannels
  | releasesWith k sl sl' l l' r b s u hk _ _ _ _ hslots hchannels _ =>
    exact inFlightOwn_forget b hc.slotsRising hk hslots hchannels
  | orphan k sl sl' s hk _ hl =>
    obtain ⟨l, hl', -⟩ := hpaired.holds k sl hk
    rw [hl] at hl'
    cases hl'
  | boots keepTime s t _ _ _ ih =>
    intro _
    refine ih (canonical_booted keepTime hc) ?_ (inFlightOwn_of_channels (booted_channels keepTime s))
    rw [(booted_queueAlone keepTime s).slots]
    exact paired_noSlot fun n l hl => booted_free hc hl
  | stops ph cut s _ => exact fun _ => inFlightOwn_of_channels rfl

/-- Settles O60: a pair joins with the slot just reserved, and leaves its list as its slot is released; a campaign begins a run
with an empty list. -/
theorem everyStepKeepsInFlightLists : Obligations.EveryStepKeepsInFlightLists := by
  unfold Obligations.EveryStepKeepsInFlightLists
  intro s t hc hslots hsound h
  rw [slotsSound_iff hc.luminairesRising hc.slotsRising] at hslots
  rw [campaignsSound_iff] at hsound ⊢
  exact moves_inFlightOwn (step_moves h) hc hslots hsound

end Sys2Proof.Machine
end

section
/-! PROOFS. Every step keeps every branch within its 24 places, slots on READY branches alone, and OFF and FAULTED branches
empty (O59). While a branch is being left its slots are released one by one; the clause on READY waits for the last. -/

namespace Sys2Proof.Machine

/-! ### One branch -/

/-- What R158 and R160 say of a branch with `occ` occupied slots; on one that is being left, slots may stand. -/
structure Placed (left : Prop) (occ : Nat) (br : Branch) : Prop where
  room : occ + (unreserved br.queue).length ≤ queuePlaces
  ready : ¬left → br.state ≠ .ready → occ = 0
  quiet : br.state.works = false → br.queue = [] ∧ br.inFlight = none

/-- Every branch is within its places; those of `leaving` are being left. -/
def PlacesSound (leaving : List (Fin 8)) (s : State) : Prop :=
  ∀ b : Fin 8, Placed (b ∈ leaving) (occupiedOn s b) s.branches[b]

theorem branchesSound_iff (s : State) : BranchesSound s ↔ PlacesSound [] s :=
  forall_congr' fun _ => ⟨fun ⟨hroom, hready, hquiet⟩ => ⟨hroom, fun _ => hready, hquiet⟩,
    fun ⟨hroom, hready, hquiet⟩ => ⟨hroom, hready List.not_mem_nil, hquiet⟩⟩

/-- Branch `br'` is `br` with some of its queue gone. -/
structure Shrinks (br br' : Branch) : Prop where
  state : br'.state = br.state
  inFlight : br'.inFlight = br.inFlight
  places : (unreserved br'.queue).length ≤ (unreserved br.queue).length
  empty : br.queue = [] → br'.queue = []

theorem Shrinks.refl (br : Branch) : Shrinks br br := ⟨rfl, rfl, Nat.le_refl _, id⟩

theorem Placed.shrinks {left : Prop} {occ occ' : Nat} {br br' : Branch} (h : Placed left occ br) (ho : occ' ≤ occ)
    (hbr : Shrinks br br') : Placed left occ' br' := by
  refine ⟨Nat.le_trans (Nat.add_le_add ho hbr.places) h.room, fun hl hs => ?_, fun hw => ?_⟩
  · exact Nat.le_zero.mp (h.ready hl (hbr.state ▸ hs) ▸ ho)
  · obtain ⟨hqueue, hflight⟩ := h.quiet (hbr.state ▸ hw)
    exact ⟨hbr.empty hqueue, hbr.inFlight.trans hflight⟩

theorem PlacesSound.shrinks {x : List (Fin 8)} {s t : State} (h : PlacesSound x s)
    (ho : ∀ b, occupiedOn t b ≤ occupiedOn s b) (hbr : ∀ b : Fin 8, Shrinks s.branches[b] t.branches[b]) :
    PlacesSound x t := fun b => (h b).shrinks (ho b) (hbr b)

/-! ### The occupied slots of a branch -/

theorem occupiedOn_eq (s : State) (b : Fin 8) : occupiedOn s b = (chosen (fun sl => sl.branch == b) s.slots).length := by
  unfold occupiedOn chosen
  rw [List.length_map]

theorem occupiedOn_congr {s t : State} (h : t.slots = s.slots) (b : Fin 8) : occupiedOn t b = occupiedOn s b := by
  unfold occupiedOn
  rw [h]

/-- Another slot's contents on the same branch. -/
theorem occupiedOn_put {s : State} (hr : s.slots.Rising) {k : Nat} {sl sl' : Slot} (hk : s.slots.get k = some sl)
    (hbranch : sl'.branch = sl.branch) {t : State} (ht : t.slots = s.slots.put k sl') (b : Fin 8) :
    occupiedOn t b = occupiedOn s b := by
  rw [occupiedOn_eq, occupiedOn_eq, ht]
  have hlength := length_chosen_set (fun x : Slot => x.branch == b) hr k (some sl')
  rw [hk, Option.any_some, Option.any_some, hbranch, Nat.add_sub_cancel] at hlength
  exact hlength

theorem occupiedOn_drop {s : State} (hr : s.slots.Rising) {k : Nat} {t : State} (ht : t.slots = s.slots.drop k)
    (b : Fin 8) : occupiedOn t b ≤ occupiedOn s b := by
  rw [occupiedOn_eq, occupiedOn_eq, ht, chosen_drop _ hr]
  exact List.erase_sublist.length_le

theorem occupiedOn_reserved {s : State} (hr : s.slots.Rising) {k : Nat} {sl : Slot} (hk : s.slots.get k = none)
    {t : State} (ht : t.slots = s.slots.put k sl) (b : Fin 8) :
    occupiedOn t b = occupiedOn s b + (sl.branch == b).toNat := by
  rw [occupiedOn_eq, occupiedOn_eq, ht]
  have hlength := length_chosen_set (fun x : Slot => x.branch == b) hr k (some sl)
  rw [hk] at hlength
  exact hlength

/-- Slots and branches are as they were. -/
structure PlacesKept (s t : State) : Prop where
  slots : t.slots = s.slots
  branches : t.branches = s.branches

theorem PlacesKept.trans {s t u : State} (h1 : PlacesKept s t) (h2 : PlacesKept t u) : PlacesKept s u :=
  ⟨h2.slots.trans h1.slots, h2.branches.trans h1.branches⟩

theorem PlacesSound.kept {x : List (Fin 8)} {s t : State} (h : PlacesSound x s) (hk : PlacesKept s t) :
    PlacesSound x t := by
  intro b
  rw [occupiedOn_congr hk.slots, hk.branches]
  exact h b

theorem OnlyWrites.placesKept {s t : State} (h : OnlyWrites s t) : PlacesKept s t := ⟨h.testsKept.slots, h.records.branches⟩

theorem Aside.placesKept {s t : State} (h : Aside s t) : PlacesKept s t := by
  unfold Aside at h
  rw [h]
  exact ⟨rfl, rfl⟩

theorem OnlyControl.placesKept {s t : State} (h : OnlyControl s t) : PlacesKept s t := by
  unfold OnlyControl at h
  rw [h]
  exact ⟨rfl, rfl⟩

theorem OnlyCampaign.placesKept {s t : State} (h : OnlyCampaign s t) : PlacesKept s t := by
  unfold OnlyCampaign at h
  rw [h]
  exact ⟨rfl, rfl⟩

theorem putLum_placesKept (n : Nat) (new : Option Luminaire) (s : State) : PlacesKept s (putLum n new s) :=
  ⟨(putLum_testsKept n new s).slots, (putLum_only n new s).branches⟩

theorem addResult_placesKept (r : ResultRecord) (s : State) : PlacesKept s (addResult r s) :=
  ⟨addResult_slots r s, (writeItem_only .results _).records.branches⟩

/-! ### Queues -/

theorem unreserved_append (q : List Exchange) (e : Exchange) :
    (unreserved (q ++ [e])).length = (unreserved q).length + (!e.reserved).toNat := by
  unfold unreserved
  rw [List.filter_append, List.length_append, List.filter_singleton]
  cases e.reserved <;> rfl

theorem unreservedFree_eq (s : State) (b : Fin 8) :
    unreservedFree s b = queuePlaces - occupiedOn s b - (unreserved s.branches[b].queue).length := rfl

theorem shrinks_filter (p : Exchange → Bool) (br : Branch) : Shrinks br { br with queue := br.queue.filter p } := by
  refine ⟨rfl, rfl, (List.filter_sublist.filter _).length_le, fun h => ?_⟩
  change br.queue.filter p = []
  rw [h]
  rfl

theorem unqueue_shrinks (b : Fin 8) (p : Exchange → Bool) (s : State) (a : Fin 8) :
    Shrinks s.branches[a] (unqueue b p s).branches[a] := by
  unfold unqueue
  by_cases h : a = b
  · rw [h, modBranch_at]
    exact shrinks_filter _ _
  · rw [modBranch_other _ _ _ _ h]
    exact .refl _

theorem placesSound_modBranch {x : List (Fin 8)} {s : State} {b : Fin 8} {f : Branch → Branch} (h : PlacesSound x s)
    (hb : Placed (b ∈ x) (occupiedOn s b) (f s.branches[b])) : PlacesSound x (modBranch b f s) := by
  intro a
  rw [occupiedOn_congr (s := s) (t := modBranch b f s) rfl]
  by_cases hab : a = b
  · rw [hab, modBranch_at]
    exact hb
  · rw [modBranch_other _ _ _ _ hab]
    exact h a

theorem placesSound_enqueue {x : List (Fin 8)} {s : State} {b : Fin 8} {e : Exchange}
    (he : e.reserved = true ∨ 0 < unreservedFree s b) (h : PlacesSound x s) : PlacesSound x (enqueue b e s) := by
  unfold enqueue
  split
  · rename_i hworks
    obtain ⟨hroom, hready, -⟩ := h b
    refine placesSound_modBranch h ⟨?_, hready, fun hno => ?_⟩
    · change _ + (unreserved (s.branches[b].queue ++ [e])).length ≤ _
      rw [unreserved_append]
      rcases he with he | he
      · rw [he]
        exact hroom
      · rw [unreservedFree_eq] at he
        have hone := Bool.toNat_le (!e.reserved)
        omega
    · exact absurd hworks (Bool.eq_false_iff.mp hno)
  · exact h

theorem placesSound_offer {x : List (Fin 8)} {s : State} (b : Fin 8) (e : Exchange) (h : PlacesSound x s) :
    PlacesSound x (offer b e s) := by
  unfold offer
  split
  · rename_i hfree
    exact placesSound_enqueue (.inr hfree) h
  · exact h

theorem placesSound_branch {x : List (Fin 8)} {s : State} {b : Fin 8} {f : Branch → Branch}
    (hmay : BranchMay s b (f s.branches[b])) (h : PlacesSound x s) : PlacesSound x (modBranch b f s) := by
  obtain ⟨hroom, hready, hquiet⟩ := h b
  refine placesSound_modBranch h ⟨?_, fun hleft hstate => ?_, fun hno => ?_⟩
  · exact Nat.le_trans (Nat.add_le_add_left hmay.places _) hroom
  · exact (hmay.ready hstate).elim (hready hleft) id
  · obtain ⟨hold, hempty⟩ := hmay.quiet hno
    exact hempty (hquiet hold)

/-! ### Slots -/

theorem placesSound_put {x : List (Fin 8)} {s : State} (hr : s.slots.Rising) {k : Nat} {sl sl' : Slot}
    (hk : s.slots.get k = some sl) (hbranch : sl'.branch = sl.branch) (h : PlacesSound x s) :
    PlacesSound x { s with slots := s.slots.put k sl' } :=
  h.shrinks (fun b => Nat.le_of_eq (occupiedOn_put hr hk hbranch rfl b)) fun _ => .refl _

theorem placesSound_freeSlot {x : List (Fin 8)} {s : State} (hr : s.slots.Rising) (k : Nat) (sl : Slot)
    (h : PlacesSound x s) : PlacesSound x (freeSlot k sl s) :=
  h.shrinks (fun b => occupiedOn_drop hr rfl b) fun a => unqueue_shrinks _ _ { s with slots := s.slots.drop k } a

theorem placesSound_reserved {x : List (Fin 8)} {s : State} (hr : s.slots.Rising) {k : Nat} {a : Fin 8} {sl : Slot}
    {e : Exchange} (hk : s.slots.get k = none) (hbranch : sl.branch = a) (hready : s.branches[a].state = .ready)
    (hplaces : 2 ≤ unreservedFree s a) (h : PlacesSound x s) :
    PlacesSound x (enqueue a e { s with slots := s.slots.put k sl }) := by
  subst hbranch
  have hocc := fun b => occupiedOn_reserved (t := { s with slots := s.slots.put k sl }) hr hk rfl b
  have hfree := unreservedFree_eq { s with slots := s.slots.put k sl } sl.branch
  rw [unreservedFree_eq] at hplaces
  rw [hocc, beq_self_eq_true, Bool.toNat_true] at hfree
  dsimp only at hfree
  refine placesSound_enqueue (.inr ?_) fun b => ?_
  · rw [hfree]
    omega
  · rw [hocc]
    obtain ⟨hroom, hb, hquiet⟩ := h b
    by_cases hbr : sl.branch = b
    · subst hbr
      refine ⟨?_, fun _ hstate => absurd hready hstate, hquiet⟩
      rw [beq_self_eq_true, Bool.toNat_true]
      dsimp only
      omega
    · rw [beq_eq_false_iff_ne.mpr hbr]
      exact ⟨hroom, hb, hquiet⟩

/-! ### Start-up -/

theorem fresh_branches (keepTime : Bool) (s : State) : (fresh keepTime s).branches = Vector.replicate 8 {} := by
  unfold fresh
  cases keepTime <;> rfl

theorem occupiedOn_none {s : State} (h : s.slots = []) (b : Fin 8) : occupiedOn s b = 0 := by
  unfold occupiedOn
  rw [h]
  rfl

/-- Branches with nothing queued or in flight, and no slot. -/
theorem placesSound_idle {s : State} (hslots : s.slots = [])
    (h : ∀ b : Fin 8, s.branches[b].queue = [] ∧ s.branches[b].inFlight = none) : PlacesSound [] s := by
  intro b
  obtain ⟨hqueue, hflight⟩ := h b
  rw [occupiedOn_none hslots]
  refine ⟨?_, fun _ _ => rfl, fun _ => ⟨hqueue, hflight⟩⟩
  rw [hqueue]
  exact Nat.zero_le _

theorem takeImage_idle (m : Image) (s : State) (b : Fin 8) :
    (takeImage m s).branches[b].queue = [] ∧ (takeImage m s).branches[b].inFlight = none := by
  have hbranch : (takeImage m s).branches[b] = startedBranch m.branchOff[b] := by
    change (Vector.ofFn fun b => startedBranch m.branchOff[b])[b.val] = _
    rw [Vector.getElem_ofFn]
  rw [hbranch]
  exact ⟨rfl, rfl⟩

theorem placesSound_loadImage {s : State} (h : s.slots = []) : PlacesSound [] (loadImage s) := by
  unfold loadImage
  split
  · exact placesSound_idle h (takeImage_idle s.image { s with storeState := .ok })
  · have hblank : PlacesSound [] (takeImage {} s) := placesSound_idle h (takeImage_idle {} s)
    unfold writeBlank
    simp only
    split
    · exact hblank.kept ⟨rfl, rfl⟩
    · refine PlacesSound.kept ?_ (raise_only _ _).writes.placesKept
      exact hblank.kept ⟨rfl, rfl⟩

theorem placesSound_recallMarked (m : Image) (n : Nat) {s : State} (h : PlacesSound [] s) :
    PlacesSound [] (recallMarked m s n) := by
  unfold recallMarked
  split
  · exact h
  · split
    · simp only
      refine placesSound_offer _ _ (PlacesSound.kept ?_ (writeItem_only _ _).placesKept)
      split
      · exact h.kept (PlacesKept.trans (addResult_placesKept _ s) ⟨rfl, rfl⟩)
      · exact h.kept ⟨rfl, rfl⟩
    · exact h

theorem placesSound_booted (keepTime : Bool) (s : State) : PlacesSound [] (booted keepTime s) := by
  have hmarkers : PlacesSound [] (recallMarkers (loadImage (fresh keepTime s))) :=
    foldl_keeps (fun t n ht => placesSound_recallMarked _ n ht) _ (placesSound_loadImage (fresh_slots keepTime s))
  exact hmarkers.kept ⟨rfl, rfl⟩

/-! ### Every move -/

theorem PlacesSound.mono {x y : List (Fin 8)} {s : State} (h : PlacesSound x s) (hxy : ∀ b ∈ x, b ∈ y) :
    PlacesSound y s := fun b =>
  ⟨(h b).room, fun hb hs => (h b).ready (fun hx => hb (hxy b hx)) hs, (h b).quiet⟩

theorem placesSound_close {x : List (Fin 8)} {s : State} (hr : s.slots.Rising) {k : Nat} {sl : Slot} (sl' : Slot)
    (hk : s.slots.get k = some sl) (hbranch : sl'.branch = sl.branch) (h : PlacesSound x s) :
    PlacesSound x (close k sl' s) := by
  have hput := placesSound_put (sl' := sl'.closed) hr hk hbranch h
  have hbefore : PlacesSound x (beforeStop k sl' s) := by
    refine (hput.shrinks ?_ (unqueue_shrinks sl'.branch (isReadOf k sl'.luminaire) _)).kept
      ⟨modLum_slots _ _ _, modLum_branches _ _ _⟩
    exact fun b => Nat.le_refl _
  rw [close_eq]
  unfold queueStop
  split
  · exact placesSound_enqueue (.inl rfl) hbefore
  · exact hbefore

theorem moves_placesSound {s t : State} (hm : Moves s t) (hc : Canonical s) :
    ∀ x, PlacesSound x s → PlacesSound x t := by
  induction hm with
  | refl s => exact fun x => id
  | trans h1 _ ih1 ih2 => exact fun x h => ih2 (moves_canonical h1 hc) x (ih1 hc x h)
  | aside ha => exact fun x h => h.kept ha.placesKept
  | begins s => exact fun x => id
  | raises b s => exact fun x h => h.kept (raise_only b s).writes.placesKept
  | writes i s => exact fun x h => h.kept (writeItem_only i s).placesKept
  | noticesTaken k s => exact fun x => id
  | resultsDropped k s => exact fun x => id
  | calendar w y s _ _ => exact fun x => id
  | control hcontrol _ => exact fun x h => h.kept hcontrol.placesKept
  | second s =>
    refine fun x h => h.shrinks (fun b => Nat.le_of_eq ?_) fun b => .refl _
    rw [occupiedOn_eq, occupiedOn_eq, secondPasses_slots,
      chosen_mapValues (fun sl : Slot => sl.branch == b) s.slots (fun _ => Slot.counted) fun _ _ => rfl]
  | record n l l' s _ _ => exact fun x h => h.kept (putLum_placesKept n _ s)
  | enrols n l s _ _ _ _ _ => exact fun x h => h.kept (putLum_placesKept n _ s)
  | withdraws n l s _ _ => exact fun x h => h.kept (putLum_placesKept n _ s)
  | defines g cap s => exact fun x => id
  | drops g r s _ _ => exact fun x => id
  | channel c f s _ => exact fun x => id
  | joins c k sl s _ _ => exact fun x => id
  | branch b f s hmay => exact fun x => placesSound_branch hmay
  | queues b e s he => exact fun x => placesSound_enqueue he
  | leaves b f s t hf _ hoccupied ih =>
    intro x h
    obtain ⟨hqueue, hflight⟩ := hf
    have hleft : PlacesSound (b :: x) (modBranch b f s) := by
      refine placesSound_modBranch (h.mono fun a ha => List.mem_cons_of_mem b ha) ⟨?_, fun hb => ?_, fun _ => ⟨hqueue, hflight⟩⟩
      · rw [hqueue]
        exact Nat.le_trans (Nat.le_add_right _ _) (h b).room
      · exact absurd List.mem_cons_self hb
    have hend := ih hc (b :: x) hleft
    intro a
    refine ⟨(hend a).room, fun ha hstate => ?_, (hend a).quiet⟩
    by_cases hab : a = b
    · rw [hab]
      exact hoccupied hc.slotsRising
    · exact (hend a).ready (fun hm => (List.mem_cons.mp hm).elim hab ha) hstate
  | slot k sl sl' s hk hsame _ => exact fun x => placesSound_put hc.slotsRising hk hsame.branch
  | reserves n k l sl e s _ hk _ _ hsl hready hplaces _ =>
    intro x h
    exact (placesSound_reserved hc.slotsRising hk hsl.2.2 hready hplaces h).kept (putLum_placesKept _ _ _)
  | starts k sl sl' l l' s hk hsame _ _ _ _ _ _ _ =>
    exact fun x h => (placesSound_put hc.slotsRising hk hsame.branch h).kept (putLum_placesKept _ _ _)
  | closes k sl sl' s hk hsame _ => exact fun x => placesSound_close hc.slotsRising sl' hk hsame.branch
  | releasesWithout k sl f b s u _ _ _ _ _ ih =>
    intro x h
    have hfreed := placesSound_freeSlot hc.slotsRising k sl h
    exact (ih (canonical_modLum _ f (canonical_freeSlot k sl hc)) x
      (hfreed.kept ⟨modLum_slots _ _ _, modLum_branches _ _ _⟩)).kept (forget_only _ _ _ _).placesKept
  | releasesWith k sl sl' l l' r b s u _ _ _ _ _ _ _ ih =>
    intro x h
    have hput := canonical_putLum sl.luminaire (some l') (canonical_addResult r hc)
    refine (ih (canonical_freeSlot k sl' hput) x ?_).kept (forget_only _ _ _ _).placesKept
    exact placesSound_freeSlot hput.slotsRising k sl'
      (h.kept ((addResult_placesKept r s).trans (putLum_placesKept sl.luminaire (some l') _)))
  | orphan k sl sl' s _ _ _ => exact fun x => placesSound_freeSlot hc.slotsRising k sl'
  | boots keepTime s t _ _ _ ih =>
    intro x _
    exact ih (canonical_booted keepTime hc) x ((placesSound_booted keepTime s).mono fun b hb => nomatch hb)
  | stops ph cut s _ =>
    intro x _
    have hidle : PlacesSound [] (stops ph cut s) := placesSound_idle rfl fun b => by
      change (Vector.replicate 8 ({} : Branch))[b.val].queue = [] ∧ (Vector.replicate 8 ({} : Branch))[b.val].inFlight = none
      rw [Vector.getElem_replicate]
      exact ⟨rfl, rfl⟩
    exact hidle.mono fun b hb => nomatch hb

/-- Settles O59: a reservation needs two unreserved places and takes at most two, every other exchange one that it has found
free or that its slot holds; a branch that leaves READY releases its slots first. -/
theorem everyStepKeepsBranchPlaces : Obligations.EveryStepKeepsBranchPlaces := by
  unfold Obligations.EveryStepKeepsBranchPlaces
  intro s t hc hsound h
  rw [branchesSound_iff] at hsound ⊢
  exact moves_placesSound (step_moves h) hc [] hsound

end Sys2Proof.Machine
end

section
/-! PROOFS. The step, STATUS and the store's writes (R41, R198, R206, R207). -/

namespace Sys2Proof.Machine

/-! ### The queue of commands -/

/-- Settles O1. -/
theorem stepRunsTheFrontCommand : Obligations.StepRunsTheFrontCommand := by
  unfold Obligations.StepRunsTheFrontCommand
  intro c rest s
  rfl

theorem event_answers (f : State → State) (s : State) : ∃ t, event f s = .next t := by
  unfold event
  split
  · exact ⟨_, rfl⟩
  · exact ⟨_, rfl⟩

theorem branchEvent_answers (n : Nat) (f : Fin 8 → State → State) (s : State) : ∃ t, branchEvent n f s = .next t :=
  event_answers _ s

theorem emgLevel_answers (b : Bool) (s : State) : ∃ t, emgLevel b s = .next t := by
  unfold emgLevel
  split
  · exact event_answers _ s
  · exact ⟨_, rfl⟩

/-- Settles O2: every command but the lines and the supply is an event, and each of those answers a next state too. -/
theorem everyCommandAnswersANextState : Obligations.EveryCommandAnswersANextState := by
  unfold Obligations.EveryCommandAnswersANextState
  intro c s
  cases c with
  | emgAssertion => exact emgLevel_answers true s
  | emgRelease => exact emgLevel_answers false s
  | resetAssertion cut => exact ⟨resetAsserts cut s, rfl⟩
  | startUp => exact ⟨finish (startsUp (begin s)), rfl⟩
  | powerLoss cut => exact ⟨losesPower cut s, rfl⟩
  | answerTimeout b => exact branchEvent_answers b _ s
  | nodeFrameByteGap b => exact branchEvent_answers b _ s
  | chatterEvent b => exact branchEvent_answers b _ s
  | exchangeSend b => exact branchEvent_answers b _ s
  | nodeAnswerFrame b bytes => exact branchEvent_answers b _ s
  | answerFirstByte b => exact branchEvent_answers b _ s
  | _ => exact event_answers _ s

/-! ### A second of the own count -/

theorem step_idle {s : State} (hop : s.phase = .operating) (hpending : s.pending = []) (hprompts : prompts s = []) :
    step s = .next { secondPasses s with pending := expiries (secondPasses s) ++ arrivals (secondPasses s) } := by
  unfold step
  rw [hpending]
  unfold idle
  dsimp only
  rw [if_neg (not_not_intro hop), if_neg (not_not_intro hprompts)]

theorem mem_postIf {b : Bool} (c : Instr) (h : b = true) : c ∈ postIf b c := by
  rw [h]
  exact List.mem_singleton.mpr rfl

theorem stalenessExpiry_mem {s : State} (h : s.staleness = some 0) : Instr.stalenessExpiry ∈ expiries s := by
  unfold expiries
  simp only [List.mem_append]
  exact .inl (.inl (.inl (mem_postIf _ (beq_iff_eq.mpr h))))

theorem recoveryExpiry_mem {s : State} (h : s.recovery = some 0) : Instr.recoveryHoldOffExpiry ∈ expiries s := by
  unfold expiries
  simp only [List.mem_append]
  exact .inl (.inl (.inr (mem_postIf _ (beq_iff_eq.mpr h))))

/-- A due time that campus time has reached brings its arrival about (R42, R61). -/
theorem dueArrival_mem {s : State} {n : Nat} {l : Luminaire} (hl : s.luminaires.get n = some l) (hidle : l.state = .idle)
    (hset : s.quality ≠ .unset) (hdue : l.due ≤ s.campus) : Instr.dueTimeArrival n ∈ arrivals s := by
  have hwait : waitState s l.due = .due := if_pos ⟨hset, hdue⟩
  have harrival : Instr.dueTimeArrival n ∈ luminaireArrivals s n l := by
    unfold luminaireArrivals
    simp only [List.mem_append]
    refine .inl (.inr (mem_postIf _ ?_))
    rw [hidle, hwait]
    rfl
  unfold arrivals
  rw [if_neg hset]
  simp only [List.mem_append, List.mem_flatMap]
  exact .inl (.inl ⟨(n, l), Table.mem_of_get hl, harrival⟩)

/-- Settles O3: with nothing outstanding the step is the second's own, and the commands that it makes due wait in the queue. -/
theorem aSecondOfTheOwnCount : Obligations.ASecondOfTheOwnCount := by
  unfold Obligations.ASecondOfTheOwnCount
  intro s hop hpending hprompts
  refine ⟨_, step_idle hop hpending hprompts, rfl, fun n => ?_, fun k => ?_, fun hzero => ?_, fun hzero => ?_,
    fun n l hl hidle hset hdue => ?_⟩
  · exact (congrArg (fun t : Table Luminaire => t.get n) (secondPasses_luminaires s)).trans (Table.get_mapValues _ _ _)
  · exact (congrArg (fun t : Table Slot => t.get k) (secondPasses_slots s)).trans (Table.get_mapValues _ _ _)
  · exact List.mem_append_left _ (stalenessExpiry_mem hzero)
  · exact List.mem_append_left _ (recoveryExpiry_mem hzero)
  · exact List.mem_append_right _ (dueArrival_mem (s := secondPasses s) hl hidle hset hdue)

/-! ### STATUS -/

theorem exec_status (tag : Byte) (body : List Byte) (s : State) : exec (.status tag body) s = request 0x01 tag body s := rfl

theorem map_toList_eight {α β : Type} (f : α → β) (v : Vector α 8) :
    v.toList.map f = [f v[0], f v[1], f v[2], f v[3], f v[4], f v[5], f v[6], f v[7]] := by
  obtain ⟨⟨xs⟩, hxs⟩ := v
  match xs, hxs with
  | [_, _, _, _, _, _, _, _], _ => rfl

/-- Settles O9: the reply reads the state as the request finds it, then notices-lost is cleared. -/
theorem statusReportsAndClearsNoticesLost : Obligations.StatusReportsAndClearsNoticesLost := by
  unfold Obligations.StatusReportsAndClearsNoticesLost
  intro s tag hs
  have hsend : s.sending = none := hs.2.1
  rw [exec_status, request_done 0x01 tag [] s { atOwner s with noticesLost := false } status (statusBytes (atOwner s)) hs
    (by simp) (by decide) rfl rfl hsend rfl rfl]
  unfold statusBytes
  rw [map_toList_eight]
  rfl

/-! ### Store writes -/

theorem vector_setIfInBounds_fin {α : Type} {k : Nat} (v : Vector α k) (i : Fin k) (a : α) :
    v.setIfInBounds i a = v.set i a := by
  ext j hj
  rw [Vector.getElem_setIfInBounds, Vector.getElem_set]

/-- What each item's write puts into the image, with the item no longer damaged (R206). -/
theorem storeItem_cls (s : State) (x : Fin 8) (m : Image) : storeItem s (.cls x) m =
    { m with damaged := m.damaged.filter fun d => d != .cls x, classes := m.classes.set x s.classes[x] } := by
  unfold storeItem
  simp only [vector_setIfInBounds_fin, Fin.is_lt, getElem?_pos, Option.getD_some]
  rfl

theorem storeItem_branch (s : State) (x : Fin 8) (m : Image) : storeItem s (.branch x) m =
    { m with
      damaged := m.damaged.filter fun d => d != .branch x, branchOff := m.branchOff.set x s.branches[x].hostOff } := by
  unfold storeItem
  simp only [vector_setIfInBounds_fin, Fin.is_lt, getElem?_pos, Option.map_some, Option.getD_some]
  rfl

/-- A notice that is not masked and finds room joins the outbox at its tail and asserts ATTN (R185, R190). -/
theorem raise_of_room {b : NoticeBody} {s : State} (hmask : s.mask.getLsbD b.kind = false) (hroom : s.outbox.length < 32) :
    raise b s = { s with outbox := s.outbox ++ [⟨knownTime s, b⟩], attn := true } := by
  have hattn : attnLevel { s with outbox := s.outbox ++ [⟨knownTime s, b⟩] } = true := by
    unfold attnLevel
    simp
  unfold raise
  rw [if_neg (by simp [hmask]), if_neg (Nat.not_le.mpr hroom)]
  unfold followAttn
  rw [hattn]

/-- The part as a failed write of item `i` leaves it, before its notice (R207). -/
def faulted (s : State) : State :=
  { s with writeFates := s.writeFates.tail, storeState := .fault, writeFailed := true }

theorem failWrite_eq (i : Item) (s : State) : failWrite i s = raise (.storeFault i) (faulted s) := rfl

/-- Settles O12: an item's write puts its present fields in their place of the image and leaves the others; a failed write
leaves the image and raises STORE-FAULT. -/
theorem aStoreWriteLandsOrFaults : Obligations.AStoreWriteLandsOrFaults := by
  unfold Obligations.AStoreWriteLandsOrFaults
  refine ⟨fun s m n hl hg hw hb => ?_, fun s i => ⟨fun hfails => ?_, fun hlands => ?_⟩⟩
  · refine ⟨⟨_, rfl, fun j hj => Table.get_set_other _ _ hj, Table.get_set_self hl n _⟩,
      ⟨_, rfl, fun j hj => Table.get_set_other _ _ hj, Table.get_set_self hg n _⟩,
      ⟨_, rfl, fun j hj => Table.get_set_other _ _ hj, Table.get_set_self hw n _⟩,
      ⟨_, rfl, fun j hj => Table.get_set_other _ _ hj, Table.get_set_self hb n _⟩,
      fun x => ⟨storeItem_cls s x m, storeItem_branch s x m⟩, rfl, rfl, rfl, rfl⟩
  · rw [writeItem_fails i s hfails, failWrite_eq]
    refine ⟨?_, ?_, ?_, fun hmask hroom => ?_⟩
    · rw [show raise _ (faulted s) = _ from raise_only _ _]
      rfl
    · rw [show raise _ (faulted s) = _ from raise_only _ _]
      rfl
    · rw [show raise _ (faulted s) = _ from raise_only _ _]
      rfl
    · rw [raise_of_room (b := .storeFault i) (s := faulted s) hmask hroom]
      exact ⟨rfl, rfl⟩
  · rw [writeItem_lands i s hlands]
    rfl

/-! ### Reset -/

theorem stops_eq (ph : Phase) (cut : Nat) (s : State) : stops ph cut s =
    { pending := s.pending, phase := ph, resetLine := s.resetLine, emgLine := s.emgLine, image := cutImage cut s
      writeFates := s.writeFates } := rfl

/-- Settles O48: in operation both stop the part. -/
theorem resetAndPowerLossKeepOnlyTheStore : Obligations.ResetAndPowerLossKeepOnlyTheStore := by
  unfold Obligations.ResetAndPowerLossKeepOnlyTheStore
  intro s cut hop
  have hreset : resetAsserts cut s = { stops .inReset cut s with resetLine := true } := if_pos hop
  have hloss : losesPower cut s = stops .unpowered cut s := if_pos hop
  refine ⟨?_, ?_, rfl⟩
  · exact congrArg Host.Outcome.next (hreset.trans (by rw [stops_eq]))
  · exact congrArg Host.Outcome.next (hloss.trans (stops_eq _ _ _))

/-- Settles O52: every collection is empty and every branch idle. -/
theorem everyPropertyHoldsAtReset : Obligations.EveryPropertyHoldsAtReset := by
  unfold Obligations.EveryPropertyHoldsAtReset
  refine ⟨?_, ?_, ?_, ⟨.nil, .nil, .nil, .nil, .nil, ⟨.nil, .nil, .nil, .nil⟩, fun _ h => nomatch h⟩, ?_, ?_, ?_, ?_, ?_, ?_⟩
  all_goals decide

end Sys2Proof.Machine
end

section
/-! PROOFS. The host link (10_the_host_link.md): the catalogue row by row, the link's checks, frames and replies (R192 to R196,
R202). -/

namespace Sys2Proof.Machine

/-! ### The catalogue, row by row -/

/-- A kind code of the catalogue and the form of its request belong together: the command is the kind's request, and the owner
refuses a body that does not suit the form (R202). -/
structure CatalogueRow (kind : Byte) (q : RequestForm) : Prop where
  command : ∀ tag body s, exec (q.command tag body) s = request kind.toNat tag body s
  owner : ∀ tag, ∃ owner, ownerOf kind.toNat tag = some owner ∧
    ∀ body s, ¬q.suits body → owner body s = (s, .refused .badLength)

theorem suits_of_length {q : RequestForm} {body : List Byte} (hw : q.width = 0) (h : body.length = q.base) :
    q.suits body := by
  unfold RequestForm.suits
  rw [hw, Nat.zero_mul, Nat.add_zero, h]

theorem enrolBody_none {body : List Byte}
    (h : ¬ body.length = 12 + 2 * ((body[6]?).getD 0).toNat) : enrolBody body = none := by
  unfold enrolBody
  split
  · rename_i n1 n0 b a1 a0 c count rest
    split
    · rename_i d3 d2 d1 d0 f hdrop
      have hlength := congrArg List.length hdrop
      rw [List.length_drop] at hlength
      simp only [List.length_cons, List.length_nil, List.getElem?_cons_succ, List.getElem?_cons_zero, Option.getD_some] at h hlength
      omega
    · rfl
  · rfl

theorem amendBody_none {body : List Byte}
    (h : ¬ body.length = 10 + 2 * ((body[5]?).getD 0).toNat) : amendBody body = none := by
  unfold amendBody
  split
  · rename_i n1 n0 cp c gp count rest
    split
    · rename_i ap b a1 a0 hdrop
      have hlength := congrArg List.length hdrop
      rw [List.length_drop] at hlength
      simp only [List.length_cons, List.length_nil, List.getElem?_cons_succ, List.getElem?_cons_zero, Option.getD_some] at h hlength
      omega
    · rfl
  · rfl

theorem loadBody_none {body : List Byte}
    (h : ¬ body.length = 3 + 4 * ((body[2]?).getD 0).toNat) : loadBody body = none := by
  unfold loadBody
  split
  · rename_i c new count rest
    simp only [List.length_cons, List.getElem?_cons_succ, List.getElem?_cons_zero, Option.getD_some] at h
    exact if_neg (by omega)
  · rfl

theorem enrol_badLength (body : List Byte) (s : State) (h : ¬ body.length = 12 + 2 * ((body[6]?).getD 0).toNat) :
    enrol body s = (s, .refused .badLength) := by
  unfold enrol
  rw [enrolBody_none h]

theorem amend_badLength (body : List Byte) (s : State) (h : ¬ body.length = 10 + 2 * ((body[5]?).getD 0).toNat) :
    amend body s = (s, .refused .badLength) := by
  unfold amend
  rw [amendBody_none h]

theorem campaignLoad_badLength (body : List Byte) (s : State)
    (h : ¬ body.length = 3 + 4 * ((body[2]?).getD 0).toNat) : campaignLoad body s = (s, .refused .badLength) := by
  unfold campaignLoad
  rw [loadBody_none h]

theorem nodeExchange_badLength (tag : Byte) (body : List Byte) (s : State)
    (h : ¬ body.length = 5 + 1 * ((body[4]?).getD 0).toNat) : nodeExchange tag body s = (s, .refused .badLength) := by
  unfold nodeExchange
  split
  · simp only [List.length_cons, List.getElem?_cons_succ, List.getElem?_cons_zero, Option.getD_some] at h
    exact if_pos (by omega)
  · rfl

/-- The four rows with a list go by the lemmas above; each other owner takes its body apart and finds the wrong length. -/
theorem catalogue_rows : List.Forall₂ CatalogueRow catalogue requestForms := by
  unfold catalogue requestForms
  simp only [List.cons_append, List.nil_append]
  repeat' refine List.Forall₂.cons ⟨fun _ _ _ => rfl, fun tag => ⟨_, rfl, fun body s h => ?_⟩⟩ ?_
  on_goal 49 => exact .nil
  on_goal 42 => exact nodeExchange_badLength tag body s h
  on_goal 29 => exact campaignLoad_badLength body s h
  on_goal 7 => exact amend_badLength body s h
  on_goal 5 => exact enrol_badLength body s h
  all_goals simp only [status, ident, setParam, getParam, withdraw, setDue, setOutOfService, returnToService, clearFaults,
    readLuminaire, setClass, readClass, defineGroup, dropGroup, readGroup, setTime, setWindow, clearWindow, readWindow,
    setBlackout, clearBlackout, readBlackout, setMode, readCalendar, readSlot, stopTest, campaignStart, campaignPause,
    campaignResume, campaignStop, setStopPosition, campaignStatus, schedStart, schedSuspend, branchEnable, branchDisable,
    branchDirectEnter, branchDirectLeave, branchStatus, takeResults, takeNotices, setNoticeMask, readNoticeMask, restart]
  all_goals
    split
    · exact absurd (suits_of_length rfl rfl) h
    · rfl

theorem catalogue_row {i : Nat} {kind : Byte} {q : RequestForm} (hk : catalogue[i]? = some kind)
    (hq : requestForms[i]? = some q) : CatalogueRow kind q := by
  obtain ⟨hi, rfl⟩ := List.getElem?_eq_some_iff.mp hk
  obtain ⟨hi', rfl⟩ := List.getElem?_eq_some_iff.mp hq
  exact catalogue_rows.get hi hi'

theorem exists_kind {q : RequestForm} (hq : q ∈ requestForms) : ∃ kind, CatalogueRow kind q := by
  obtain ⟨i, hi, rfl⟩ := List.getElem_of_mem hq
  have hlength : i < catalogue.length := catalogue_rows.length_eq ▸ hi
  exact ⟨catalogue[i], catalogue_rows.get hlength hi⟩

/-- A kind outside the catalogue has no owner. -/
theorem ownerOf_unlisted {kind tag : Byte} (h : kind ∉ catalogue) : ownerOf kind.toNat tag = none := by
  have hne : kind.toNat ∉ catalogue.map BitVec.toNat := fun hm => by
    obtain ⟨k, hk, hkind⟩ := List.mem_map.mp hm
    exact h (BitVec.eq_of_toNat_eq hkind ▸ hk)
  generalize kind.toNat = n at hne
  unfold ownerOf
  split
  case h_49 => rfl
  all_goals exact absurd (by decide) hne

/-! ### The link's checks -/

theorem exec_form {kind : Byte} {q : RequestForm} (hrow : CatalogueRow kind q) (tag : Byte) (body : List Byte) (s : State) :
    exec (q.command tag body) s = event (frameComplete ⟨kind, tag, body⟩) s := by
  rw [hrow.command, request, BitVec.ofNat_toNat, BitVec.setWidth_eq]

/-- Settles O7: the link's checks stand before the owner's, and a body of the wrong length is the owner's first refusal. -/
theorem theLinkChecksEachFrame : Obligations.TheLinkChecksEachFrame := by
  unfold Obligations.TheLinkChecksEachFrame
  refine ⟨rfl, fun q hq s tag body hop hsend hbody => ?_, fun s kind tag body hop hsend hbody => ⟨?_, ?_⟩⟩
  · obtain ⟨kind, hrow⟩ := exists_kind hq
    refine ⟨fun hservice => ?_, fun hservice hsuits => ?_⟩
    · rw [exec_form hrow]
      exact frame_linkBusy ⟨kind, tag, body⟩ s hop hsend hservice hbody
    · obtain ⟨owner, howner, hrefuses⟩ := hrow.owner tag
      rw [hrow.command]
      exact request_refused kind.toNat tag body s owner _ ⟨hop, hsend, hservice⟩ hbody kind.isLt howner
        (hrefuses body _ hsuits)
  · exact fun hservice => frame_linkBusy ⟨kind, tag, body⟩ s hop hsend hservice hbody
  · exact fun hservice hkind =>
      frame_unknownKind ⟨kind, tag, body⟩ s ⟨hop, hsend, hservice⟩ (ownerOf_unlisted hkind) hbody

/-! ### Frames and replies -/

theorem exec_startOfFrame (x : Byte) {s : State} (hop : s.phase = .operating) : exec (.startOfFrame x) s =
    .next { opened s with receiver := if s.receiver = .hunt ∧ x = 0xA5 then .frame else s.receiver } := by
  have hevent : exec (.startOfFrame x) s = .next (settle (byteInHunt x (begin s))) := event_operating _ s hop
  have hbyte : byteInHunt x (begin s) =
      { opened s with receiver := if s.receiver = .hunt ∧ x = 0xA5 then .frame else s.receiver } := by
    unfold byteInHunt
    by_cases h : s.receiver = .hunt ∧ x = 0xA5
    · exact (if_pos h).trans (by rw [if_pos h]; rfl)
    · exact (if_neg h).trans (by rw [if_neg h]; rfl)
  rw [hevent, hbyte, settle_of_no_trigger _ rfl]
  rfl

theorem exec_frameGapTimeout {s : State} (hop : s.phase = .operating) :
    exec .frameGapTimeout s = .next { opened s with receiver := .hunt } := by
  have hevent : exec .frameGapTimeout s = .next (settle (frameGap (begin s))) := event_operating _ s hop
  rw [hevent, settle_of_no_trigger _ rfl]
  rfl

theorem exec_frameDiscarded {bytes : List Byte} (hbytes : discardable bytes = true) {s : State}
    (hop : s.phase = .operating) : exec (.frameDiscarded bytes) s = .next { opened s with receiver := .hunt } := by
  have hevent : exec (.frameDiscarded bytes) s = .next (settle (frameDiscards bytes (begin s))) := event_operating _ s hop
  have hframe : frameDiscards bytes (begin s) = { opened s with receiver := .hunt } := if_pos hbytes
  rw [hevent, hframe, settle_of_no_trigger _ rfl]
  rfl

theorem discardable_long {len : Byte} (h : 248 < len.toNat) : discardable [len] = true := if_pos h

theorem discardable_crc {len c1 c0 : Byte} {inner : List Byte} (hlen : len.toNat ≤ 248) (hinner : inner.length = len.toNat + 2)
    (hcrc : [c1, c0] ≠ bytes2 (crc16 (len :: inner))) : discardable (len :: inner ++ [c1, c0]) = true := by
  have hlength : (inner ++ [c1, c0]).length = len.toNat + 4 := by
    rw [List.length_append, hinner]
    rfl
  rw [List.cons_append]
  unfold discardable
  dsimp only
  rw [if_neg (Nat.not_lt.mpr hlen), hlength, ← hinner, List.drop_left, List.take_left]
  simpa using hcrc

theorem exec_frameHeld (kind tag : Byte) {body : List Byte} {s : State} {r : Reply} (hop : s.phase = .operating)
    (hsend : s.sending = some r) (hbody : body.length ≤ 248) :
    exec (.frameHeld kind tag body) s = .next
      (if s.held.isNone then { opened s with receiver := .hunt, held := some ⟨kind, tag, body⟩ }
      else { opened s with receiver := .hunt }) := by
  have hevent : exec (.frameHeld kind tag body) s = .next (settle (frameComplete ⟨kind, tag, body⟩ (begin s))) :=
    event_operating _ s hop
  have hbusy : ¬ (begin s).sending.isNone = true := by
    change ¬ s.sending.isNone = true
    rw [hsend]
    exact Bool.false_ne_true
  have hframe : frameComplete ⟨kind, tag, body⟩ (begin s) =
      if s.held.isNone then { opened s with receiver := .hunt, held := some ⟨kind, tag, body⟩ }
      else { opened s with receiver := .hunt } := by
    unfold frameComplete
    rw [if_neg (Nat.not_lt.mpr hbody)]
    exact if_neg hbusy
  rw [hevent, hframe]
  split <;> rw [settle_of_no_trigger _ rfl] <;> rfl

theorem exec_replySent {s : State} (hop : s.phase = .operating) (hsend : s.sending.isSome = true)
    (hrestart : s.restartWaiting = false) : exec .replySent s = .next (settle
      (match s.ready with
      | r :: rest => { opened s with sending := some r, ready := rest }
      | [] => takeHeld { opened s with sending := none })) := by
  have hevent : exec .replySent s = .next (settle (replyLeaves (begin s))) := event_operating _ s hop
  have hbusy : ¬ (begin s).sending.isNone = true := by
    change ¬ s.sending.isNone = true
    rw [Option.isNone_eq_false_iff.mpr hsend]
    exact Bool.false_ne_true
  have hgoes : ¬ (begin s).restartWaiting = true := Bool.eq_false_iff.mp hrestart
  rw [hevent]
  unfold replyLeaves
  rw [if_neg hbusy, if_neg hgoes]
  rfl

theorem takeHeld_some {s : State} {f : Frame} (h : s.held = some f) : takeHeld s = takeFrame f { s with held := none } := by
  unfold takeHeld
  rw [h]

theorem takeHeld_none {s : State} (h : s.held = none) : takeHeld s = s := by
  unfold takeHeld
  rw [h]

/-- A held frame is taken when no further reply is ready (R194). -/
theorem exec_replySent_held {s : State} {f : Frame} (hop : s.phase = .operating) (hsend : s.sending.isSome = true)
    (hrestart : s.restartWaiting = false) (hready : s.ready = []) (hheld : s.held = some f) :
    exec .replySent s = .next (settle (takeFrame f { opened s with sending := none, held := none })) := by
  rw [exec_replySent hop hsend hrestart, hready]
  dsimp only
  rw [takeHeld_some (s := { opened s with sending := none }) hheld]

theorem exec_form_free {kind : Byte} {q : RequestForm} (hrow : CatalogueRow kind q) (tag : Byte) {body : List Byte}
    {s : State} (hop : s.phase = .operating) (hbody : body.length ≤ 248) (hsend : s.sending = none) :
    exec (q.command tag body) s = .next (settle (takeFrame ⟨kind, tag, body⟩ (atOwner s))) := by
  rw [exec_form hrow, event_operating _ s hop, frameComplete_free ⟨kind, tag, body⟩ s hsend hbody]

/-- Settles O8: the receiver's events change the receiver and the held frame alone, and a held frame meets the link as its
request's own command would. -/
theorem framesAreReceivedAndRepliesLeave : Obligations.FramesAreReceivedAndRepliesLeave := by
  unfold Obligations.FramesAreReceivedAndRepliesLeave
  refine ⟨fun s hop => ⟨fun x => exec_startOfFrame x hop, exec_frameGapTimeout hop,
    fun len hlen => exec_frameDiscarded (discardable_long hlen) hop,
    fun len inner c1 c0 hlen hinner hcrc => exec_frameDiscarded (discardable_crc hlen hinner hcrc) hop⟩,
    fun s kind tag body r hop hsend hbody => ⟨fun hheld => ?_, fun f hheld => ?_⟩,
    fun s r hop hsend hrestart => ?_, fun i kind q hkind hform s tag body hop hbody => ?_⟩
  · rw [exec_frameHeld kind tag hop hsend hbody, hheld]
    rfl
  · rw [exec_frameHeld kind tag hop hsend hbody, hheld]
    rfl
  · have hbusy : s.sending.isSome = true := by rw [hsend]; rfl
    refine ⟨fun r' rest hready => ?_, fun hready hheld => ?_, fun kind tag body hready hheld hservice hkind => ?_,
      fun f hready hheld => exec_replySent_held hop hbusy hrestart hready hheld⟩
    · rw [exec_replySent hop hbusy hrestart, hready, settle_of_no_trigger _ rfl]
      rfl
    · rw [exec_replySent hop hbusy hrestart, hready]
      dsimp only
      rw [takeHeld_none (s := { opened s with sending := none }) hheld, settle_of_no_trigger _ rfl]
      rfl
    · rw [exec_replySent_held hop hbusy hrestart hready hheld,
        takeFrame_unknown ⟨kind, tag, body⟩ { opened s with sending := none, held := none } hservice (ownerOf_unlisted hkind),
        reply_free _ _ rfl, settle_of_no_trigger _ rfl]
      rfl
  · have hrow := catalogue_row hkind hform
    refine ⟨exec_form_free hrow tag hop hbody, fun hsend hrestart hready hheld hhunt => ?_⟩
    rw [exec_replySent_held hop hsend hrestart hready hheld,
      exec_form_free hrow tag (s := { s with sending := none, held := none }) hop hbody rfl]
    have hsame : ({ opened s with sending := none, held := none } : State) =
        atOwner { s with sending := none, held := none } := by
      unfold atOwner opened
      rw [← hhunt]
    rw [hsame]

end Sys2Proof.Machine
end

section
/-! PROOFS. The notice mask and the parameters (R185, R187, R200, R201). -/

namespace Sys2Proof.Machine

/-! ### Requests that write one item -/

theorem triggerIf_off (s : State) : triggerIf false s = s := by
  unfold triggerIf
  rw [Bool.or_false]

/-- A request whose owner answers DONE with one item written: the part before its passes, told by what it is served with, its
trigger and what the write put into the image. -/
theorem request_written_served (kind : Nat) (tag : Byte) (body : List Byte) (s base : State)
    (owner : List Byte → State → State × Answer) (out : List Byte) (i : Item) (trig : Bool) (hs : Serves s)
    (hb : body.length ≤ 248) (hk : kind < 256) (ho : ownerOf kind tag = some owner)
    (h : owner body (atOwner s) = (triggerIf trig (writeItem i (atOwner base)), .done out)) (hsend : base.sending = none) :
    ∃ u, request kind tag body s = .next (settle u) ∧ u.trigger = trig ∧
      Served (writeFails base) (storedReply (writeFails base) tag out) base u ∧
      (writeFails base = false → u.image = storeItem base i base.image) :=
  ⟨_, request_written kind tag body s base owner out i trig hs hb hk ho h hsend, afterWrite_trigger _ _ _ _,
    afterWrite_served _ _ _ _, afterWrite_image _ _ _⟩

/-! ### The notice mask -/

theorem maskOf_toNat (a b c : Byte) : BitVec.ofNat 24 (a.toNat * 65536 + be2 b c) = a ++ b ++ c := by
  apply BitVec.eq_of_toNat_eq
  unfold be2
  have ha := a.isLt
  have hb := b.isLt
  have hc := c.isLt
  rw [BitVec.toNat_ofNat, BitVec.toNat_append, BitVec.toNat_append, ← Nat.shiftLeft_add_eq_or_of_lt hb,
    ← Nat.shiftLeft_add_eq_or_of_lt hc, Nat.shiftLeft_eq, Nat.shiftLeft_eq]
  omega

theorem exec_readNoticeMask (tag : Byte) (body : List Byte) (s : State) :
    exec (.readNoticeMask tag body) s = request 0x83 tag body s := rfl

theorem exec_setNoticeMask (tag : Byte) (body : List Byte) (s : State) :
    exec (.setNoticeMask tag body) s = request 0x82 tag body s := rfl

theorem setNoticeMask_outOfRange {a b c : Byte} (h : 8 ≤ a.toNat) (s : State) :
    setNoticeMask [a, b, c] s = (s, .refused .outOfRange) := by
  unfold setNoticeMask
  exact if_pos (by omega)

theorem setNoticeMask_inRange {a b c : Byte} (h : a.toNat < 8) (s : State) :
    setNoticeMask [a, b, c] s = (writeItem .mask { s with mask := a ++ b ++ c }, .done []) := by
  have hb := b.isLt
  have hc := c.isLt
  unfold setNoticeMask
  dsimp only
  rw [if_neg (by unfold be2; omega), maskOf_toNat]

/-- Settles O13: the mask decides first, then the room; SET-NOTICE-MASK writes the three bytes as one number. -/
theorem theOutboxDecidesByItsMask : Obligations.TheOutboxDecidesByItsMask := by
  unfold Obligations.TheOutboxDecidesByItsMask
  refine ⟨fun s b => ⟨raise_masked b s, raise_full b s, raise_of_room⟩,
    fun s tag a b c hs => ⟨?_, fun hhigh => ?_, fun hlow => ?_⟩⟩
  · rw [exec_readNoticeMask]
    exact request_unchanged 0x83 tag [] s readNoticeMask _ hs (by simp) (by decide) rfl rfl
  · rw [exec_setNoticeMask]
    exact request_refused 0x82 tag _ s setNoticeMask _ hs (by simp) (by decide) rfl (setNoticeMask_outOfRange hhigh _)
  · obtain ⟨u, hexec, htrigger, hserved, himage⟩ := request_written_served 0x82 tag [a, b, c] s
      { s with mask := a ++ b ++ c } setNoticeMask [] .mask false hs (by simp) (by decide) rfl
      (by rw [setNoticeMask_inRange hlow, triggerIf_off]; rfl) hs.2.1
    have hmask : u.mask = a ++ b ++ c := congrArg State.mask hserved.1
    refine ⟨u, hexec, htrigger, hmask, fun hfate => ?_, ?_⟩
    · rw [himage hfate, hmask]
      rfl
    · rw [hmask]
      exact hserved

/-! ### The parameters' table -/

theorem isParam_iff (num index : Nat) : isParam num index = true ↔
    ((num = 7 ∨ num = 8) ∧ index ≤ 7) ∨ (num ≤ 13 ∧ num ≠ 7 ∧ num ≠ 8 ∧ index = 0) := by
  unfold isParam
  split
  · simp only [decide_eq_true_eq]
    omega
  · simp only [Bool.and_eq_true, decide_eq_true_eq, beq_iff_eq]
    omega

theorem paramRange_iff {num : Nat} (h : num ≤ 13) (v : Int) :
    ((paramRange num).1 ≤ v ∧ v ≤ (paramRange num).2) ↔
      (num = 0 → 15 ≤ v ∧ v ≤ 600) ∧ (num = 1 → 10 ≤ v ∧ v ≤ 250) ∧ (num = 2 → 12 ≤ v ∧ v ≤ 72) ∧
      (num = 3 → 1 ≤ v ∧ v ≤ 24) ∧ (num = 4 → 0 ≤ v ∧ v ≤ 120) ∧ (num = 5 → 0 ≤ v ∧ v ≤ 90) ∧
      (num = 6 → 0 ≤ v ∧ v ≤ 48) ∧ (num = 7 → 1 ≤ v ∧ v ≤ 16) ∧ (num = 8 → 0 ≤ v ∧ v ≤ 1) ∧
      (num = 9 ∨ num = 10 ∨ num = 11 → -20 ≤ v ∧ v ≤ 60) ∧ (num = 12 → 1 ≤ v ∧ v ≤ 10) ∧
      (num = 13 → 5 ≤ v ∧ v ≤ 240) := by
  interval_cases num <;> simp [paramRange]

theorem put_ordered_iff (p : Params) (num index : Nat) (v : Int) : (p.put num index v).ordered = true ↔
    (if num = 9 then v else p.coldNormal) < (if num = 10 then v else p.normalWarm) ∧
      (if num = 10 then v else p.normalWarm) < (if num = 11 then v else p.warmHot) := by
  unfold Params.ordered Params.put
  rw [Bool.and_eq_true, decide_eq_true_eq, decide_eq_true_eq]
  split <;> simp_all

theorem paramAdmits_iff (p : Params) (num index : Nat) (v : Int) : paramAdmits p num index v = true ↔
    isParam num index = true ∧ ((paramRange num).1 ≤ v ∧ v ≤ (paramRange num).2) ∧ (p.put num index v).ordered = true := by
  unfold paramAdmits
  simp only [Bool.and_eq_true, decide_eq_true_eq, and_assoc]

theorem isParam_le {num index : Nat} (h : isParam num index = true) : num ≤ 13 := by
  rw [isParam_iff] at h
  omega

/-! ### One value replaced -/

theorem concurrency_put {v : Vector Nat 8} {index : Nat} (h : index ≤ 7) (x : Nat) :
    ((v.setIfInBounds index x)[index]?).getD 0 = x := by
  rw [Vector.getElem?_setIfInBounds_self, if_pos (by omega)]
  rfl

theorem autoDisable_put {v : Vector Bool 8} {index : Nat} (h : index ≤ 7) (x : Bool) :
    ((v.setIfInBounds index x)[index]?).getD false = x := by
  rw [Vector.getElem?_setIfInBounds_self, if_pos (by omega)]
  rfl

/-- The value that SET-PARAM has put is the one that GET-PARAM reads (R200, R201). -/
theorem value_put_self {p : Params} {num index : Nat} {v : Int} (h : paramAdmits p num index v = true) :
    (p.put num index v).value num index = v := by
  obtain ⟨hparam, ⟨hlow, hhigh⟩, -⟩ := (paramAdmits_iff p num index v).mp h
  have hnum := isParam_le hparam
  rw [isParam_iff] at hparam
  have hnat : 0 ≤ (paramRange num).1 → ((v.toNat : Nat) : Int) = v := fun h0 =>
    Int.toNat_of_nonneg (Int.le_trans h0 hlow)
  interval_cases num
  on_goal 8 =>
    change (((p.concurrency.setIfInBounds index v.toNat)[index]?).getD 0 : Int) = v
    rw [concurrency_put (by omega), hnat (by decide)]
  on_goal 8 =>
    change (if ((p.autoDisable.setIfInBounds index (v == 1))[index]?).getD false then 1 else 0 : Int) = v
    rw [autoDisable_put (by omega)]
    change 0 ≤ v at hlow
    change v ≤ 1 at hhigh
    rcases (by omega : v = 0 ∨ v = 1) with rfl | rfl <;> rfl
  on_goal 8 => rfl
  on_goal 8 => rfl
  on_goal 8 => rfl
  on_goal 8 => rfl
  all_goals exact hnat (by decide)

/-- SET-PARAM replaces one value (R200). -/
theorem value_put_other {p : Params} {num index m i : Nat} {v : Int} (h : isParam num index = true)
    (hm : isParam m i = true) (hne : m ≠ num ∨ i ≠ index) : (p.put num index v).value m i = p.value m i := by
  have hnum := isParam_le h
  have hle := isParam_le hm
  rw [isParam_iff] at h hm
  by_cases hmn : m = num
  · subst hmn
    have hindex : index ≠ i := (hne.resolve_left (not_not_intro rfl)).symm
    rcases (by omega : m = 7 ∨ m = 8) with rfl | rfl
    · change (((p.concurrency.setIfInBounds index v.toNat)[i]?).getD 0 : Int) = _
      rw [Vector.getElem?_setIfInBounds_ne hindex]
      rfl
    · change (if ((p.autoDisable.setIfInBounds index (v == 1))[i]?).getD false then 1 else 0 : Int) = _
      rw [Vector.getElem?_setIfInBounds_ne hindex]
      rfl
  · interval_cases num <;> interval_cases m
    all_goals try exact absurd rfl hmn
    all_goals rfl

/-! ### SET-PARAM -/

theorem s16_beInt2 (v1 v0 : Byte) : s16 (beInt2 v1 v0) = [v1, v0] := by
  unfold s16 beInt2 bytes2
  rw [BitVec.ofInt_toInt]
  have h1 : (BitVec.ofNat 16 (be2 v1 v0)).extractLsb' 8 8 = v1 := by
    apply BitVec.eq_of_toNat_eq
    have hv1 := v1.isLt
    have hv0 := v0.isLt
    unfold be2
    rw [BitVec.extractLsb'_toNat, BitVec.toNat_ofNat, Nat.shiftRight_eq_div_pow]
    omega
  have h0 : (BitVec.ofNat 16 (be2 v1 v0)).extractLsb' 0 8 = v0 := by
    apply BitVec.eq_of_toNat_eq
    have hv1 := v1.isLt
    have hv0 := v0.isLt
    unfold be2
    rw [BitVec.extractLsb'_toNat, BitVec.toNat_ofNat, Nat.shiftRight_eq_div_pow]
    omega
  rw [h1, h0]

theorem exec_setParam (tag : Byte) (body : List Byte) (s : State) :
    exec (.setParam tag body) s = request 0x03 tag body s := rfl

theorem setParam_outOfRange {num index v1 v0 : Byte} {s : State}
    (h : paramAdmits s.params num.toNat index.toNat (beInt2 v1 v0) = false) :
    setParam [num, index, v1, v0] s = (s, .refused .outOfRange) := if_neg (by rw [h]; exact Bool.false_ne_true)

theorem setParam_admitted {num index v1 v0 : Byte} {s : State}
    (h : paramAdmits s.params num.toNat index.toNat (beInt2 v1 v0) = true) :
    setParam [num, index, v1, v0] s = (paramSet num.toNat index.toNat (beInt2 v1 v0) s,
      .done ([num, index] ++ s16 (s.params.value num.toNat index.toNat) ++ [v1, v0])) := by
  have hset : setParam [num, index, v1, v0] s = (paramSet num.toNat index.toNat (beInt2 v1 v0) s,
      .done ([num, index] ++ s16 (s.params.value num.toNat index.toNat) ++ s16 (beInt2 v1 v0))) := if_pos h
  rw [hset, s16_beInt2]

/-- The parameters with one value replaced, in the part. -/
def withParam (num index : Nat) (v : Int) (s : State) : State := { s with params := s.params.put num index v }

theorem paramSet_eq {num : Nat} (index : Nat) (v : Int) (s : State) (h : num ≠ 5) : paramSet num index v s =
    triggerIf (raisesRoom num (s.params.value num index) v) (writeItem .params (withParam num index v s)) := by
  unfold paramSet
  dsimp only
  rw [if_neg fun hand => h hand.1]
  rfl

theorem raisesRoom_eq (num : Nat) (before now : Int) :
    raisesRoom num before now = decide ((num = 6 ∨ num = 7) ∧ before < now) := by
  unfold raisesRoom
  simp only [Bool.decide_and, Bool.decide_or, Bool.beq_eq_decide_eq]

/-! ### A new overdue grace -/

theorem writeItem_luminaire_params (n : Nat) (s : State) :
    (writeItem (.luminaire n) s).image.params = s.image.params := by
  cases hw : writeFails s with
  | false => rw [writeItem_lands _ s hw]; rfl
  | true =>
    rw [writeItem_fails _ s hw, failWrite_eq, show raise _ (faulted s) = _ from raise_only _ _]
    rfl

/-- Only luminaire records differ, and of the image only their items. -/
structure OverduesOnly (s t : State) : Prop where
  records : OnlyRecords s t
  params : t.image.params = s.image.params

theorem OverduesOnly.refl (s : State) : OverduesOnly s s := ⟨.rfl' s, rfl⟩

theorem OverduesOnly.trans {s t u : State} (h1 : OverduesOnly s t) (h2 : OverduesOnly t u) : OverduesOnly s u :=
  ⟨h1.records.trans h2.records, h2.params.trans h1.params⟩

theorem checkOverdue_overduesOnly (n : Nat) (s : State) : OverduesOnly s (checkOverdue n s) := by
  refine ⟨checkOverdue_only n s, ?_⟩
  unfold checkOverdue
  split
  · split
    · rw [writeItem_luminaire_params, show putLum _ _ _ = _ from putLum_tables _ _ _, show raise _ s = _ from raise_only _ _]
      rfl
    · rfl
  · rfl

theorem graceMoved_overduesOnly (s : State) : OverduesOnly s (graceMoved s) :=
  foldl_only OverduesOnly.refl OverduesOnly.trans (fun t n => checkOverdue_overduesOnly n t) _ s

theorem paramSet_five (index : Nat) (v : Int) (s : State) :
    OverduesOnly (writeItem .params (withParam 5 index v s)) (paramSet 5 index v s) := by
  unfold paramSet
  dsimp only
  split
  · exact (graceMoved_overduesOnly _).trans ⟨triggerIf_records _ _, rfl⟩
  · exact ⟨triggerIf_records _ _, rfl⟩

/-- The image has the new parameters once their write has landed. -/
theorem writeItem_params_image {s : State} (h : writeFails s = false) : (writeItem .params s).image.params = s.params := by
  rw [writeItem_lands _ s h]
  rfl

/-- SET-PARAM of the overdue grace, before its passes: the parameters, the overdue notices that follow and the reply. -/
theorem exec_setParam_grace {tag num index v1 v0 : Byte} {s : State} (hs : Serves s) (hnum : num.toNat = 5)
    (h : paramAdmits s.params num.toNat index.toNat (beInt2 v1 v0) = true) :
    ∃ u, exec (.setParam tag [num, index, v1, v0]) s = .next (settle u) ∧
      u.params = s.params.put num.toNat index.toNat (beInt2 v1 v0) ∧
      (writeFails s = false → u.image.params = u.params) ∧
      Touches (withRecords { s with params := u.params, receiver := .hunt, sending := u.sending } u) u := by
  have hset := paramSet_five index.toNat (beInt2 v1 v0) (atOwner s)
  have hrecords := ((writeItem_only .params (withParam 5 index.toNat (beInt2 v1 v0) (atOwner s))).records).trans hset.records
  rw [← hnum] at hset hrecords
  unfold OnlyRecords at hrecords
  have hfree : (paramSet num.toNat index.toNat (beInt2 v1 v0) (atOwner s)).sending = none := by
    rw [hrecords]
    exact hs.2.1
  have hexec := request_served 0x03 tag [num, index, v1, v0] s setParam hs (by simp) (by decide) rfl
  rw [setParam_admitted (s := atOwner s) h, answer_done tag _ _ hfree] at hexec
  have hparams : (paramSet num.toNat index.toNat (beInt2 v1 v0) (atOwner s)).params =
      s.params.put num.toNat index.toNat (beInt2 v1 v0) := congrArg State.params hrecords
  refine ⟨_, hexec, hparams, fun hfate => ?_, ?_⟩
  · change (paramSet _ _ _ _).image.params = (paramSet _ _ _ _).params
    rw [hset.params, writeItem_params_image (s := withParam num.toNat index.toNat (beInt2 v1 v0) (atOwner s)) hfate, hparams]
    rfl
  · generalize paramSet num.toNat index.toNat (beInt2 v1 v0) (atOwner s) = w at hrecords hparams
    unfold Touches withRecords
    dsimp only
    rw [hrecords]
    rfl

/-- Settles O11: SET-PARAM's checks are R200's table and R25's order; the value put is the only one replaced, and its write comes
before the overdue notices of a new grace. -/
theorem setParamReplacesOneValue : Obligations.SetParamReplacesOneValue := by
  unfold Obligations.SetParamReplacesOneValue
  refine ⟨fun p num index v => ?_, fun s tag num index v1 v0 hs => ⟨fun hrefused => ?_, fun hadmits => ?_⟩⟩
  · rw [paramAdmits_iff, put_ordered_iff]
    constructor
    · rintro ⟨hparam, hrange, hordered⟩
      obtain ⟨h0, h1, h2, h3, h4, h5, h6, h7, h8, h9, h12, h13⟩ := (paramRange_iff (isParam_le hparam) v).mp hrange
      exact ⟨(isParam_iff num index).mp hparam, h0, h1, h2, h3, h4, h5, h6, h7, h8, h9, h12, h13, hordered⟩
    · rintro ⟨hparam, h0, h1, h2, h3, h4, h5, h6, h7, h8, h9, h12, h13, hordered⟩
      have hlisted := (isParam_iff num index).mpr hparam
      exact ⟨hlisted,
        (paramRange_iff (isParam_le hlisted) v).mpr ⟨h0, h1, h2, h3, h4, h5, h6, h7, h8, h9, h12, h13⟩, hordered⟩
  · rw [exec_setParam]
    exact request_refused 0x03 tag _ s setParam _ hs (by simp) (by decide) rfl (setParam_outOfRange hrefused)
  · have hparam := ((paramAdmits_iff _ _ _ _).mp hadmits).1
    have hself := value_put_self hadmits
    have hother := fun m i (hm : isParam m i = true) (hne : m ≠ num.toNat ∨ i ≠ index.toNat) =>
      value_put_other (p := s.params) (v := beInt2 v1 v0) hparam hm hne
    have hfive : num.toNat = 5 ↔ num = 5 := by bv_omega
    by_cases hnum : num.toNat = 5
    · obtain ⟨u, hexec, hparams, himage, htouches⟩ := exec_setParam_grace (tag := tag) hs hnum hadmits
      refine ⟨u, hexec, ?_, ?_, himage, fun hne => absurd (hfive.mp hnum) hne, fun _ => htouches⟩
      · rw [hparams]
        exact hself
      · rw [hparams]
        exact hother
    · obtain ⟨u, hexec, htrigger, hserved, himage⟩ := request_written_served 0x03 tag [num, index, v1, v0] s
        (withParam num.toNat index.toNat (beInt2 v1 v0) s) setParam _ .params _ hs (by simp) (by decide) rfl
        ((setParam_admitted (s := atOwner s) hadmits).trans
          (congrArg (·, _) (paramSet_eq index.toNat (beInt2 v1 v0) (atOwner s) hnum))) hs.2.1
      have hparams : u.params = s.params.put num.toNat index.toNat (beInt2 v1 v0) := congrArg State.params hserved.1
      refine ⟨u, hexec, ?_, ?_, fun hfate => ?_, fun _ => ⟨?_, ?_⟩, fun hne => absurd (hfive.mpr hne) hnum⟩
      · rw [hparams]
        exact hself
      · rw [hparams]
        exact hother
      · rw [himage hfate, hparams]
        rfl
      · have hsix : (num.toNat = 6 ∨ num.toNat = 7) ↔ (num = 6 ∨ num = 7) := by bv_omega
        rw [htrigger, raisesRoom_eq]
        exact decide_eq_decide.mpr (and_congr_left' hsix)
      · rw [hparams]
        exact hserved

end Sys2Proof.Machine
end

section
/-! PROOFS. The requests that read (R16, R26, R33, R50, R51, R58, R87, R143, R177): the reply, and nothing changes. -/

namespace Sys2Proof.Machine

/-! ### A request that only reads -/

/-- The reply that an answer gives at once. -/
def Answer.replies (tag : Byte) : Answer → Option Reply
  | .refused r => some (refusal tag r)
  | .done out => some (doneReply tag out)
  | .later => none

/-- A request whose owner changes nothing leaves the part answered. -/
theorem request_read (kind : Nat) (tag : Byte) (body : List Byte) (s : State)
    (owner : List Byte → State → State × Answer) (r : Reply) (hs : Serves s) (hb : body.length ≤ 248) (hk : kind < 256)
    (ho : ownerOf kind tag = some owner) (hsame : (owner body (atOwner s)).1 = atOwner s)
    (h : (owner body (atOwner s)).2.replies tag = some r) : request kind tag body s = .next (answered s r) := by
  have hpair : owner body (atOwner s) = (atOwner s, (owner body (atOwner s)).2) := Prod.ext hsame rfl
  revert h hpair
  generalize (owner body (atOwner s)).2 = a
  intro h hpair
  cases a with
  | refused reason =>
    cases h
    exact request_refused kind tag body s owner reason hs hb hk ho hpair
  | done out =>
    cases h
    exact request_unchanged kind tag body s owner out hs hb hk ho hpair
  | later => cases h

/-! ### The register -/

/-- The reply of a read that names a record (R26, R33). -/
def foundReply {α : Type} (tag : Byte) (bytes : Nat → α → List Byte) : Option (Nat × α) → Reply
  | some (m, a) => doneReply tag (bytes m a)
  | none => refusal tag .noSuchRecord

theorem readLuminaire_replies {f : Byte} {next : Bool} (tag n1 n0 : Byte) (hf : flagOf f = some next) (s : State) :
    (readLuminaire [n1, n0, f] s).2.replies tag = some (if 3072 ≤ be2 n1 n0 then refusal tag .outOfRange
      else foundReply tag luminaireBytes
        (if next then s.luminaires.atOrAbove (be2 n1 n0) else (s.luminaires.get (be2 n1 n0)).map fun l => (be2 n1 n0, l))) := by
  unfold readLuminaire
  dsimp only
  rw [hf]
  dsimp only
  split
  · rfl
  · generalize (if next then s.luminaires.atOrAbove (be2 n1 n0)
      else (s.luminaires.get (be2 n1 n0)).map fun l => (be2 n1 n0, l)) = found
    cases found <;> rfl

theorem readGroup_replies {f : Byte} {next : Bool} (tag n1 n0 : Byte) (hf : flagOf f = some next) (s : State) :
    (readGroup [n1, n0, f] s).2.replies tag = some (if 384 ≤ be2 n1 n0 then refusal tag .outOfRange
      else foundReply tag groupBytes
        (if next then s.groups.atOrAbove (be2 n1 n0) else (s.groups.get (be2 n1 n0)).map fun r => (be2 n1 n0, r))) := by
  unfold readGroup
  dsimp only
  rw [hf]
  dsimp only
  split
  · rfl
  · generalize (if next then s.groups.atOrAbove (be2 n1 n0)
      else (s.groups.get (be2 n1 n0)).map fun r => (be2 n1 n0, r)) = found
    cases found <;> rfl

theorem readClass_replies (tag i : Byte) (s : State) :
    (readClass [i] s).2.replies tag = some (if h : i.toNat < 8 then doneReply tag s.classes[i.toNat].bytes
      else refusal tag .outOfRange) := by
  unfold readClass branchOf
  by_cases h : i.toNat < 8
  · simp only [dif_pos h]
    rfl
  · simp only [dif_neg h]
    rfl

/-! ### The calendar -/

theorem readWindow_replies (tag i : Byte) (s : State) : (readWindow [i] s).2.replies tag =
    some (if 32 ≤ i.toNat then refusal tag .outOfRange else doneReply tag (windowBytes (s.windows.get i.toNat))) := by
  unfold readWindow
  dsimp only
  split <;> rfl

theorem readBlackout_replies (tag i : Byte) (s : State) : (readBlackout [i] s).2.replies tag =
    some (if 24 ≤ i.toNat then refusal tag .outOfRange else doneReply tag (blackoutBytes (s.blackouts.get i.toNat))) := by
  unfold readBlackout
  dsimp only
  split <;> rfl

/-! ### Slots, campaigns, branches -/

theorem readSlot_byNumber (tag i n1 n0 : Byte) (s : State) : (readSlot [i, n1, n0, 0] s).2.replies tag =
    some (if 48 ≤ i.toNat then refusal tag .outOfRange else doneReply tag (slotBytes (s.slots.get i.toNat) ++ [0, 0])) := by
  change (if slotCount ≤ i.toNat then (s, Answer.refused .outOfRange) else (s, _)).2.replies tag = _
  by_cases h : 48 ≤ i.toNat
  · rw [if_pos h, if_pos h]
    rfl
  · rw [if_neg h, if_neg h]
    rfl

theorem readSlot_byLuminaire (tag i n1 n0 : Byte) (s : State) : (readSlot [i, n1, n0, 1] s).2.replies tag =
    some (if 3072 ≤ be2 n1 n0 then refusal tag .outOfRange
      else if s.luminaires.get (be2 n1 n0) = none then refusal tag .noSuchRecord
      else match slotOf s (be2 n1 n0) with
        | none => refusal tag .state
        | some (k, sl) => doneReply tag (slotBytes (some sl) ++ 1 :: u8 k)) := by
  have howner : readSlot [i, n1, n0, 1] s =
      if luminairePositions ≤ be2 n1 n0 then (s, .refused .outOfRange)
      else if !s.luminaires.has (be2 n1 n0) then (s, .refused .noSuchRecord)
      else match slotOf s (be2 n1 n0) with
        | none => (s, .refused .state)
        | some (k, sl) => (s, .done (slotBytes (some sl) ++ opt 1 (some (u8 k)))) := rfl
  rw [howner]
  by_cases h : 3072 ≤ be2 n1 n0
  · rw [if_pos h, if_pos h]
    rfl
  · rw [if_neg h, if_neg h]
    unfold Table.has
    cases s.luminaires.get (be2 n1 n0) with
    | none => rfl
    | some l => cases slotOf s (be2 n1 n0) <;> rfl

theorem campaignStatus_replies (tag i : Byte) (s : State) : (campaignStatus [i] s).2.replies tag =
    some (if h : i.toNat < 4 then doneReply tag (channelBytes s.channels[i.toNat]) else refusal tag .outOfRange) := by
  unfold campaignStatus channelOf
  by_cases h : i.toNat < 4
  · simp only [dif_pos h]
    rfl
  · simp only [dif_neg h]
    rfl

theorem branchStatus_replies (tag i : Byte) (s : State) : (branchStatus [i] s).2.replies tag =
    some (if h : i.toNat < 8 then doneReply tag (branchBytes s ⟨i.toNat, h⟩) else refusal tag .outOfRange) := by
  unfold branchStatus branchOf
  by_cases h : i.toNat < 8
  · simp only [dif_pos h]
    rfl
  · simp only [dif_neg h]
    rfl

/-- Settles O21: each owner leaves the state and answers from it. -/
theorem readsChangeNothing : Obligations.ReadsChangeNothing := by
  unfold Obligations.ReadsChangeNothing
  refine ⟨fun s tag n1 n0 i hs => ⟨?_, ?_, ?_, ?_, ?_⟩, fun s tag i hs => ⟨?_, ?_, ?_⟩,
    fun s tag n1 n0 i hs => ⟨?_, ?_, ?_, ?_⟩⟩
  · refine request_read 0x17 tag _ s readLuminaire _ hs (by simp) (by decide) rfl (readLuminaire_same _ _) ?_
    rw [readLuminaire_replies tag n1 n0 (next := false) rfl]
    change some (if _ then _ else foundReply tag luminaireBytes ((s.luminaires.get (be2 n1 n0)).map _)) = _
    cases s.luminaires.get (be2 n1 n0) <;> rfl
  · refine request_read 0x17 tag _ s readLuminaire _ hs (by simp) (by decide) rfl (readLuminaire_same _ _) ?_
    rw [readLuminaire_replies tag n1 n0 (next := true) rfl]
    change some (if _ then _ else foundReply tag luminaireBytes (s.luminaires.find? _)) = _
    cases s.luminaires.find? (fun p => decide (be2 n1 n0 ≤ p.1)) <;> rfl
  · refine request_read 0x22 tag _ s readGroup _ hs (by simp) (by decide) rfl (readGroup_same _ _) ?_
    rw [readGroup_replies tag n1 n0 (next := false) rfl]
    change some (if _ then _ else foundReply tag groupBytes ((s.groups.get (be2 n1 n0)).map _)) = _
    cases s.groups.get (be2 n1 n0) <;> rfl
  · refine request_read 0x22 tag _ s readGroup _ hs (by simp) (by decide) rfl (readGroup_same _ _) ?_
    rw [readGroup_replies tag n1 n0 (next := true) rfl]
    change some (if _ then _ else foundReply tag groupBytes (s.groups.find? _)) = _
    cases s.groups.find? (fun p => decide (be2 n1 n0 ≤ p.1)) <;> rfl
  · exact request_read 0x19 tag [i] s readClass _ hs (by simp) (by decide) rfl (readClass_same _ _)
      (readClass_replies tag i (atOwner s))
  · refine request_read 0x33 tag [i] s readWindow _ hs (by simp) (by decide) rfl (readWindow_same _ _) ?_
    rw [readWindow_replies]
    change some (if _ then _ else doneReply tag (windowBytes (s.windows.get i.toNat))) = _
    cases s.windows.get i.toNat <;> rfl
  · refine request_read 0x36 tag [i] s readBlackout _ hs (by simp) (by decide) rfl (readBlackout_same _ _) ?_
    rw [readBlackout_replies]
    change some (if _ then _ else doneReply tag (blackoutBytes (s.blackouts.get i.toNat))) = _
    cases s.blackouts.get i.toNat <;> rfl
  · exact request_read 0x38 tag [] s readCalendar _ hs (by simp) (by decide) rfl (readCalendar_same _ _) rfl
  · exact request_read 0x40 tag _ s readSlot _ hs (by simp) (by decide) rfl (readSlot_same _ _)
      (readSlot_byNumber tag i n1 n0 (atOwner s))
  · refine request_read 0x40 tag _ s readSlot _ hs (by simp) (by decide) rfl (readSlot_same _ _) ?_
    exact readSlot_byLuminaire tag i n1 n0 (atOwner s)
  · exact request_read 0x56 tag [i] s campaignStatus _ hs (by simp) (by decide) rfl (campaignStatus_same _ _)
      (campaignStatus_replies tag i (atOwner s))
  · exact request_read 0x75 tag [i] s branchStatus _ hs (by simp) (by decide) rfl (branchStatus_same _ _)
      (branchStatus_replies tag i (atOwner s))

end Sys2Proof.Machine
end

section
/-! PROOFS. The luminaire table's requests (R5 to R15, R22): each stores one record, moves its groups and the schedule list with
it, and writes it. -/

namespace Sys2Proof.Machine

/-! ### A request that stores one record -/

/-- A notice does not look at the trigger. -/
theorem raise_trigger (x : NoticeBody) (b : Bool) (s : State) :
    raise x { s with trigger := b } = { raise x s with trigger := b } := by
  unfold raise
  dsimp only
  by_cases hmask : s.mask.getLsbD x.kind = true
  · rw [if_pos hmask, if_pos hmask]
  · rw [if_neg hmask, if_neg hmask]
    by_cases hfull : outboxRoom ≤ s.outbox.length
    · rw [if_pos hfull, if_pos hfull]
    · rw [if_neg hfull, if_neg hfull]
      rfl

/-- A store write does not look at the trigger. -/
theorem writeItem_trigger (i : Item) (b : Bool) (s : State) :
    writeItem i { s with trigger := b } = { writeItem i s with trigger := b } := by
  cases hw : writeFails s with
  | false =>
    rw [writeItem_lands i s hw, writeItem_lands i { s with trigger := b } hw]
    cases i <;> rfl
  | true =>
    rw [writeItem_fails i s hw, writeItem_fails i { s with trigger := b } hw, failWrite_eq, failWrite_eq]
    exact raise_trigger (.storeFault i) b (faulted s)

/-- A record's write as an event's own: the record's change first, then what the write touches, with the change's trigger. -/
theorem writeItem_putLum (i : Item) (n : Nat) (new : Option Luminaire) (base : State) :
    writeItem i (putLum n new (atOwner base)) =
      triggerIf (putLum n new (atOwner base)).trigger
        (writeItem i (atOwner (withRecords base (putLum n new (atOwner base))))) := by
  have htables : putLum n new (atOwner base) = { atOwner (withRecords base (putLum n new (atOwner base))) with
      trigger := (putLum n new (atOwner base)).trigger } := putLum_tables n new (atOwner base)
  have htrigger : (writeItem i (atOwner (withRecords base (putLum n new (atOwner base))))).trigger = false := by
    rw [show writeItem i _ = _ from writeItem_only i _]
    rfl
  conv_lhs => rw [htables]
  rw [writeItem_trigger]
  unfold triggerIf
  rw [htrigger, Bool.false_or]

theorem putLum_trigger_eq (n : Nat) (new : Option Luminaire) (s : State) : (putLum n new s).trigger =
    (s.trigger || (s.groups.any fun p => darkIn (s.luminaires.get n) p.1 && !darkIn new p.1) ||
      entersDue (s.luminaires.get n) new) := by
  unfold putLum relist
  dsimp only
  by_cases hkey : listKey (s.luminaires.get n) = listKey new
  · rw [if_pos hkey]
    rfl
  · rw [if_neg hkey]
    cases listKey new <;> rfl

theorem Served.luminaires {failed : Bool} {r : Reply} {base u : State} (h : Served failed r base u) :
    u.luminaires = base.luminaires := by
  rw [show u = _ from h.1]

theorem Served.groups {failed : Bool} {r : Reply} {base u : State} (h : Served failed r base u) :
    u.groups = base.groups := by
  rw [show u = _ from h.1]

theorem Served.schedule {failed : Bool} {r : Reply} {base u : State} (h : Served failed r base u) :
    u.schedule = base.schedule := by
  rw [show u = _ from h.1]

/-- What a request that stores `new` at position `n` and writes it leaves before its passes, beside the fields of `base`. -/
structure Recorded (n : Nat) (new : Option Luminaire) (r : Reply) (base u : State) : Prop where
  luminaires : u.luminaires = base.luminaires.set n new
  groups : GroupsMove n (base.luminaires.get n) new base u
  schedule : u.schedule = (putLum n new (atOwner base)).schedule
  trigger : u.trigger = (putLum n new (atOwner base)).trigger
  image : writeFails base = false →
    u.image = storeItem (withRecords base (putLum n new (atOwner base))) (.luminaire n) base.image
  served : Served (writeFails base) r (withRecords base u) u

theorem request_recorded (kind : Nat) (tag : Byte) (body : List Byte) (s base : State)
    (owner : List Byte → State → State × Answer) (out : List Byte) (n : Nat) (new : Option Luminaire) (hs : Serves s)
    (hb : body.length ≤ 248) (hk : kind < 256) (ho : ownerOf kind tag = some owner)
    (h : owner body (atOwner s) = (writeItem (.luminaire n) (putLum n new (atOwner base)), .done out))
    (hsend : base.sending = none) :
    ∃ u, request kind tag body s = .next (settle u) ∧
      Recorded n new (storedReply (writeFails base) tag out) base u := by
  obtain ⟨u, hexec, htrigger, hserved, himage⟩ := request_written_served kind tag body s
    (withRecords base (putLum n new (atOwner base))) owner out (.luminaire n) _ hs hb hk ho
    (h.trans (congrArg (·, _) (writeItem_putLum (.luminaire n) n new base))) hsend
  have hluminaires : u.luminaires = (putLum n new (atOwner base)).luminaires := hserved.luminaires
  have hgroups : u.groups = (putLum n new (atOwner base)).groups := hserved.groups
  have hschedule : u.schedule = (putLum n new (atOwner base)).schedule := hserved.schedule
  refine ⟨u, hexec, ⟨hluminaires.trans (putLum_luminaires n new _), fun g => ?_, hschedule, htrigger, himage, ?_⟩⟩
  · rw [hgroups]
    exact groupsMove_putLum n new (atOwner base) g
  · have hrecords : withRecords base u = withRecords base (putLum n new (atOwner base)) := by
      unfold withRecords
      rw [hluminaires, hgroups, hschedule]
    rw [hrecords]
    exact hserved

namespace Recorded

variable {n : Nat} {l : Luminaire} {r : Reply} {base u : State}

theorem moves {new : Option Luminaire} (h : Recorded n new r base u) (hr : base.luminaires.Rising) :
    RecordMoves n new base u :=
  ⟨by rw [h.luminaires, Table.get_set_self hr], fun m hm => by rw [h.luminaires, Table.get_set_other _ _ hm], h.groups⟩

theorem moves_some (h : Recorded n (some l) r base u) : RecordMoves n (some l) base u :=
  ⟨by rw [h.luminaires]; exact Table.get_put_self _ _ _,
    fun m hm => by rw [h.luminaires, Table.get_set_other _ _ hm], h.groups⟩

/-- A record that enters DUE is a trigger (R66). -/
theorem trigger_of_due (h : Recorded n (some l) r base u) (hdue : l.state = .due)
    (hbefore : ∀ x, base.luminaires.get n = some x → x.state ≠ .due) : u.trigger = true := by
  have henters : entersDue (base.luminaires.get n) (some l) = true := by
    unfold entersDue
    rw [Option.any_some, beq_iff_eq.mpr hdue, Bool.true_and, Bool.not_eq_true', Bool.eq_false_iff]
    intro hany
    obtain ⟨x, hx, hstate⟩ := (Option.any_eq_true _ _).mp hany
    exact hbefore x hx (beq_iff_eq.mp hstate)
  rw [h.trigger, putLum_trigger_eq]
  exact (congrArg _ henters).trans (Bool.or_true _)

end Recorded

theorem withRecord_found {n : Nat} {s : State} {l : Luminaire} (f : Luminaire → State × Answer) (hn : n < 3072)
    (hl : s.luminaires.get n = some l) : withRecord n s f = f l := by
  unfold withRecord
  rw [if_neg (Nat.not_le.mpr hn), hl]

/-! ### SET-DUE -/

theorem exec_setDue (tag : Byte) (body : List Byte) (s : State) :
    exec (.setDue tag body) s = request 0x13 tag body s := rfl

theorem dueSet_eq (l : Luminaire) (s : State) (due : Nat) : l.dueSet s due = { l with
    due := due, overdueReported := false, watchArmed := true, blockedBy := (l.dueSet s due).blockedBy
    state := if l.state.waits then waitState s due else l.state } := by
  unfold Luminaire.dueSet Luminaire.enter
  dsimp only
  split
  · split
    · rename_i hsame
      rw [hsame]
    · rfl
  · rfl

theorem dueSet_state (l : Luminaire) (s : State) (due : Nat) :
    (l.dueSet s due).state = if l.state.waits then waitState s due else l.state := by
  rw [dueSet_eq]

theorem dueSet_blockedBy (l : Luminaire) (s : State) (due : Nat) : (l.dueSet s due).blockedBy =
    if (l.dueSet s due).state = l.state ∨ (l.dueSet s due).state = .due then l.blockedBy else none := by
  rw [dueSet_state]
  unfold Luminaire.dueSet Luminaire.enter
  dsimp only
  cases l.state.waits
  · simp
  · simp only [if_true]
    by_cases hsame : waitState s due = l.state
    · simp [hsame]
    · simp [hsame]

/-- Settles O18: the record's due fields change together, and IDLE or DUE is decided again. -/
theorem setDueReplacesTheDueTime : Obligations.SetDueReplacesTheDueTime := by
  unfold Obligations.SetDueReplacesTheDueTime
  intro s tag n1 n0 d3 d2 d1 d0 l hs hn hl
  have howner : setDue [n1, n0, d3, d2, d1, d0] (atOwner s) =
      if l.state.holdsSlot then (atOwner s, .refused .state)
      else (storeRecord (be2 n1 n0) (l.dueSet s (be4 d3 d2 d1 d0)) (atOwner s), .done []) :=
    withRecord_found (s := atOwner s) _ hn hl
  rw [exec_setDue]
  refine ⟨fun hholds => ?_, fun hfree => ?_⟩
  · exact request_refused 0x13 tag _ s setDue _ hs (by simp) (by decide) rfl (howner.trans (if_pos hholds))
  · obtain ⟨u, hexec, hrecorded⟩ := request_recorded 0x13 tag [n1, n0, d3, d2, d1, d0] s s setDue [] (be2 n1 n0) _ hs (by simp)
      (by decide) rfl (howner.trans (if_neg (Bool.eq_false_iff.mp hfree))) hs.2.1
    refine ⟨u, hexec, ⟨l.dueSet s (be4 d3 d2 d1 d0), hrecorded.moves_some, dueSet_eq l s _, fun hsame => ?_,
      fun hdue hidle => ?_, fun hbefore hdue => ?_⟩, hrecorded.served⟩
    · rw [dueSet_blockedBy, if_pos (.inl hsame)]
    · rw [dueSet_blockedBy, hdue, hidle]
      rfl
    · refine hrecorded.trigger_of_due hdue fun x hx => ?_
      rw [hl] at hx
      cases hx
      exact hbefore

/-! ### CLEAR-FAULTS -/

theorem exec_clearFaults (tag : Byte) (body : List Byte) (s : State) :
    exec (.clearFaults tag body) s = request 0x16 tag body s := rfl

theorem faultsCleared_eq (l : Luminaire) : l.faultsCleared = { l.latches with
    noAnswer := l.latches.noAnswer && decide (l.lastExchange ≠ some .answered)
    charger := l.latches.charger && (l.lastReport.all fun r => !r.record.chargerOk)
    mainsLost := l.latches.mainsLost && (l.lastReport.all fun r => !r.record.mains) } := by
  have hexchange : (!(l.lastExchange == some .answered)) = decide (l.lastExchange ≠ some .answered) := by
    rw [Bool.beq_eq_decide_eq, ← decide_not]
  have hreport : ∀ p : Report → Bool, (!(l.lastReport.any p)) = l.lastReport.all fun r => !p r := fun p => by
    cases l.lastReport <;> rfl
  unfold Luminaire.faultsCleared
  rw [hexchange, hreport, hreport]

/-- Settles O20: the latches that the record shows absent are cleared; they are none of those that make a luminaire dark. -/
theorem clearFaultsClearsWhatIsAbsent : Obligations.ClearFaultsClearsWhatIsAbsent := by
  unfold Obligations.ClearFaultsClearsWhatIsAbsent
  intro s tag n1 n0 l hs hn hl
  rw [← faultsCleared_eq]
  have howner : clearFaults [n1, n0] (atOwner s) =
      (if l.faultsCleared = l.latches then atOwner s
        else storeRecord (be2 n1 n0) { l with latches := l.faultsCleared } (atOwner s), .done [l.faultsCleared.code]) :=
    withRecord_found (s := atOwner s) _ hn hl
  rw [exec_clearFaults]
  refine ⟨fun hsame => ?_, fun hne => ?_⟩
  · rw [if_pos hsame] at howner
    exact request_unchanged 0x16 tag _ s clearFaults _ hs (by simp) (by decide) rfl howner
  · rw [if_neg hne] at howner
    obtain ⟨u, hexec, hrecorded⟩ := request_recorded 0x16 tag [n1, n0] s s clearFaults _ (be2 n1 n0) _ hs (by simp)
      (by decide) rfl howner hs.2.1
    refine ⟨u, hexec, ?_, hrecorded.moves_some, hrecorded.served⟩
    rw [hrecorded.trigger]
    exact putLum_trigger (s := atOwner s) hl rfl rfl rfl

/-! ### WITHDRAW -/

theorem exec_withdraw (tag : Byte) (body : List Byte) (s : State) :
    exec (.withdraw tag body) s = request 0x11 tag body s := rfl

theorem dropChecks_only (b : Fin 8) (n : Nat) (s : State) : dropChecks b n s =
    { s with branches := (dropChecks b n s).branches, checkPending := (dropChecks b n s).checkPending } := by
  unfold dropChecks
  split <;> rfl

theorem dropChecks_atOwner (b : Fin 8) (n : Nat) (s : State) :
    dropChecks b n (atOwner s) = atOwner (dropChecks b n s) := by
  unfold dropChecks
  by_cases h : s.branches[b].queue.any (isCheckOf n) = true
  · rw [if_pos h]
    exact if_pos h
  · rw [if_neg h]
    exact if_neg h

theorem dropChecks_branches (b : Fin 8) (n : Nat) (s : State) : (dropChecks b n s).branches =
    s.branches.set b { s.branches[b] with queue := s.branches[b].queue.filter fun e => !isCheckOf n e } := by
  unfold dropChecks
  split
  · rfl
  · rename_i h
    have hnone : s.branches[b].queue.filter (fun e => !isCheckOf n e) = s.branches[b].queue :=
      List.filter_eq_self.mpr fun e he => by
        rw [Bool.not_eq_true']
        exact Bool.eq_false_iff.mpr fun hc => h (List.any_eq_true.mpr ⟨e, he, hc⟩)
    rw [hnone]
    exact (Vector.set_getElem_self b.isLt).symm

/-- The change of a record, as seen from a state with the same records and groups. -/
theorem RecordMoves.of_base {n : Nat} {new : Option Luminaire} {s base u : State} (h : RecordMoves n new base u)
    (hl : base.luminaires = s.luminaires) (hg : base.groups = s.groups) : RecordMoves n new s u := by
  unfold RecordMoves GroupsMove at h ⊢
  rw [hl, hg] at h
  exact h

/-- A request that has removed checks first is served beside its branches and its check-pending set. -/
theorem Recorded.served_dropChecks {n : Nat} {new : Option Luminaire} {r : Reply} {b : Fin 8} {s u : State}
    (h : Recorded n new r (dropChecks b n s) u) : u.branches = (dropChecks b n s).branches ∧
      Served (writeFails s) r (withRecords { s with branches := u.branches, checkPending := u.checkPending } u) u := by
  have hserved := h.served
  have hu : u = _ := hserved.1
  have hbranches : u.branches = (dropChecks b n s).branches := by rw [hu]; rfl
  have hchecks : u.checkPending = (dropChecks b n s).checkPending := by rw [hu]; rfl
  have hfails : writeFails (dropChecks b n s) = writeFails s := by
    unfold writeFails
    rw [dropChecks_only b n s]
  have hbase : withRecords { s with branches := u.branches, checkPending := u.checkPending } u =
      withRecords (dropChecks b n s) u := by
    rw [hbranches, hchecks, ← dropChecks_only]
  rw [hbase, ← hfails]
  exact ⟨hbranches, hserved⟩

/-- The end of a dark record's membership is a fall of its groups' dark counts, and so a trigger (R37). -/
theorem putLum_trigger_of_dark {n : Nat} {l : Luminaire} {s : State} (hl : s.luminaires.get n = some l) (hdark : l.dark = true)
    (hdefined : ∃ g ∈ l.groups, (s.groups.get g).isSome = true) : (putLum n none s).trigger = true := by
  obtain ⟨g, hg, hsome⟩ := hdefined
  obtain ⟨r, hr⟩ := Option.isSome_iff_exists.mp hsome
  have hfalls : (s.groups.any fun p => darkIn (s.luminaires.get n) p.1 && !darkIn none p.1) = true := by
    refine List.any_eq_true.mpr ⟨(g, r), Table.mem_of_get hr, ?_⟩
    rw [hl]
    change (l.groups.contains g && l.dark && !false) = true
    rw [List.contains_iff_mem.mpr hg, hdark]
    rfl
  rw [putLum_trigger_eq, hfalls, Bool.or_true, Bool.true_or]

/-- The end of a dark record that groups count is a trigger. -/
theorem Recorded.trigger_of_dark {n : Nat} {l : Luminaire} {r : Reply} {base u : State} (h : Recorded n none r base u)
    (hl : base.luminaires.get n = some l) (hdark : l.dark = true)
    (hdefined : ∃ g ∈ l.groups, (base.groups.get g).isSome = true) : u.trigger = true := by
  rw [h.trigger]
  exact putLum_trigger_of_dark hl hdark hdefined

/-- A withdrawn record leaves the schedule list if it had a place there. -/
theorem Recorded.schedule_of_none {n : Nat} {l : Luminaire} {r : Reply} {base u : State} (h : Recorded n none r base u)
    (hl : base.luminaires.get n = some l) :
    u.schedule = if l.state.waits then base.schedule.erase n else base.schedule := by
  have hkey : listKey (base.luminaires.get n) = if l.state.waits then some l.due else none := by rw [hl]; rfl
  rw [h.schedule, putLum_relisted]
  change (if listKey (base.luminaires.get n) = none then base.schedule else base.schedule.erase n) = _
  rw [hkey]
  cases l.state.waits <;> rfl

/-- The request on a state whose checks have been removed. -/
theorem withdraw_owner {n1 n0 : Byte} {n : Nat} {l : Luminaire} {s : State} (hn : be2 n1 n0 = n) (hlt : n < 3072)
    (hl : s.luminaires.get n = some l) : withdraw [n1, n0] (atOwner s) =
      if l.state.holdsSlot then (atOwner s, .refused .state)
      else (writeItem (.luminaire n) (putLum n none (atOwner (dropChecks l.branch n s))), .done []) := by
  subst hn
  rw [← dropChecks_atOwner]
  exact withRecord_found (s := atOwner s) _ hlt hl

/-- Settles O16: the position becomes unused once the luminaire's queued CHECKs are removed. -/
theorem withdrawEmptiesThePosition : Obligations.WithdrawEmptiesThePosition := by
  unfold Obligations.WithdrawEmptiesThePosition
  intro s tag n1 n0 l
  generalize hnumber : be2 n1 n0 = n
  intro hs hn hl hr
  have howner := withdraw_owner hnumber hn hl
  have honly := dropChecks_only l.branch n s
  have hbranches := dropChecks_branches l.branch n s
  have hrecordedChecks := @Recorded.served_dropChecks n none (storedReply (writeFails s) tag []) l.branch s
  rw [exec_withdraw]
  refine ⟨fun hholds => ?_, fun hfree => ?_⟩
  · exact request_refused 0x11 tag _ s withdraw _ hs (by simp) (by decide) rfl (howner.trans (if_pos hholds))
  · rw [if_neg (Bool.eq_false_iff.mp hfree)] at howner
    generalize dropChecks l.branch n s = base at howner honly hbranches hrecordedChecks
    have hluminaires : base.luminaires = s.luminaires := by rw [honly]
    have hgroups : base.groups = s.groups := by rw [honly]
    have hschedule : base.schedule = s.schedule := by rw [honly]
    have hsending : base.sending = none := by rw [honly]; exact hs.2.1
    have hfails : writeFails base = writeFails s := by unfold writeFails; rw [honly]
    obtain ⟨u, hexec, hrecorded⟩ := request_recorded 0x11 tag [n1, n0] s base withdraw [] n none hs (by simp) (by decide) rfl
      howner hsending
    rw [hfails] at hrecorded
    obtain ⟨hqueues, hserved⟩ := hrecordedChecks hrecorded
    rw [← hluminaires] at hl hr
    refine ⟨u, hexec, (hrecorded.moves hr).of_base hluminaires hgroups, ?_, hqueues.trans hbranches,
      fun hdark hdefined => hrecorded.trigger_of_dark hl hdark (hgroups ▸ hdefined), hserved⟩
    rw [hrecorded.schedule_of_none hl, hschedule]

end Sys2Proof.Machine
end

section
/-! PROOFS. ENROL and AMEND (R4, R5, R6, R9 to R11). -/

namespace Sys2Proof.Machine

/-! ### The fields of a request -/

theorem branchOf_of_le {n : Nat} (h : 8 ≤ n) : branchOf n = none := dif_neg (Nat.not_lt.mpr h)

theorem branchOf_val (b : Fin 8) : branchOf b.val = some b := dif_pos b.isLt

theorem flagOf_one_iff {x : Byte} : (∃ f, flagOf x = some f) ↔ x = 0 ∨ x = 1 := by
  constructor
  · rintro ⟨f, hf⟩
    by_cases h : 2 ≤ x.toNat
    · rw [flagOf_of_le h] at hf
      exact (nomatch hf)
    · bv_omega
  · rintro (rfl | rfl)
    · exact ⟨false, rfl⟩
    · exact ⟨true, rfl⟩

theorem groupsInRange_iff (gs : List Nat) :
    groupsInRange gs = true ↔ gs.length ≤ 3 ∧ gs.Nodup ∧ ∀ g ∈ gs, g < 384 := by
  unfold groupsInRange
  simp only [Bool.and_eq_true, decide_eq_true_eq, List.all_eq_true, groupCount]
  tauto

theorem groupsDefined_iff (s : State) (gs : List Nat) :
    groupsDefined s gs = true ↔ ∀ g ∈ gs, (s.groups.get g).isSome = true := List.all_eq_true

/-- No room: a group named has 64 members and the luminaire is none of them (R4). -/
theorem groupsHaveRoom_false_iff (s : State) (n : Nat) (gs : List Nat) : groupsHaveRoom s n gs = false ↔
    ∃ g ∈ gs, ∃ r, s.groups.get g = some r ∧ 64 ≤ r.members.length ∧ n ∉ r.members := by
  unfold groupsHaveRoom
  simp only [List.all_eq_false, Bool.not_eq_true, Option.all_eq_false, Bool.or_eq_false_iff, decide_eq_false_iff_not,
    groupRoom, Nat.not_lt, Bool.eq_false_iff (b := List.contains _ _), ne_eq, List.contains_iff_mem]
  constructor
  · rintro ⟨g, hg, r, hr, hn, hl⟩
    exact ⟨g, hg, r, hr, hl, hn⟩
  · rintro ⟨g, hg, r, hr, hl, hn⟩
    exact ⟨g, hg, r, hr, hn, hl⟩

theorem groupsHaveRoom_of {s : State} {n : Nat} {gs : List Nat}
    (h : ∀ g ∈ gs, ∃ r, s.groups.get g = some r ∧ (n ∈ r.members ∨ r.members.length < 64)) : groupsHaveRoom s n gs = true := by
  rw [← Bool.not_eq_false, groupsHaveRoom_false_iff]
  rintro ⟨g, hg, r, hr, hfull, hn⟩
  obtain ⟨r', hr', hroom⟩ := h g hg
  rw [hr] at hr'
  cases hr'
  rcases hroom with hmem | hlt
  · exact hn hmem
  · omega

theorem addressTaken_iff (s : State) (n : Nat) (b : Fin 8) (node : Nat) : addressTaken s n b node = true ↔
    ∃ p ∈ s.luminaires, p.1 ≠ n ∧ p.2.branch = b ∧ p.2.node = node := by
  unfold addressTaken
  simp only [List.any_eq_true, Bool.and_eq_true, bne_iff_ne, beq_iff_eq, and_assoc]

theorem Table.key_ne_of_get_none {α : Type} {t : Table α} {k : Nat} (h : t.get k = none) : ∀ p ∈ t, p.1 ≠ k := by
  induction t with
  | nil => exact fun p hp => nomatch hp
  | cons q t ih =>
    rw [Table.get_cons] at h
    split at h
    · exact (nomatch h)
    · rename_i hq
      intro p hp
      rcases List.mem_cons.mp hp with e | hp
      · rw [e]
        exact hq
      · exact ih h p hp

/-! ### ENROL -/

theorem exec_enrol (tag : Byte) (body : List Byte) (s : State) : exec (.enrol tag body) s = request 0x10 tag body s := rfl

/-- Every field of an ENROL is within its range (R5). -/
def EnrolBody.InRange (q : EnrolBody) : Prop :=
  q.number < 3072 ∧ q.branch < 8 ∧ 0 < q.node ∧ q.node < 512 ∧ q.cls < 8 ∧
    (q.inService = 0 ∨ q.inService = 1) ∧ q.groups.length ≤ 3 ∧ q.groups.Nodup ∧ ∀ g ∈ q.groups, g < 384

/-- The number or the address of an ENROL is in use (R5). -/
def EnrolBody.InUse (q : EnrolBody) (s : State) : Prop :=
  (s.luminaires.get q.number).isSome = true ∨ ∃ p ∈ s.luminaires, p.2.branch.val = q.branch ∧ p.2.node = q.node

theorem enrol_outOfRange {body : List Byte} {q : EnrolBody} (hbody : enrolBody body = some q) (h : ¬q.InRange) (s : State) :
    enrol body s = (s, .refused .outOfRange) := by
  unfold enrol
  simp only [hbody]
  split
  · rename_i b c f hb hc hf
    refine if_pos ?_
    by_contra hok
    refine h ?_
    simp only [not_or, Bool.not_eq_true', Bool.not_eq_false, groupsInRange_iff, luminairePositions, Nat.not_le] at hok
    obtain ⟨hnumber, hnode, hnode', hcount, hnodup, hgroups⟩ := hok
    have hb8 : q.branch < 8 := Nat.lt_of_not_le fun hle => nomatch hb.symm.trans (branchOf_of_le hle)
    have hc8 : q.cls < 8 := Nat.lt_of_not_le fun hle => nomatch hc.symm.trans (branchOf_of_le hle)
    exact ⟨hnumber, hb8, Nat.pos_of_ne_zero hnode, hnode', hc8, flagOf_one_iff.mp ⟨f, hf⟩, hcount, hnodup, hgroups⟩
  · rfl

theorem enrol_inRange {body : List Byte} {q : EnrolBody} (hbody : enrolBody body = some q) (h : q.InRange) :
    ∃ b c : Fin 8, ∃ f : Bool, q.branch = b ∧ q.cls = c ∧ flagOf q.inService = some f ∧ ∀ s, enrol body s =
      if s.luminaires.has q.number ∨ addressTaken s q.number b q.node then (s, .refused .exists_)
      else if !groupsDefined s q.groups then (s, .refused .noSuchRecord)
      else if !groupsHaveRoom s q.number q.groups then (s, .refused .full)
      else (storeRecord q.number (newRecord s q b c f) s, .done []) := by
  obtain ⟨hnumber, hb, hnode, hnode', hc, hflag, hgroups⟩ := h
  obtain ⟨f, hf⟩ := flagOf_one_iff.mpr hflag
  refine ⟨⟨q.branch, hb⟩, ⟨q.cls, hc⟩, f, rfl, rfl, hf, fun s => ?_⟩
  have hcount : groupsInRange q.groups = true := (groupsInRange_iff _).mpr hgroups
  unfold enrol
  simp only [hbody, branchOf, hb, hc, hf, dif_pos]
  refine if_neg ?_
  rintro (hle | hzero | hle | hnot)
  · exact absurd hnumber (Nat.not_lt.mpr hle)
  · omega
  · omega
  · rw [hcount] at hnot
    exact (nomatch hnot)

theorem inUse_iff {q : EnrolBody} {b : Fin 8} (hb : q.branch = b) (s : State) :
    q.InUse s ↔ (s.luminaires.has q.number = true ∨ addressTaken s q.number b q.node = true) := by
  rw [addressTaken_iff]
  refine or_congr_right' fun hnumber => ?_
  have hnone : s.luminaires.get q.number = none := by
    simpa using hnumber
  constructor
  · rintro ⟨p, hp, hbranch, hnode⟩
    exact ⟨p, hp, Table.key_ne_of_get_none hnone p hp, Fin.ext (hbranch.trans hb), hnode⟩
  · rintro ⟨p, hp, _, hbranch, hnode⟩
    exact ⟨p, hp, (congrArg Fin.val hbranch).trans hb.symm, hnode⟩

/-- ENROL's refusals, in the order of its checks (R4, R5). -/
theorem enrol_refused {s : State} {tag : Byte} {body : List Byte} (hs : Serves s) (hb : body.length ≤ 248)
    {r : Reason} (h : enrol body (atOwner s) = (atOwner s, .refused r)) :
    exec (.enrol tag body) s = .next (answered s (refusal tag r)) :=
  request_refused 0x10 tag body s enrol r hs hb (by decide) rfl h

theorem newRecord_darkless (s : State) (q : EnrolBody) (b c : Fin 8) (f : Bool) (groups : Table Group) (t : Bool) :
    (t || (groups.any fun p => darkIn none p.1 && !darkIn (some (newRecord s q b c f)) p.1) || entersDue none
      (some (newRecord s q b c f))) = (t || (newRecord s q b c f).state == .due) := by
  have hnone : (groups.any fun p => darkIn none p.1 && !darkIn (some (newRecord s q b c f)) p.1) = false :=
    List.any_eq_false.mpr fun p _ => Bool.false_ne_true
  rw [hnone, Bool.or_false]
  exact congrArg (t || ·) (Bool.and_true _)

theorem storedLuminaire_congr {s u : State} (h : u.slots = s.slots) (n : Nat) (l : Luminaire) :
    storedLuminaire u n l = storedLuminaire s n l := by
  unfold storedLuminaire slotOf
  rw [h]

theorem Served.slots {failed : Bool} {r : Reply} {base u : State} (h : Served failed r base u) : u.slots = base.slots := by
  rw [show u = _ from h.1]

theorem storeItem_luminaires (s : State) (n : Nat) (m : Image) : (storeItem s (.luminaire n) m).luminaires =
    m.luminaires.set n ((s.luminaires.get n).map (storedLuminaire s n)) := rfl

/-- A record's write lands as the item of the record it leaves (R206). -/
theorem Recorded.image_luminaire {n : Nat} {l : Luminaire} {r : Reply} {base u : State} (h : Recorded n (some l) r base u)
    (hlands : writeFails base = false) :
    u.image.luminaires.get n = (u.luminaires.get n).map (storedLuminaire u n) := by
  have hnew : u.luminaires.get n = some l := h.moves_some.1
  have hwritten : (withRecords base (putLum n (some l) (atOwner base))).luminaires.get n = some l := by
    change (putLum n (some l) (atOwner base)).luminaires.get n = some l
    rw [get_putLum, if_pos rfl]
  have hslots : u.slots = base.slots := h.served.slots
  rw [h.image hlands, hnew, storeItem_luminaires, hwritten]
  refine (Table.get_put_self _ _ _).trans ?_
  rw [Option.map_some, storedLuminaire_congr hslots]
  rfl

/-- A record that waits and was not in the schedule list before comes to stand in it (R59). -/
theorem Recorded.mem_schedule {n : Nat} {l : Luminaire} {r : Reply} {base u : State} (h : Recorded n (some l) r base u)
    (hbefore : base.luminaires.get n = none) (hwaits : l.state.waits = true) : n ∈ u.schedule := by
  have hkey : listKey (some l) = some l.due := if_pos hwaits
  have hold : listKey ((atOwner base).luminaires.get n) = none := by
    rw [show (atOwner base).luminaires.get n = none from hbefore]
    rfl
  rw [h.schedule, putLum_relisted, hold, hkey]
  exact mem_insertDue.mpr (.inl rfl)

theorem waitState_due (s : State) (due : Nat) : (waitState s due == .due) = decide (s.quality ≠ .unset ∧ due ≤ s.campus) := by
  unfold waitState
  split <;> simp [*]

/-- Settles O15: the refusals by ENROL's chain of checks; otherwise the new record is stored at a position unused before. -/
theorem enrolCreatesTheRecord : Obligations.EnrolCreatesTheRecord := by
  unfold Obligations.EnrolCreatesTheRecord
  refine ⟨fun s tag body q hs hlen hbody => ?_, fun s tag body q b c inService hs hlen hbody hbranch hcls hflag hnumber hnode
    hnode' hcount hnodup hgroups hfree haddress => ?_⟩
  · refine ⟨fun h => enrol_refused hs hlen (enrol_outOfRange hbody h _), fun hrange hused => ?_,
      fun hrange hunused hundefined => ?_, fun hrange hunused hdefined hfull => ?_⟩
    all_goals
      obtain ⟨b, c, f, hb, hc, hf, howner⟩ := enrol_inRange hbody hrange
      refine enrol_refused hs hlen ((howner (atOwner s)).trans ?_)
    · exact if_pos ((inUse_iff hb (atOwner s)).mp hused)
    · rw [if_neg fun h => hunused ((inUse_iff hb (atOwner s)).mpr h)]
      exact if_pos (Bool.not_eq_true' _ |>.mpr (Bool.eq_false_iff.mpr fun h =>
        hundefined ((groupsDefined_iff (atOwner s) _).mp h)))
    · have hok : groupsDefined (atOwner s) q.groups = true := (groupsDefined_iff (atOwner s) _).mpr hdefined
      rw [if_neg fun h => hunused ((inUse_iff hb (atOwner s)).mpr h), hok,
        (groupsHaveRoom_false_iff (atOwner s) _ _).mpr hfull]
      rfl
  · have hrange : q.InRange := ⟨hnumber, by omega, hnode, hnode', by omega, by rw [hflag]; cases inService <;> simp, hcount,
      hnodup, fun g hg => (hgroups g hg).1⟩
    obtain ⟨b', c', f, hb, hc, hf, howner⟩ := enrol_inRange hbody hrange
    obtain rfl : b' = b := Fin.ext (hb.symm.trans hbranch)
    obtain rfl : c' = c := Fin.ext (hc.symm.trans hcls)
    obtain rfl : f = inService := by
      rw [hflag, flagOf_ite] at hf
      exact (Option.some.inj hf).symm
    have hunused : ¬(Table.has (atOwner s).luminaires q.number = true ∨ addressTaken (atOwner s) q.number b' q.node = true) := by
      rw [← inUse_iff hb]
      rintro (hsome | ⟨p, hp, hpb, hpn⟩)
      · rw [show (atOwner s).luminaires.get q.number = none from hfree] at hsome
        exact (nomatch hsome)
      · exact haddress p hp ⟨Fin.ext (hpb.trans hbranch), hpn⟩
    have hdefined : groupsDefined (atOwner s) q.groups = true := (groupsDefined_iff _ _).mpr fun g hg => by
      obtain ⟨r, hr, _⟩ := (hgroups g hg).2
      exact Option.isSome_iff_exists.mpr ⟨r, hr⟩
    have hroom : groupsHaveRoom (atOwner s) q.number q.groups = true := groupsHaveRoom_of fun g hg => by
      obtain ⟨r, hr, hlt⟩ := (hgroups g hg).2
      exact ⟨r, hr, .inr hlt⟩
    have hstores := howner (atOwner s)
    rw [if_neg hunused, hdefined, hroom] at hstores
    obtain ⟨u, hexec, hrecorded⟩ := request_recorded 0x10 tag body s s enrol [] q.number (some (newRecord s q b' c' f)) hs hlen
      (by decide) rfl hstores hs.2.1
    refine ⟨u, hexec, hrecorded.moves_some, fun hin => ?_, ?_, hrecorded.image_luminaire, hrecorded.served⟩
    · refine hrecorded.mem_schedule hfree ?_
      rw [hin]
      exact waitState_waits s q.due
    · rw [hrecorded.trigger, putLum_trigger_eq, show (atOwner s).luminaires.get q.number = none from hfree,
        newRecord_darkless]
      refine (Bool.false_or _).trans ?_
      cases f
      · rfl
      · exact (waitState_due s q.due).trans (Bool.true_and _).symm

/-! ### AMEND -/

theorem exec_amend (tag : Byte) (body : List Byte) (s : State) : exec (.amend tag body) s = request 0x12 tag body s := rfl

/-- AMEND when every check passes: the checks of the old address are removed when a new one is given. -/
theorem amend_stores {s : State} {body : List Byte} {q : AmendBody} {p : AmendParts} {l : Luminaire}
    (hbody : amendBody body = some q) (hparts : amendParts q = some p) (hnumber : q.number < 3072)
    (hl : s.luminaires.get q.number = some l) (hsome : p ≠ ⟨none, none, none⟩)
    (hfree : p.address.isSome = true → l.state.holdsSlot = false)
    (haddress : ∀ a, p.address = some a → ∀ x ∈ s.luminaires, x.1 ≠ q.number → ¬(x.2.branch = a.1 ∧ x.2.node = a.2))
    (hgroups : ∀ gs, p.groups = some gs → ∀ g ∈ gs, ∃ r, s.groups.get g = some r ∧
      (q.number ∈ r.members ∨ r.members.length < 64)) :
    amend body s = (storeRecord q.number (l.amended p) (if p.address.isSome then dropChecks l.branch q.number s else s),
      .done []) := by
  have hgroup : ∀ g ∈ p.groups.getD [], ∃ r, s.groups.get g = some r ∧ (q.number ∈ r.members ∨ r.members.length < 64) := by
    cases hp : p.groups with
    | none => exact fun g hg => nomatch hg
    | some gs => exact hgroups gs hp
  have hdefined : groupsDefined s (p.groups.getD []) = true := (groupsDefined_iff _ _).mpr fun g hg => by
    obtain ⟨r, hr, _⟩ := hgroup g hg
    exact Option.isSome_iff_exists.mpr ⟨r, hr⟩
  have hnotTaken : (p.address.any fun a => addressTaken s q.number a.1 a.2) ≠ true := fun htaken => by
    obtain ⟨a, ha, hany⟩ := (Option.any_eq_true _ _).mp htaken
    obtain ⟨x, hx, hne, hsame⟩ := (addressTaken_iff _ _ _ _).mp hany
    exact haddress a ha x hx hne hsame
  unfold amend
  simp only [hbody, hparts]
  rw [withRecord_found _ hnumber hl, if_neg fun h => absurd h.2 (Bool.eq_false_iff.mp (hfree h.1)), if_neg hnotTaken, hdefined,
    groupsHaveRoom_of hgroup]
  exact if_neg hsome

/-- Settles O17: the parts are stored in one write; a new address drops the queued CHECKs of the old one. -/
theorem amendChangesEachPartGiven : Obligations.AmendChangesEachPartGiven := by
  unfold Obligations.AmendChangesEachPartGiven
  intro s tag body q p l hs hlen hbody hparts hnumber hl hsome hfree haddress hgroups
  have howner := amend_stores (s := atOwner s) hbody hparts hnumber hl hsome hfree haddress hgroups
  rw [exec_amend]
  generalize q.number = n at *
  obtain ⟨cls, groups, address⟩ := p
  cases address with
  | none =>
    obtain ⟨u, hexec, hrecorded⟩ := request_recorded 0x12 tag body s s amend [] n (some (l.amended ⟨cls, groups, none⟩)) hs hlen
      (by decide) rfl howner hs.2.1
    have hu : u = _ := hrecorded.served.1
    have hbranches : u.branches = s.branches := by rw [hu]; rfl
    have hchecks : u.checkPending = s.checkPending := by rw [hu]; rfl
    refine ⟨u, hexec, hrecorded.moves_some, fun _ => hbranches, fun h => (nomatch h), ?_⟩
    rw [hbranches, hchecks]
    exact hrecorded.served
  | some a =>
    have honly := dropChecks_only l.branch n s
    have hsending : (dropChecks l.branch n s).sending = none := by rw [honly]; exact hs.2.1
    obtain ⟨u, hexec, hrecorded⟩ := request_recorded 0x12 tag body s (dropChecks l.branch n s) amend [] n
      (some (l.amended ⟨cls, groups, some a⟩)) hs hlen (by decide) rfl
      (howner.trans (by rw [← dropChecks_atOwner]; rfl)) hsending
    have hfails : writeFails (dropChecks l.branch n s) = writeFails s := by unfold writeFails; rw [honly]
    rw [hfails] at hrecorded
    obtain ⟨hbranches, hserved⟩ := hrecorded.served_dropChecks
    exact ⟨u, hexec, hrecorded.moves_some.of_base (by rw [honly]) (by rw [honly]),
      fun h => (nomatch h), fun _ => hbranches.trans (dropChecks_branches _ _ _), hserved⟩

end Sys2Proof.Machine
end

section
/-! PROOFS. Recalls, STOP-TEST and the timers of a slot (R93, R95, R100, R101, R105 to R108, R118). -/

namespace Sys2Proof.Machine

/-! ### A record whose darkness stays -/

/-- A change that leaves groups and darkness as they were and does not enter DUE is no trigger. -/
theorem putLum_trigger_undue {n : Nat} {l l' : Luminaire} {s : State} (hl : s.luminaires.get n = some l)
    (hg : l'.groups = l.groups) (hd : l'.dark = l.dark) (hdue : l'.state ≠ .due) : (putLum n (some l') s).trigger = s.trigger := by
  have hfalls : (s.groups.any fun p => darkIn (some l) p.1 && !darkIn (some l') p.1) = false :=
    List.any_eq_false.mpr fun p _ => by
      have hsame : darkIn (some l') p.1 = darkIn (some l) p.1 := by simp [darkIn, hg, hd]
      rw [hsame, Bool.and_not_self]
      exact Bool.false_ne_true
  have henters : entersDue (some l) (some l') = false := by
    unfold entersDue
    rw [Option.any_some, beq_eq_false_iff_ne.mpr hdue, Bool.false_and]
  rw [putLum_trigger_eq, hl, hfalls, henters, Bool.or_false, Bool.or_false]

theorem modLum_some {n : Nat} {l : Luminaire} {s : State} (hl : s.luminaires.get n = some l) (f : Luminaire → Luminaire) :
    modLum n f s = putLum n (some (f l)) s := by
  unfold modLum
  rw [hl]

/-- A record outside the schedule list, before and after, leaves the list. -/
theorem putLum_schedule_kept {n : Nat} {new : Option Luminaire} {s : State}
    (h : listKey (s.luminaires.get n) = listKey new) : (putLum n new s).schedule = s.schedule := by
  rw [putLum_relisted, if_pos h]

/-! ### Going CLOSING -/

theorem branches_set_ext {v w : Vector Branch 8} {b : Fin 8} {x : Branch} (hb : w[b] = x)
    (ho : ∀ a : Fin 8, a ≠ b → w[a] = v[a]) : w = v.set b x := by
  ext j hj : 1
  rw [Vector.getElem_set]
  split
  · rename_i hbj
    subst hbj
    exact hb
  · rename_i hbj
    exact ho ⟨j, hj⟩ fun h => hbj (congrArg Fin.val h).symm

theorem works_of_ready {st : BranchState} (h : st = .ready) : st.works = true := by
  rw [h]
  rfl

theorem enter_other {l : Luminaire} {st : LumState} (h : st ≠ l.state) :
    l.enter st = { l with state := st, blockedBy := if st = .due then l.blockedBy else none } := if_neg h

theorem enter_stopping {l : Luminaire} (h : l.state = .testing) :
    l.enter .stopping = { l with state := .stopping, blockedBy := none } := by
  rw [enter_other (by rw [h]; decide)]
  rfl

/-- What going CLOSING touches: the slots, the branches and the records. -/
def OnlyTest (s t : State) : Prop := t = { withRecords s t with slots := t.slots, branches := t.branches, trigger := t.trigger }

theorem OnlyTest.trans {s t u : State} (h1 : OnlyTest s t) (h2 : OnlyTest t u) : OnlyTest s u := by
  unfold OnlyTest at *
  rw [h2, h1]
  rfl

theorem OnlyTables.onlyTest {s t : State} (h : OnlyTables s t) : OnlyTest s t := by
  unfold OnlyTest
  rw [show t = _ from h]
  rfl

theorem OnlyBranches.onlyTest {s t : State} (h : OnlyBranches s t) : OnlyTest s t := by
  unfold OnlyTest
  rw [show t = _ from h]
  rfl

theorem close_onlyTest (k : Nat) (sl : Slot) (s : State) : OnlyTest s (close k sl s) :=
  (OnlyTest.trans (t := { s with slots := s.slots.put k sl.closed }) rfl (unqueue_only _ _ _).onlyTest).trans
    ((modLum_tables _ _ _).onlyTest.trans (queueStop_only _ _ _).onlyTest)

/-- Slot `k`, RUNNING the test of luminaire `n` on branch `b`, has gone CLOSING with the contents `after`: its STOP stands in
place of its READs and its luminaire is STOPPING (R95, R100, R106). -/
structure Closed (k n : Nat) (b : Fin 8) (after : Slot) (l : Luminaire) (s u : State) : Prop where
  slots : u.slots = s.slots.put k after
  branches : u.branches = s.branches.set b { s.branches[b] with
    queue := (s.branches[b].queue.filter fun e => !isReadOf k n e) ++ [stopExchange l.node n (.slot k n) true] }
  moves : RecordMoves n (some { l with state := .stopping, blockedBy := none }) s u
  trigger : u.trigger = s.trigger
  schedule : u.schedule = s.schedule
  only : OnlyTest s u

theorem beforeStop_moves {k n : Nat} {sl : Slot} {l : Luminaire} {s : State} (hn : sl.luminaire = n)
    (hl : s.luminaires.get n = some l) (hst : l.state = .testing) :
    RecordMoves n (some { l with state := .stopping, blockedBy := none }) s (beforeStop k sl s) ∧
      (beforeStop k sl s).trigger = s.trigger ∧ (beforeStop k sl s).schedule = s.schedule := by
  subst hn
  have hmod : beforeStop k sl s = putLum sl.luminaire (some { l with state := .stopping, blockedBy := none })
      (unqueue sl.branch (isReadOf k sl.luminaire) { s with slots := s.slots.put k sl.closed }) := by
    unfold beforeStop
    rw [← enter_stopping hst]
    exact modLum_some (s := unqueue sl.branch (isReadOf k sl.luminaire) { s with slots := s.slots.put k sl.closed }) hl _
  have hkey : listKey (s.luminaires.get sl.luminaire) = listKey (some { l with state := .stopping, blockedBy := none }) := by
    rw [hl]
    change (if l.state.waits then some l.due else none) = none
    rw [hst]
    rfl
  have hdark : ({ l with state := .stopping, blockedBy := none } : Luminaire).dark = l.dark := by
    unfold Luminaire.dark
    rw [hst]
    rfl
  rw [hmod]
  exact ⟨recordMoves_putLum _ _ _, putLum_trigger_undue (l := l) hl rfl hdark (fun h => nomatch h), putLum_schedule_kept hkey⟩

theorem queueStop_tables (k : Nat) (sl : Slot) (s : State) : (queueStop k sl s).groups = s.groups ∧
    (queueStop k sl s).trigger = s.trigger ∧ (queueStop k sl s).schedule = s.schedule := by
  rw [show queueStop k sl s = _ from queueStop_only k sl s]
  exact ⟨rfl, rfl, rfl⟩

theorem close_closed {k n : Nat} {b : Fin 8} {sl : Slot} {l : Luminaire} {s : State} (hn : sl.luminaire = n)
    (hb : sl.branch = b) (hl : s.luminaires.get n = some l) (hst : l.state = .testing)
    (hready : s.branches[b].state = .ready) : Closed k n b sl.closed l s (close k sl s) := by
  obtain ⟨hmoves, htrigger, hschedule⟩ := beforeStop_moves (k := k) hn hl hst
  obtain ⟨more, hat, _, hmore⟩ := close_at k sl b s hb
  have htables := queueStop_tables k sl.closed (beforeStop k sl s)
  rw [hn] at hat hmore
  refine ⟨close_slots k sl s, branches_set_ext ?_ fun a ha => close_other k sl a s (hb ▸ ha), ?_, ?_, ?_,
    close_onlyTest k sl s⟩
  · rw [hat, hmore l hl (works_of_ready hready)]
  · rw [close_eq]
    exact hmoves.congr (queueStop_luminaires _ _ _) htables.1
  · rw [close_eq, htables.2.1, htrigger]
  · rw [close_eq, htables.2.2, hschedule]

/-- A recall of a RUNNING slot. -/
theorem recallSlot_closed (r : RecallReason) {k : Nat} {sl : Slot} {l : Luminaire} {s : State} (h : s.slots.get k = some sl)
    (hs : sl.status = .running) (hl : s.luminaires.get sl.luminaire = some l) (hst : l.state = .testing)
    (hready : s.branches[sl.branch].state = .ready) :
    Closed k sl.luminaire sl.branch { sl with
      status := .closing, supervision := none, endTimer := none, stopAttempts := 1
      outcome := some (sl.outcome.getD r.outcome)
      elapsedMinutes := if sl.outcome.isSome then sl.elapsedMinutes else some (elapsedNow s sl) } l s (recallSlot r k s) := by
  rw [recallSlot_running r k sl s h hs, ← recalled_eq]
  exact close_closed (fix_luminaire _ _ _) (fix_branch _ _ _) hl hst hready

theorem recallSlot_cancels (r : RecallReason) {k : Nat} {sl : Slot} {l : Luminaire} {s : State} (h : s.slots.get k = some sl)
    (hs : sl.status = .reserved) (hl : s.luminaires.get sl.luminaire = some l) : recallSlot r k s =
      putLum sl.luminaire (some { l with cancelPending := some (l.cancelPending.getD r) }) s := by
  rw [recallSlot_reserved r k sl s h hs, modLum_some hl]

/-! ### STOP-TEST -/

theorem exec_stopTest (tag : Byte) (body : List Byte) (s : State) : exec (.stopTest tag body) s = request 0x41 tag body s := rfl

theorem stopTest_outOfRange {n1 n0 : Byte} (h : 3072 ≤ be2 n1 n0) (s : State) :
    stopTest [n1, n0] s = (s, .refused .outOfRange) := if_pos h

theorem stopTest_unused {n1 n0 : Byte} {s : State} (h : be2 n1 n0 < 3072) (hl : s.luminaires.get (be2 n1 n0) = none) :
    stopTest [n1, n0] s = (s, .refused .noSuchRecord) := by
  unfold stopTest
  dsimp only
  rw [if_neg (Nat.not_le.mpr h), hl]

theorem stopTest_slotless {n1 n0 : Byte} {s : State} {l : Luminaire} (h : be2 n1 n0 < 3072)
    (hl : s.luminaires.get (be2 n1 n0) = some l) (hfree : l.state.holdsSlot = false) :
    stopTest [n1, n0] s = (s, .refused .state) := by
  unfold stopTest
  dsimp only
  rw [if_neg (Nat.not_le.mpr h), hl]
  cases slotOf s (be2 n1 n0) with
  | none => rfl
  | some p => exact if_neg (Bool.eq_false_iff.mp hfree)

theorem stopTest_recalls {n1 n0 : Byte} {s : State} {l : Luminaire} {k : Nat} {sl : Slot} (h : be2 n1 n0 < 3072)
    (hl : s.luminaires.get (be2 n1 n0) = some l) (hholds : l.state.holdsSlot = true)
    (hslot : slotOf s (be2 n1 n0) = some (k, sl)) :
    stopTest [n1, n0] s = (recallSlot .hostStop k s, .done (stopTestBytes k (be2 n1 n0) (recallSlot .hostStop k s))) := by
  unfold stopTest
  dsimp only
  rw [if_neg (Nat.not_le.mpr h), hl, hslot]
  exact if_pos hholds

theorem stopTestBytes_some {k n : Nat} {s : State} {sl : Slot} (h : s.slots.get k = some sl) : stopTestBytes k n s =
    u8 k ++ [sl.status.code] ++ optByte (sl.outcome.map TestOutcome.code) ++ optByte ((if sl.status = .reserved then
      (s.luminaires.get n).bind Luminaire.cancelPending else none).map RecallReason.code) := by
  unfold stopTestBytes
  rw [h]

/-- STOP-TEST's reply tells the slot as its recall has left it (R118). -/
theorem stopTestBytes_recalled {k n : Nat} {sl : Slot} {l : Luminaire} {s : State} (h : s.slots.get k = some sl)
    (hn : sl.luminaire = n) (hl : s.luminaires.get n = some l) :
    stopTestBytes k n (recallSlot .hostStop k s) = (match sl.status with
      | .reserved => u8 k ++ [1] ++ optByte (sl.outcome.map TestOutcome.code)
          ++ optByte (some (l.cancelPending.getD .hostStop).code)
      | .running => u8 k ++ [3] ++ optByte (some (sl.outcome.getD .cancelled).code) ++ [0, 0]
      | .closing => u8 k ++ [3] ++ optByte (sl.outcome.map TestOutcome.code) ++ [0, 0]) := by
  subst hn
  cases hs : sl.status with
  | reserved =>
    rw [recallSlot_cancels .hostStop h hs hl]
    have hslots : (putLum sl.luminaire (some { l with cancelPending := some (l.cancelPending.getD .hostStop) }) s).slots.get k =
        some sl := by
      rw [show putLum sl.luminaire _ s = _ from putLum_tables _ _ s]
      exact h
    rw [stopTestBytes_some hslots, hs, get_putLum, if_pos rfl, if_pos rfl]
    rfl
  | running =>
    rw [recallSlot_running .hostStop k sl s h hs, stopTestBytes_some (sl := sl.recalled .hostStop s), recalled_eq]
    · rfl
    · rw [close_slots]
      exact Table.get_put_self _ _ _
  | closing =>
    rw [recallSlot_closing .hostStop k sl s h hs, stopTestBytes_some h, hs]
    rfl

theorem slotOf_luminaire {s : State} {n k : Nat} {sl : Slot} (h : slotOf s n = some (k, sl)) : sl.luminaire = n :=
  beq_iff_eq.mp (List.find?_some (p := fun p : Nat × Slot => p.2.luminaire == n) h)

/-- A recall writes nothing. -/
theorem recallSlot_onlyTest (r : RecallReason) (k : Nat) (s : State) : OnlyTest s (recallSlot r k s) := by
  cases h : s.slots.get k with
  | none =>
    rw [recallSlot_none r k s h]
    rfl
  | some sl =>
    cases hs : sl.status with
    | reserved =>
      rw [recallSlot_reserved r k sl s h hs]
      exact (modLum_tables _ _ _).onlyTest
    | running =>
      rw [recallSlot_running r k sl s h hs]
      exact close_onlyTest _ _ _
    | closing =>
      rw [recallSlot_closing r k sl s h hs]
      rfl

/-- Settles O30: a recall goes by the status of its slot; STOP-TEST is the recall HOST-STOP of the luminaire's slot. -/
theorem recallsActByTheSlotsStatus : Obligations.RecallsActByTheSlotsStatus := by
  unfold Obligations.RecallsActByTheSlotsStatus
  refine ⟨fun s r k sl l hk hl => ⟨⟨rfl, rfl, rfl, rfl, rfl⟩, fun hs => ?_, fun hs hst hready => ?_,
    recallSlot_closing r k sl s hk⟩, fun s tag n1 n0 hs => ⟨fun h => ?_, fun h hl => ?_, fun l h hl hfree => ?_,
    fun l k sl h hl hholds hslot hk => ?_⟩⟩
  · refine ⟨_, rfl, ?_, ?_⟩
    · rw [recallSlot_cancels r hk hs hl]
      exact recordMoves_putLum _ _ _
    · rw [recallSlot_cancels r hk hs hl]
      exact putLum_tables _ _ _
  · have hclosed := recallSlot_closed r hk hs hl hst hready
    refine ⟨_, rfl, ?_, fun j hj => ?_, hclosed.moves, hclosed.branches, hclosed.only⟩
    · rw [hclosed.slots, Table.get_put_self]
    · rw [hclosed.slots, Table.get_put_other _ _ hj]
  · rw [exec_stopTest]
    exact request_refused 0x41 tag _ s stopTest _ hs (by simp) (by decide) rfl (stopTest_outOfRange h _)
  · rw [exec_stopTest]
    exact request_refused 0x41 tag _ s stopTest _ hs (by simp) (by decide) rfl (stopTest_unused (s := atOwner s) h hl)
  · rw [exec_stopTest]
    exact request_refused 0x41 tag _ s stopTest _ hs (by simp) (by decide) rfl (stopTest_slotless (s := atOwner s) h hl hfree)
  · have honly := recallSlot_onlyTest .hostStop k (atOwner s)
    have hsending : (recallSlot .hostStop k (atOwner s)).sending = none := by
      rw [show recallSlot .hostStop k (atOwner s) = _ from honly]
      exact hs.2.1
    have hfailed : (recallSlot .hostStop k (atOwner s)).writeFailed = false := by
      rw [show recallSlot .hostStop k (atOwner s) = _ from honly]
      rfl
    rw [exec_stopTest, request_done_settle 0x41 tag [n1, n0] s _ stopTest _ hs (by simp) (by decide) rfl
      (stopTest_recalls (s := atOwner s) h hl hholds hslot) hsending hfailed]
    exact congrArg (fun bytes => Host.Outcome.next (settle { recallSlot .hostStop k (atOwner s) with
      sending := some (doneReply tag bytes) }))
      ((stopTestBytes_recalled (s := atOwner s) hk (slotOf_luminaire hslot) hl).trans (by cases sl.status <;> rfl))

/-! ### A slot's timers -/

theorem exec_supervisionTimerExpiry (k : Nat) {s : State} (h : s.phase = .operating) :
    exec (.supervisionTimerExpiry k) s = .next (settle (supervisionExpires k (opened s))) := event_operating _ _ h

theorem exec_endTimerExpiry (k : Nat) {s : State} (h : s.phase = .operating) :
    exec (.endTimerExpiry k) s = .next (settle (endExpires k (opened s))) := event_operating _ _ h

theorem supervisionExpires_running {k : Nat} {sl : Slot} {l : Luminaire} {s : State} (h : s.slots.get k = some sl)
    (hl : s.luminaires.get sl.luminaire = some l) (hzero : sl.supervision = some 0) (hs : sl.status = .running) :
    supervisionExpires k s =
      if readWaits k sl s = false then offer sl.branch (readExchange .read l.node sl.luminaire (.slot k sl.luminaire))
        { s with slots := s.slots.put k { sl with supervision := some s.params.supervisionInterval } }
      else { s with slots := s.slots.put k { sl with supervision := some s.params.supervisionInterval } } := by
  unfold supervisionExpires
  simp only [h, hzero, hs, hl, ne_eq, not_true_eq_false, if_false]
  cases readWaits k sl s <;> rfl

theorem supervisionExpires_closing {k : Nat} {sl : Slot} {s : State} (h : s.slots.get k = some sl)
    (hzero : sl.supervision = some 0) (hs : sl.status = .closing) : supervisionExpires k s =
      queueStop k { sl with supervision := none, stopAttempts := sl.stopAttempts + 1 }
        { s with slots := s.slots.put k { sl with supervision := none, stopAttempts := sl.stopAttempts + 1 } } := by
  unfold supervisionExpires
  simp only [h, hzero, hs, ne_eq, not_true_eq_false, if_false]

theorem endExpires_running {k : Nat} {sl : Slot} {s : State} (h : s.slots.get k = some sl)
    (hzero : sl.endTimer = some 0) (hs : sl.status = .running) : endExpires k s = close k sl s := by
  unfold endExpires
  rw [h]
  exact if_pos ⟨hs, hzero⟩

/-- A slot's new timer keeps the number of places reserved and used on its branch. -/
theorem unreservedFree_timer {k : Nat} {sl sl' : Slot} {s : State} (hr : s.slots.Rising) (h : s.slots.get k = some sl)
    (hb : sl'.branch = sl.branch) (b : Fin 8) : unreservedFree { s with slots := s.slots.put k sl' } b = unreservedFree s b := by
  rw [unreservedFree_eq, unreservedFree_eq, occupiedOn_put hr h hb rfl b]

/-- Settles O31: while RUNNING the timer starts again and a READ is offered; while CLOSING the next STOP attempt follows; the end
timer's slot goes CLOSING. -/
theorem slotTimersExpire : Obligations.SlotTimersExpire := by
  unfold Obligations.SlotTimersExpire
  refine ⟨fun s k sl l hop hk hl hzero hready hr => ⟨fun hs => ?_, fun hs => ?_⟩,
    fun s k sl l hop hk hl hst hs hzero hready => ?_⟩
  · rw [exec_supervisionTimerExpiry k hop, supervisionExpires_running (s := opened s) hk hl hzero hs]
    have hfree := unreservedFree_timer (s := opened s) (sl' := { sl with
      supervision := some (opened s).params.supervisionInterval }) hr hk rfl sl.branch
    by_cases hwaits : readWaits k sl s = false ∧ 0 < unreservedFree s sl.branch
    · rw [if_pos hwaits, if_pos (show readWaits k sl (opened s) = false from hwaits.1)]
      unfold offer
      rw [if_pos (lt_of_lt_of_eq hwaits.2 hfree.symm), enqueue_ready (by exact works_of_ready hready)]
      exact congrArg Host.Outcome.next (settle_of_no_trigger _ rfl)
    · rw [if_neg hwaits]
      split
      · rename_i hnone
        unfold offer
        rw [if_neg fun hpos => hwaits ⟨hnone, lt_of_lt_of_eq hpos hfree⟩]
        exact congrArg Host.Outcome.next (settle_of_no_trigger _ rfl)
      · exact congrArg Host.Outcome.next (settle_of_no_trigger _ rfl)
  · rw [exec_supervisionTimerExpiry k hop, supervisionExpires_closing (s := opened s) hk hzero hs]
    unfold queueStop
    rw [show ({ opened s with slots := s.slots.put k { sl with supervision := none, stopAttempts := sl.stopAttempts + 1 } } :
      State).luminaires.get sl.luminaire = some l from hl]
    dsimp only
    rw [enqueue_ready (by exact works_of_ready hready)]
    exact congrArg Host.Outcome.next (settle_of_no_trigger _ rfl)
  · have hclosed := close_closed (k := k) (sl := sl) (s := opened s) rfl rfl hl hst hready
    rw [exec_endTimerExpiry k hop, endExpires_running (s := opened s) hk hzero hs]
    refine ⟨_, rfl, hclosed.slots, hclosed.moves, hclosed.branches, ?_, ?_⟩
    · rw [show close k sl (opened s) = _ from hclosed.only]
      rfl
    · rw [show close k sl (opened s) = _ from hclosed.only]
      exact ⟨rfl, rfl, rfl, rfl⟩

end Sys2Proof.Machine
end

section
/-! PROOFS. SET-OUT-OF-SERVICE and RETURN-TO-SERVICE (R13 to R15, R63). -/

namespace Sys2Proof.Machine

/-! ### Requests that leave the tests' fields changed -/

/-- A request whose owner answers DONE: the state before its passes is the owner's with the reply going out. -/
theorem request_ran (kind : Nat) (tag : Byte) (body : List Byte) (s t : State) (owner : List Byte → State → State × Answer)
    (out : List Byte) (hs : Serves s) (hb : body.length ≤ 248) (hk : kind < 256) (ho : ownerOf kind tag = some owner)
    (h : owner body (atOwner s) = (t, .done out)) (hsend : t.sending = none) :
    request kind tag body s = .next (settle { t with sending := some (storedReply t.writeFailed tag out) }) := by
  rw [request_served kind tag body s owner hs hb hk ho, h, answer_done tag out t hsend]

theorem OnlyTest.served {s t : State} (h : OnlyTest (atOwner s) t) (r : Reply) :
    Served false r { withRecords s t with slots := t.slots, branches := t.branches } { t with sending := some r } := by
  unfold OnlyTest at h
  rw [h]
  exact ⟨rfl, fun _ => ⟨rfl, rfl, rfl, rfl⟩⟩

theorem OnlyTables.served {s t : State} (h : OnlyTables (atOwner s) t) (r : Reply) :
    Served false r (withRecords s t) { t with sending := some r } := by
  unfold OnlyTables at h
  rw [h]
  exact ⟨rfl, fun _ => ⟨rfl, rfl, rfl, rfl⟩⟩

/-! ### SET-OUT-OF-SERVICE -/

theorem exec_setOutOfService (tag : Byte) (body : List Byte) (s : State) :
    exec (.setOutOfService tag body) s = request 0x14 tag body s := rfl

section
variable {n1 n0 : Byte} {n : Nat} {s : State} {l : Luminaire}

theorem setOutOfService_slotless (hnumber : be2 n1 n0 = n) (hn : n < 3072) (hl : s.luminaires.get n = some l)
    (hfree : l.state.holdsSlot = false) (hin : l.state ≠ .outOfService) : setOutOfService [n1, n0] s =
      (storeRecord n { l with state := .outOfService, blockedBy := none, recharge := none } s, .done []) := by
  subst hnumber
  have hbody : setOutOfService [n1, n0] s = _ := withRecord_found _ hn hl
  rw [hbody, if_neg (Bool.eq_false_iff.mp hfree), if_neg hin, enter_other (Ne.symm hin)]
  rfl

theorem setOutOfService_holding (hnumber : be2 n1 n0 = n) (hn : n < 3072) (hl : s.luminaires.get n = some l)
    (hholds : l.state.holdsSlot = true) : setOutOfService [n1, n0] s = (outAtRelease n l s, .done []) := by
  subst hnumber
  have hbody : setOutOfService [n1, n0] s = _ := withRecord_found _ hn hl
  rw [hbody, if_pos hholds]

theorem setOutOfService_again (hnumber : be2 n1 n0 = n) (hn : n < 3072) (hl : s.luminaires.get n = some l)
    (h : l.state = .outOfService ∨ (l.state.holdsSlot = true ∧ l.outAtRelease = true)) :
    setOutOfService [n1, n0] s = (s, .done []) := by
  subst hnumber
  have hbody : setOutOfService [n1, n0] s = _ := withRecord_found _ hn hl
  rcases h with hout | ⟨hholds, hmarked⟩
  · rw [hbody, if_neg (by rw [hout]; decide), if_pos hout]
  · rw [setOutOfService_holding rfl hn hl hholds]
    unfold outAtRelease
    rw [if_pos hmarked]

end

/-- The record with its change left to the release (R14). -/
def Luminaire.marked (l : Luminaire) : Luminaire := { l with outAtRelease := true }

theorem outAtRelease_first {n : Nat} {l : Luminaire} {s : State} (h : l.outAtRelease = false) : outAtRelease n l s =
    match l.state, slotOf s n with
    | .starting, some (k, _) => recallSlot .service k (putLum n (some l.marked) s)
    | .testing, some (k, _) => recallSlot .service k (putLum n (some l.marked) s)
    | _, _ => putLum n (some l.marked) s := by
  unfold outAtRelease
  rw [if_neg (Bool.eq_false_iff.mp h)]
  rfl

theorem outAtRelease_recalls {n k : Nat} {l : Luminaire} {sl : Slot} {s : State} (hst : l.state = .starting ∨ l.state = .testing)
    (hmarked : l.outAtRelease = false) (hslot : slotOf s n = some (k, sl)) :
    outAtRelease n l s = recallSlot .service k (putLum n (some l.marked) s) := by
  rw [outAtRelease_first hmarked, hslot]
  rcases hst with hst | hst
  · rw [hst]
  · rw [hst]

theorem outAtRelease_stopping {n : Nat} {l : Luminaire} {s : State} (hst : l.state = .stopping)
    (hmarked : l.outAtRelease = false) : outAtRelease n l s = putLum n (some l.marked) s := by
  rw [outAtRelease_first hmarked, hst]

/-- SET-OUT-OF-SERVICE on a luminaire that holds a slot is answered DONE; nothing is written. -/
theorem exec_setOutOfService_holding {s t : State} {tag n1 n0 : Byte} {n : Nat} {l : Luminaire} (hs : Serves s)
    (hnumber : be2 n1 n0 = n) (hn : n < 3072) (hl : s.luminaires.get n = some l) (hholds : l.state.holdsSlot = true)
    (h : outAtRelease n l (atOwner s) = t) (honly : OnlyTest (atOwner s) t) :
    exec (.setOutOfService tag [n1, n0]) s = .next (settle { t with sending := some (doneReply tag []) }) := by
  have hsending : t.sending = none := by
    rw [show t = _ from honly]
    exact hs.2.1
  have hfailed : t.writeFailed = false := by
    rw [show t = _ from honly]
    rfl
  rw [exec_setOutOfService]
  exact request_done_settle 0x14 tag [n1, n0] s t setOutOfService [] hs (by simp) (by decide) rfl
    (h ▸ setOutOfService_holding (s := atOwner s) hnumber hn hl hholds) hsending hfailed

theorem putLum_slots (n : Nat) (new : Option Luminaire) (s : State) : (putLum n new s).slots = s.slots := by
  rw [show putLum n new s = _ from putLum_tables n new s]
  rfl

theorem putLum_branches (n : Nat) (new : Option Luminaire) (s : State) : (putLum n new s).branches = s.branches := by
  rw [show putLum n new s = _ from putLum_tables n new s]
  rfl

theorem elapsedNow_putLum (n : Nat) (new : Option Luminaire) (s : State) (sl : Slot) :
    elapsedNow (putLum n new s) sl = elapsedNow s sl := by
  unfold elapsedNow
  rw [show putLum n new s = _ from putLum_tables n new s]
  rfl

/-- The mark leaves darkness, groups and state, so it is no trigger. -/
theorem marked_trigger {n : Nat} {l : Luminaire} {s : State} (hl : s.luminaires.get n = some l) :
    (putLum n (some l.marked) s).trigger = s.trigger := putLum_trigger hl rfl rfl rfl

theorem outAtRelease_reserved {n k : Nat} {l : Luminaire} {sl : Slot} {s : State} (hl : s.luminaires.get n = some l)
    (hst : l.state = .starting) (hmarked : l.outAtRelease = false) (hslot : slotOf s n = some (k, sl))
    (hk : s.slots.get k = some sl) (hreserved : sl.status = .reserved) : outAtRelease n l s =
      putLum n (some { l.marked with cancelPending := some (l.cancelPending.getD .service) }) (putLum n (some l.marked) s) := by
  have hn := slotOf_luminaire hslot
  subst hn
  rw [outAtRelease_recalls (.inl hst) hmarked hslot]
  refine recallSlot_cancels (l := l.marked) .service ?_ hreserved ?_
  · rw [putLum_slots]
    exact hk
  · rw [get_putLum, if_pos rfl]

theorem outAtRelease_running {n k : Nat} {l : Luminaire} {sl : Slot} {s : State} (hl : s.luminaires.get n = some l)
    (hst : l.state = .testing) (hmarked : l.outAtRelease = false) (hslot : slotOf s n = some (k, sl))
    (hk : s.slots.get k = some sl) (hrunning : sl.status = .running) (hready : s.branches[sl.branch].state = .ready) :
    Closed k n sl.branch { sl with
      status := .closing, supervision := none, endTimer := none, stopAttempts := 1
      outcome := some (sl.outcome.getD .cancelled)
      elapsedMinutes := if sl.outcome.isSome then sl.elapsedMinutes else some (elapsedNow s sl) } l.marked
      (putLum n (some l.marked) s) (outAtRelease n l s) := by
  have hn := slotOf_luminaire hslot
  subst hn
  rw [outAtRelease_recalls (.inr hst) hmarked hslot, ← elapsedNow_putLum sl.luminaire (some l.marked) s sl]
  refine recallSlot_closed (l := l.marked) .service ?_ hrunning ?_ hst ?_
  · rw [putLum_slots]
    exact hk
  · rw [get_putLum, if_pos rfl]
  · rw [putLum_branches]
    exact hready

/-! ### An OVERDUE check after a change of the record -/

/-- The record after an OVERDUE check in a state that reports it (R63). -/
def Luminaire.overdueTold (l : Luminaire) (s : State) : Luminaire :=
  { l with
    overdueReported := l.overdueReported || (l.watchArmed && overdueReached s l)
    watchArmed := l.watchArmed && !overdueReached s l }

theorem checkOverdue_told {n : Nat} {l : Luminaire} {s : State} (hl : s.luminaires.get n = some l)
    (hr : l.state.reportsOverdue = true) (h : (l.watchArmed && overdueReached s l) = true) : checkOverdue n s =
      storeRecord n (l.overdueTold s) (raise (.overdue n l.due l.blockedBy) s) := by
  obtain ⟨harmed, hreached⟩ := Bool.and_eq_true_iff.mp h
  unfold checkOverdue Luminaire.overdueTold
  rw [hl]
  dsimp only
  rw [harmed, hreached, hr]
  simp only [Bool.and_self, Bool.or_true, Bool.not_true, Bool.and_false, if_true]
  rfl

theorem checkOverdue_untold {n : Nat} {l : Luminaire} {s : State} (hl : s.luminaires.get n = some l)
    (h : (l.watchArmed && overdueReached s l) = false) : checkOverdue n s = s ∧ l.overdueTold s = l := by
  refine ⟨?_, ?_⟩
  · unfold checkOverdue
    rw [hl]
    refine if_neg ?_
    rw [Bool.and_right_comm, h]
    exact Bool.false_ne_true
  · unfold Luminaire.overdueTold
    rw [h, Bool.or_false]
    have harmed : (l.watchArmed && !overdueReached s l) = l.watchArmed := by
      cases ha : l.watchArmed with
      | false => rfl
      | true =>
        rw [ha] at h
        rw [show overdueReached s l = false from h]
        rfl
    rw [harmed]

theorem storeRecord_recordMoves (n : Nat) (l : Luminaire) (s : State) : RecordMoves n (some l) s (storeRecord n l s) := by
  refine (recordMoves_putLum n l s).congr (writeItem_luminaires _ _) ?_
  unfold storeRecord
  rw [show writeItem _ _ = _ from writeItem_only _ _]

/-- A second change of a record that keeps groups and darkness. -/
theorem RecordMoves.then_kept {n : Nat} {l l' : Luminaire} {s t u : State} (h1 : RecordMoves n (some l) s t)
    (h2 : RecordMoves n (some l') t u) (hg : l'.groups = l.groups) (hd : l'.dark = l.dark) : RecordMoves n (some l') s u := by
  obtain ⟨hnew, hother, hgroups⟩ := h1
  obtain ⟨hnew', hother', hgroups'⟩ := h2
  refine ⟨hnew', fun m hm => (hother' m hm).trans (hother m hm), fun g => ⟨fun h => (hgroups' g).1 ((hgroups g).1 h),
    fun r hr => ?_⟩⟩
  have hin : inGroup (some l') g = inGroup (some l) g := by simp [inGroup, hg]
  have hdark : darkIn (some l') g = darkIn (some l) g := by simp [darkIn, hg, hd]
  obtain ⟨r1, hr1, hcap, hcount, hjoins, hleaves, hkeeps⟩ := (hgroups g).2 r hr
  obtain ⟨r2, hr2, hcap', hcount', hjoins', _, hkeeps'⟩ := (hgroups' g).2 r1 hr1
  rw [hin, hdark] at *
  rw [hnew] at hcount' hkeeps'
  refine ⟨r2, hr2, hcap'.trans hcap, ?_, fun h => ?_, fun h ho => ?_, fun h ho => ?_⟩
  · rw [hcount', hcount]
    omega
  · rw [hjoins' h, hjoins h, insertNumber_twice]
  · rw [hkeeps' h h, hleaves h ho]
  · rw [hkeeps' h h, hkeeps h ho]

theorem checkOverdue_recordMoves {n : Nat} {l : Luminaire} {s t : State} (h : RecordMoves n (some l) s t)
    (hr : l.state.reportsOverdue = true) : RecordMoves n (some (l.overdueTold t)) s (checkOverdue n t) := by
  cases hreached : l.watchArmed && overdueReached t l with
  | false =>
    obtain ⟨hsame, hkept⟩ := checkOverdue_untold h.1 hreached
    rw [hsame, hkept]
    exact h
  | true =>
    rw [checkOverdue_told h.1 hr hreached]
    have honly : raise (.overdue n l.due l.blockedBy) t = _ := raise_only _ _
    have hmoves := (storeRecord_recordMoves n (l.overdueTold t) (raise (.overdue n l.due l.blockedBy) t)).of_base (s := t)
      (by rw [honly]) (by rw [honly])
    exact h.then_kept hmoves rfl rfl

theorem storeRecord_trigger (n : Nat) (l : Luminaire) (s : State) :
    (storeRecord n l s).trigger = (putLum n (some l) s).trigger := by
  unfold storeRecord
  rw [show writeItem _ _ = _ from writeItem_only _ _]

theorem checkOverdue_trigger {n : Nat} {l : Luminaire} {s : State} (hl : s.luminaires.get n = some l)
    (hr : l.state.reportsOverdue = true) : (checkOverdue n s).trigger = s.trigger := by
  cases hreached : l.watchArmed && overdueReached s l with
  | false => rw [(checkOverdue_untold hl hreached).1]
  | true =>
    have honly : raise (.overdue n l.due l.blockedBy) s = _ := raise_only _ _
    have hget : (raise (.overdue n l.due l.blockedBy) s).luminaires.get n = some l := by
      rw [honly]
      exact hl
    rw [checkOverdue_told hl hr hreached, storeRecord_trigger, putLum_trigger (l' := l.overdueTold s) hget rfl rfl rfl, honly]

theorem writeItem_writeFailed_or (i : Item) (s : State) : (writeItem i s).writeFailed = (s.writeFailed || writeFails s) := by
  cases hw : writeFails s with
  | false => rw [writeItem_lands i s hw, Bool.or_false]; rfl
  | true =>
    rw [writeItem_fails i s hw, failWrite_eq, show raise _ (faulted s) = _ from raise_only _ _, Bool.or_true]
    rfl

theorem storeRecord_writeFailed (n : Nat) (l : Luminaire) (s : State) :
    (storeRecord n l s).writeFailed = (s.writeFailed || writeFailsAt s 0) := by
  unfold storeRecord
  rw [writeItem_writeFailed_or, writeFails_eq_writeFailsAt, (putLum_tables n (some l) s).writeFailsAt,
    show putLum n (some l) s = _ from putLum_tables n (some l) s]
  rfl

theorem checkOverdue_writeFailed {n : Nat} {l : Luminaire} {s : State} (hl : s.luminaires.get n = some l)
    (hr : l.state.reportsOverdue = true) : (checkOverdue n s).writeFailed =
      (s.writeFailed || (l.watchArmed && overdueReached s l && writeFailsAt s 0)) := by
  cases hreached : l.watchArmed && overdueReached s l with
  | false => rw [(checkOverdue_untold hl hreached).1, Bool.false_and, Bool.or_false]
  | true =>
    rw [checkOverdue_told hl hr hreached, storeRecord_writeFailed, Bool.true_and,
      show raise (.overdue n l.due l.blockedBy) s = _ from raise_only _ _]
    rfl

theorem writeFailsAt_storeRecord (n : Nat) (l : Luminaire) (s : State) (k : Nat) :
    writeFailsAt (storeRecord n l s) k = writeFailsAt s (k + 1) := by
  unfold storeRecord
  rw [writeFailsAt_writeItem, (putLum_tables n (some l) s).writeFailsAt]

/-! ### RETURN-TO-SERVICE -/

theorem exec_returnToService (tag : Byte) (body : List Byte) (s : State) :
    exec (.returnToService tag body) s = request 0x15 tag body s := rfl

theorem reportsOverdue_of_waits {st : LumState} (h : st.waits = true) : st.reportsOverdue = true := by
  unfold LumState.reportsOverdue
  rw [h, Bool.true_or]

/-- The record back in service, before its OVERDUE check (R15). -/
def Luminaire.returned (l : Luminaire) (s : State) : Luminaire :=
  { l with
    state := waitState s l.due
    blockedBy := if s.quality ≠ .unset ∧ l.due ≤ s.campus then l.blockedBy else none }

theorem enter_waitState {l : Luminaire} (s : State) (h : l.state.waits = false) : l.enter (waitState s l.due) = l.returned s := by
  have hne : waitState s l.due ≠ l.state := fun heq => by
    have hwaits := waitState_waits s l.due
    rw [heq, h] at hwaits
    exact (nomatch hwaits)
  rw [enter_other hne]
  unfold Luminaire.returned waitState
  split <;> rfl

theorem returned_waits (l : Luminaire) (s : State) : (l.returned s).state.waits = true := waitState_waits s l.due

/-- A record that comes back to wait and is due enters DUE. -/
theorem putLum_trigger_returned {n : Nat} {l : Luminaire} {s : State} (hl : s.luminaires.get n = some l)
    (hout : l.state.waits = false) {l' : Luminaire} (hdue : l'.state = .due) : (putLum n (some l') s).trigger = true := by
  have henters : entersDue (some l) (some l') = true := by
    unfold entersDue
    have hbefore : (l.state == .due) = false := Bool.eq_false_iff.mpr fun h => by
      rw [beq_iff_eq.mp h] at hout
      exact (nomatch hout)
    rw [Option.any_some, Option.any_some, beq_iff_eq.mpr hdue, hbefore]
    rfl
  rw [putLum_trigger_eq, hl, henters, Bool.or_true]

theorem returnToService_inService {n1 n0 : Byte} {n : Nat} {s : State} {l : Luminaire} (hnumber : be2 n1 n0 = n)
    (hn : n < 3072) (hl : s.luminaires.get n = some l) (h : l.state ≠ .outOfService) :
    returnToService [n1, n0] s = (s, .refused .state) := by
  subst hnumber
  have hbody : returnToService [n1, n0] s = _ := withRecord_found _ hn hl
  rw [hbody, if_pos h]

theorem returnToService_returns {n1 n0 : Byte} {n : Nat} {s : State} {l : Luminaire} (hnumber : be2 n1 n0 = n)
    (hn : n < 3072) (hl : s.luminaires.get n = some l) (h : l.state = .outOfService) :
    returnToService [n1, n0] s = (checkOverdue n (storeRecord n (l.returned s) s), .done []) := by
  subst hnumber
  have hbody : returnToService [n1, n0] s = _ := withRecord_found _ hn hl
  rw [hbody, if_neg (not_not.mpr h), enter_waitState s (by rw [h]; rfl)]

/-- The request's writes: the record's own and, where the threshold is reached, that of overdue reported (R206). -/
theorem returned_writeFailed (n : Nat) (l : Luminaire) (s : State) (hfresh : s.writeFailed = false) :
    (checkOverdue n (storeRecord n (l.returned s) s)).writeFailed =
      (writeFailsAt s 0 || (l.watchArmed && overdueReached s l && writeFailsAt s 1)) := by
  have hget := (storeRecord_recordMoves n (l.returned s) s).1
  have hreached : overdueReached (storeRecord n (l.returned s) s) (l.returned s) = overdueReached s l :=
    overdueReached_same (storeRecord_only n (l.returned s) s).sameClock (l.returned s)
  rw [checkOverdue_writeFailed hget (reportsOverdue_of_waits (returned_waits l s)), storeRecord_writeFailed, hreached,
    writeFailsAt_storeRecord, hfresh, Bool.false_or]
  rfl

/-- A threshold reached is a due time reached (R62). -/
theorem due_of_overdueReached {s : State} {l : Luminaire} (h : overdueReached s l = true) :
    s.quality ≠ .unset ∧ l.due ≤ s.campus := by
  unfold overdueReached at h
  obtain ⟨hset, hle⟩ := Bool.and_eq_true_iff.mp h
  exact ⟨of_decide_eq_true hset, Nat.le_trans (Nat.le_add_right _ _) (of_decide_eq_true hle)⟩

theorem returned_raises {n : Nat} {l l' : Luminaire} {s : State} (hwaits : l'.state.waits = true) (hdue : l'.due = l.due)
    (harmed : l'.watchArmed = l.watchArmed)
    (hblocked : l'.blockedBy = if s.quality ≠ .unset ∧ l.due ≤ s.campus then l.blockedBy else none) :
    Raises (storeFaultIf (writeFailsAt s 0) (.luminaire n) ++ overdueNotices s n l (writeFailsAt s 1)) s
      (checkOverdue n (storeRecord n l' s)) := by
  rw [← writeFailsAt_storeRecord n l' s 0]
  exact checkOverdue_after (storeRecord_raises n l' s) (storeRecord_only n l' s) (storeRecord_recordMoves n l' s).1
    (reportsOverdue_of_waits hwaits) hdue harmed fun hreached => hblocked.trans (if_pos (due_of_overdueReached hreached))

theorem OnlyTables.trans {s t u : State} (h1 : OnlyTables s t) (h2 : OnlyTables t u) : OnlyTables s u := by
  unfold OnlyTables at *
  rw [h2, h1]
  rfl

theorem setOutOfService_reserved {s : State} {tag n1 n0 : Byte} {n k : Nat} {l : Luminaire} {sl : Slot} (hs : Serves s)
    (hnumber : be2 n1 n0 = n) (hn : n < 3072) (hl : s.luminaires.get n = some l) (hst : l.state = .starting)
    (hmarked : l.outAtRelease = false) (hslot : slotOf s n = some (k, sl)) (hk : s.slots.get k = some sl)
    (hreserved : sl.status = .reserved) : ∃ u, exec (.setOutOfService tag [n1, n0]) s = .next (settle u) ∧
      RecordMoves n (some { l with outAtRelease := true, cancelPending := some (l.cancelPending.getD .service) }) s u ∧
      Served false (doneReply tag []) (withRecords s u) u := by
  have howner := outAtRelease_reserved (s := atOwner s) hl hst hmarked hslot hk hreserved
  have hmoves := (recordMoves_putLum n l.marked (atOwner s)).then_kept (recordMoves_putLum n
    { l.marked with cancelPending := some (l.cancelPending.getD .service) } _) rfl rfl
  have honly := (putLum_tables n (some l.marked) (atOwner s)).trans (putLum_tables n
    (some { l.marked with cancelPending := some (l.cancelPending.getD .service) }) _)
  rw [← howner] at hmoves honly
  have hexec := exec_setOutOfService_holding (tag := tag) hs hnumber hn hl (by rw [hst]; rfl) rfl honly.onlyTest
  generalize outAtRelease n l (atOwner s) = t at hexec hmoves honly
  exact ⟨_, hexec, hmoves, honly.served _⟩

theorem setOutOfService_running {s : State} {tag n1 n0 : Byte} {n k : Nat} {l : Luminaire} {sl : Slot} (hs : Serves s)
    (hnumber : be2 n1 n0 = n) (hn : n < 3072) (hl : s.luminaires.get n = some l) (hst : l.state = .testing)
    (hmarked : l.outAtRelease = false) (hslot : slotOf s n = some (k, sl)) (hk : s.slots.get k = some sl)
    (hrunning : sl.status = .running) (hready : s.branches[sl.branch].state = .ready) :
    ∃ u, exec (.setOutOfService tag [n1, n0]) s = .next (settle u) ∧ u.trigger = false ∧
      u.slots = s.slots.put k { sl with
        status := .closing, supervision := none, endTimer := none, stopAttempts := 1
        outcome := some (sl.outcome.getD .cancelled)
        elapsedMinutes := if sl.outcome.isSome then sl.elapsedMinutes else some (elapsedNow s sl) } ∧
      u.branches = s.branches.set sl.branch { s.branches[sl.branch] with
        queue := (s.branches[sl.branch].queue.filter fun e => !isReadOf k n e)
          ++ [stopExchange l.node n (.slot k n) true] } ∧
      RecordMoves n (some { l with outAtRelease := true, state := .stopping, blockedBy := none }) s u ∧
      Served false (doneReply tag []) { withRecords s u with slots := u.slots, branches := u.branches } u := by
  have hclosed := outAtRelease_running (s := atOwner s) hl hst hmarked hslot hk hrunning hready
  have hmarks := recordMoves_putLum n l.marked (atOwner s)
  have htrigger := hclosed.trigger.trans (marked_trigger (s := atOwner s) hl)
  have honly := (putLum_tables n (some l.marked) (atOwner s)).onlyTest.trans hclosed.only
  have hdark : ({ l.marked with state := .stopping, blockedBy := none } : Luminaire).dark = l.marked.dark := by
    unfold Luminaire.dark
    rw [show l.marked.state = .testing from hst]
    rfl
  have hslots := hclosed.slots
  have hbranches := hclosed.branches
  rw [putLum_slots] at hslots
  rw [putLum_branches] at hbranches
  exact ⟨_, exec_setOutOfService_holding hs hnumber hn hl (by rw [hst]; rfl) rfl honly, htrigger, hslots, hbranches,
    hmarks.then_kept hclosed.moves rfl hdark, honly.served _⟩

theorem setOutOfService_stopping {s : State} {tag n1 n0 : Byte} {n : Nat} {l : Luminaire} (hs : Serves s)
    (hnumber : be2 n1 n0 = n) (hn : n < 3072) (hl : s.luminaires.get n = some l) (hst : l.state = .stopping)
    (hmarked : l.outAtRelease = false) : ∃ u, exec (.setOutOfService tag [n1, n0]) s = .next (settle u) ∧
      RecordMoves n (some { l with outAtRelease := true }) s u ∧ Served false (doneReply tag []) (withRecords s u) u := by
  have honly := putLum_tables n (some l.marked) (atOwner s)
  exact ⟨_, exec_setOutOfService_holding hs hnumber hn hl (by rw [hst]; rfl)
    (outAtRelease_stopping (s := atOwner s) hst hmarked) honly.onlyTest, recordMoves_putLum n l.marked (atOwner s),
    honly.served _⟩

theorem OnlyRecords.touches {s t : State} (h : OnlyRecords (atOwner s) t) (r : Reply) :
    Touches (withRecords { s with receiver := .hunt, sending := some r } t) { t with sending := some r } := by
  unfold OnlyRecords at h
  rw [h]
  rfl

theorem returnToService_told {s : State} {tag n1 n0 : Byte} {n : Nat} {l : Luminaire} (hs : Serves s)
    (hnumber : be2 n1 n0 = n) (hn : n < 3072) (hl : s.luminaires.get n = some l) (hout : l.state = .outOfService) :
    ∃ u, exec (.returnToService tag [n1, n0]) s = .next (settle u) ∧
      RecordMoves n (some { l with
        state := if s.quality ≠ .unset ∧ l.due ≤ s.campus then .due else .idle
        blockedBy := if s.quality ≠ .unset ∧ l.due ≤ s.campus then l.blockedBy else none
        overdueReported := l.overdueReported || (l.watchArmed && overdueReached s l)
        watchArmed := l.watchArmed && !overdueReached s l }) s u ∧
      (s.quality ≠ .unset → l.due ≤ s.campus → u.trigger = true) ∧
      Raises (storeFaultIf (writeFailsAt s 0) (.luminaire n) ++ overdueNotices s n l (writeFailsAt s 1)) s u ∧
      u.sending = some (storedReply (writeFailsAt s 0 || (l.watchArmed && overdueReached s l && writeFailsAt s 1)) tag []) ∧
      Touches (withRecords { s with receiver := .hunt, sending := u.sending } u) u := by
  have hwaits : l.state.waits = false := by rw [hout]; rfl
  have hstored := storeRecord_recordMoves n (l.returned (atOwner s)) (atOwner s)
  have hreports := reportsOverdue_of_waits (returned_waits l (atOwner s))
  have hmoves := checkOverdue_recordMoves hstored hreports
  have htrigger := checkOverdue_trigger hstored.1 hreports
  have honly := (storeRecord_only n (l.returned (atOwner s)) (atOwner s)).trans (checkOverdue_only n _)
  have hraises := returned_raises (n := n) (l := l) (s := atOwner s) (returned_waits l (atOwner s)) rfl rfl rfl
  have hfailed := returned_writeFailed n l (atOwner s) rfl
  have hsame : (l.returned (atOwner s)).overdueTold (storeRecord n (l.returned (atOwner s)) (atOwner s)) = { l with
      state := if s.quality ≠ .unset ∧ l.due ≤ s.campus then .due else .idle
      blockedBy := if s.quality ≠ .unset ∧ l.due ≤ s.campus then l.blockedBy else none
      overdueReported := l.overdueReported || (l.watchArmed && overdueReached s l)
      watchArmed := l.watchArmed && !overdueReached s l } := by
    unfold Luminaire.overdueTold
    rw [overdueReached_same (storeRecord_only n (l.returned (atOwner s)) (atOwner s)).sameClock]
    rfl
  rw [hsame] at hmoves
  have howner := returnToService_returns (s := atOwner s) hnumber hn hl hout
  generalize checkOverdue n (storeRecord n (l.returned (atOwner s)) (atOwner s)) = t at *
  have hsending : t.sending = none := by
    rw [show t = _ from honly]
    exact hs.2.1
  refine ⟨_, request_ran 0x15 tag [n1, n0] s t returnToService [] hs (by simp) (by decide) rfl howner hsending, hmoves,
    fun hset hdue => ?_, hraises, ?_, honly.touches _⟩
  · refine htrigger.trans ((storeRecord_trigger _ _ _).trans ?_)
    exact putLum_trigger_returned (s := atOwner s) hl hwaits (if_pos ⟨hset, hdue⟩)
  · rw [hfailed]
    rfl

/-- Settles O19: the change is written at once from a state without a slot and left to the release from a state with one;
RETURN-TO-SERVICE stores the record that waits again and then checks its threshold. -/
theorem serviceIsLeftAndEntered : Obligations.ServiceIsLeftAndEntered := by
  unfold Obligations.ServiceIsLeftAndEntered
  refine ⟨fun s tag n1 n0 l => ?_, fun s tag n1 n0 l => ?_⟩
  · generalize hnumber : be2 n1 n0 = n
    intro hs hn hl
    refine ⟨fun hfree hin => ?_, fun hagain => ?_, fun _ _ => setOutOfService_reserved hs hnumber hn hl,
      fun _ _ => setOutOfService_running hs hnumber hn hl, setOutOfService_stopping hs hnumber hn hl⟩
    · obtain ⟨u, hexec, hrecorded⟩ := request_recorded 0x14 tag [n1, n0] s s setOutOfService [] n _ hs (by simp)
        (by decide) rfl (setOutOfService_slotless (s := atOwner s) hnumber hn hl hfree hin) hs.2.1
      exact ⟨u, hexec, hrecorded.moves_some, hrecorded.served⟩
    · rw [exec_setOutOfService]
      exact request_unchanged 0x14 tag _ s setOutOfService _ hs (by simp) (by decide) rfl
        (setOutOfService_again (s := atOwner s) hnumber hn hl hagain)
  · generalize hnumber : be2 n1 n0 = n
    intro hs hn hl
    refine ⟨fun hin => ?_, returnToService_told hs hnumber hn hl⟩
    rw [exec_returnToService]
    exact request_refused 0x15 tag _ s returnToService _ hs (by simp) (by decide) rfl
      (returnToService_inService (s := atOwner s) hnumber hn hl hin)

end Sys2Proof.Machine
end

section
/-! PROOFS. The class table and the group table (R16, R17, R30 to R32). -/

namespace Sys2Proof.Machine

/-! ### SET-CLASS -/

theorem exec_setClass (tag : Byte) (body : List Byte) (s : State) : exec (.setClass tag body) s = request 0x18 tag body s := rfl

theorem classInRange_iff (c : TestClass) : c.inRange = true ↔
    30 ≤ c.rated ∧ c.rated ≤ 240 ∧ 30 ≤ c.period ∧ c.period ≤ 400 ∧ 1 ≤ c.retest ∧ c.retest ≤ 60 ∧
      1000 ≤ c.normalMin ∧ c.normalMin ≤ 15000 ∧ 1000 ≤ c.warmMin ∧ c.warmMin ≤ 15000 := by
  unfold TestClass.inRange
  simp only [Bool.and_eq_true, decide_eq_true_eq, and_assoc]

section
variable {i a1 a0 b1 b0 c1 c0 d1 d0 e1 e0 : Byte} {c : TestClass}

theorem setClass_refused (hc : (⟨be2 a1 a0, be2 b1 b0, be2 c1 c0, be2 d1 d0, be2 e1 e0⟩ : TestClass) = c)
    (h : ¬(i.toNat < 8 ∧ c.inRange = true)) (s : State) :
    setClass [i, a1, a0, b1, b0, c1, c0, d1, d0, e1, e0] s = (s, .refused .outOfRange) := by
  unfold setClass
  dsimp only
  rw [hc]
  by_cases hi : i.toNat < 8
  · rw [show branchOf i.toNat = some ⟨i.toNat, hi⟩ from dif_pos hi]
    exact if_neg fun hrange => h ⟨hi, hrange⟩
  · rw [branchOf_of_le (Nat.not_lt.mp hi)]

theorem setClass_stores (hc : (⟨be2 a1 a0, be2 b1 b0, be2 c1 c0, be2 d1 d0, be2 e1 e0⟩ : TestClass) = c) (hi : i.toNat < 8)
    (hrange : c.inRange = true) (s : State) : setClass [i, a1, a0, b1, b0, c1, c0, d1, d0, e1, e0] s =
      (writeItem (.cls (⟨i.toNat, hi⟩ : Fin 8)) { s with classes := s.classes.set i.toNat c }, .done []) := by
  unfold setClass
  dsimp only
  rw [hc, show branchOf i.toNat = some ⟨i.toNat, hi⟩ from dif_pos hi]
  exact if_pos hrange

end

theorem setClass_told {s : State} {tag i a1 a0 b1 b0 c1 c0 d1 d0 e1 e0 : Byte} {c : TestClass} (hs : Serves s)
    (hc : (⟨be2 a1 a0, be2 b1 b0, be2 c1 c0, be2 d1 d0, be2 e1 e0⟩ : TestClass) = c) (hi : i.toNat < 8)
    (hrange : c.inRange = true) :
    ∃ u, exec (.setClass tag [i, a1, a0, b1, b0, c1, c0, d1, d0, e1, e0]) s = .next (settle u) ∧ u.trigger = false ∧
      u.classes = s.classes.set i.toNat c ∧
      (writeFails s = false → u.image.classes = s.image.classes.set i.toNat c) ∧
      Served (writeFails s) (storedReply (writeFails s) tag []) { s with classes := u.classes } u := by
  have howner := setClass_stores (i := i) hc hi hrange (atOwner s)
  rw [← triggerIf_off (writeItem _ _)] at howner
  obtain ⟨u, hexec, htrigger, hserved, himage⟩ := request_written_served 0x18 tag _ s
    { s with classes := s.classes.set i.toNat c } setClass [] (.cls (⟨i.toNat, hi⟩ : Fin 8)) false hs (by simp) (by decide) rfl
    howner hs.2.1
  have hclasses : u.classes = s.classes.set i.toNat c := congrArg State.classes hserved.1
  refine ⟨u, hexec, htrigger, hclasses, fun hlands => ?_, ?_⟩
  · rw [himage hlands, storeItem_cls]
    change s.image.classes.set i.toNat (s.classes.set i.toNat c)[i.toNat] = _
    rw [Vector.getElem_set_self]
  · rw [hclasses]
    exact hserved

/-! ### DEFINE-GROUP and DROP-GROUP -/

theorem exec_defineGroup (tag : Byte) (body : List Byte) (s : State) :
    exec (.defineGroup tag body) s = request 0x20 tag body s := rfl

theorem exec_dropGroup (tag : Byte) (body : List Byte) (s : State) :
    exec (.dropGroup tag body) s = request 0x21 tag body s := rfl

section
variable {g1 g0 c : Byte} {g : Nat} {s : State}

theorem defineGroup_refused (hg : be2 g1 g0 = g) (h : 384 ≤ g ∨ c = 0 ∨ 15 < c.toNat) :
    defineGroup [g1, g0, c] s = (s, .refused .outOfRange) := by
  subst hg
  refine if_pos ?_
  rcases h with h | h | h
  · exact .inl h
  · exact .inr (.inl (by rw [h]; rfl))
  · exact .inr (.inr h)

theorem defineGroup_inRange (hg : be2 g1 g0 = g) (h : g < 384) (hlow : 1 ≤ c.toNat) (hhigh : c.toNat ≤ 15) :
    defineGroup [g1, g0, c] s =
      if (s.groups.get g).any fun r => r.cap == c.toNat then (s, .done [])
      else (triggerIf ((s.groups.get g).any fun r => r.cap < c.toNat)
        (writeItem (.group g) { s with groups := s.groups.put g (groupDefined (s.groups.get g) c.toNat) }), .done []) := by
  subst hg
  refine if_neg ?_
  rintro (hle | hzero | hgt)
  · exact Nat.not_lt.mpr hle h
  · omega
  · omega

theorem dropGroup_inRange (hg : be2 g1 g0 = g) (h : g < 384) : dropGroup [g1, g0] s =
    match s.groups.get g with
    | none => (s, .refused .noSuchRecord)
    | some r =>
      if r.members ≠ [] then (s, .refused .notEmpty)
      else (writeItem (.group g) { s with groups := s.groups.drop g }, .done []) := by
  subst hg
  exact if_neg (Nat.not_le.mpr h)

end

/-- A request that replaces the group table and writes one group's item. -/
theorem request_groups (kind : Nat) (tag : Byte) (body : List Byte) (s : State) (owner : List Byte → State → State × Answer)
    (g : Nat) (groups : Table Group) (trig : Bool) (hs : Serves s) (hb : body.length ≤ 248) (hk : kind < 256)
    (ho : ownerOf kind tag = some owner)
    (h : owner body (atOwner s) = (triggerIf trig (writeItem (.group g) { atOwner s with groups := groups }), .done [])) :
    ∃ u, request kind tag body s = .next (settle u) ∧ u.trigger = trig ∧ u.groups = groups ∧
      Served (writeFails s) (storedReply (writeFails s) tag []) { s with groups := u.groups } u := by
  obtain ⟨u, hexec, htrigger, hserved, _⟩ := request_written_served kind tag body s { s with groups := groups } owner []
    (.group g) trig hs hb hk ho h hs.2.1
  have hgroups : u.groups = groups := hserved.groups
  refine ⟨u, hexec, htrigger, hgroups, ?_⟩
  rw [hgroups]
  exact hserved

theorem groupDefined_eq (r? : Option Group) (cap : Nat) : groupDefined r? cap = match r? with
    | none => ⟨cap, [], 0⟩
    | some r => { r with cap := cap } := by
  cases r? <;> rfl

theorem defineGroup_told {s : State} {tag g1 g0 c : Byte} {g : Nat} (hs : Serves s) (hg : be2 g1 g0 = g) (h : g < 384)
    (hlow : 1 ≤ c.toNat) (hhigh : c.toNat ≤ 15) (hnew : ∀ r, s.groups.get g = some r → r.cap ≠ c.toNat) :
    ∃ u, exec (.defineGroup tag [g1, g0, c]) s = .next (settle u) ∧
      u.groups.get g = some (groupDefined (s.groups.get g) c.toNat) ∧ (∀ h, h ≠ g → u.groups.get h = s.groups.get h) ∧
      (u.trigger = true ↔ ∃ r, s.groups.get g = some r ∧ r.cap < c.toNat) ∧
      Served (writeFails s) (storedReply (writeFails s) tag []) { s with groups := u.groups } u := by
  have hdiffers : ¬((atOwner s).groups.get g).any (fun r => r.cap == c.toNat) = true := fun hany => by
    obtain ⟨r, hr, hcap⟩ := (Option.any_eq_true _ _).mp hany
    exact hnew r hr (beq_iff_eq.mp hcap)
  obtain ⟨u, hexec, htrigger, hgroups, hserved⟩ := request_groups 0x20 tag [g1, g0, c] s defineGroup g _ _ hs (by simp)
    (by decide) rfl ((defineGroup_inRange (s := atOwner s) hg h hlow hhigh).trans (if_neg hdiffers))
  refine ⟨u, hexec, ?_, fun j hj => ?_, ?_, hserved⟩
  · rw [hgroups]
    exact Table.get_put_self _ _ _
  · rw [hgroups]
    exact Table.get_put_other _ _ hj
  · rw [htrigger, Option.any_eq_true]
    simp only [decide_eq_true_eq]
    rfl

theorem dropGroup_told {s : State} {tag g1 g0 : Byte} {g : Nat} {r : Group} (hs : Serves s) (hg : be2 g1 g0 = g) (h : g < 384)
    (hr : s.groups.Rising) (hget : s.groups.get g = some r) (hempty : r.members = []) :
    ∃ u, exec (.dropGroup tag [g1, g0]) s = .next (settle u) ∧ u.trigger = false ∧ u.groups.get g = none ∧
      (∀ h, h ≠ g → u.groups.get h = s.groups.get h) ∧
      Served (writeFails s) (storedReply (writeFails s) tag []) { s with groups := u.groups } u := by
  have howner : dropGroup [g1, g0] (atOwner s) = (triggerIf false (writeItem (.group g)
      { atOwner s with groups := s.groups.drop g }), .done []) := by
    rw [dropGroup_inRange (s := atOwner s) hg h, show (atOwner s).groups.get g = some r from hget, triggerIf_off]
    exact if_neg (not_not.mpr hempty)
  obtain ⟨u, hexec, htrigger, hgroups, hserved⟩ := request_groups 0x21 tag [g1, g0] s dropGroup g _ false hs (by simp)
    (by decide) rfl howner
  refine ⟨u, hexec, htrigger, ?_, fun j hj => ?_, hserved⟩
  · rw [hgroups]
    exact Table.get_drop_self hr g
  · rw [hgroups]
    exact Table.get_drop_other _ hj

/-- Settles O22: SET-CLASS replaces a class whole; DEFINE-GROUP puts a group's cap and DROP-GROUP removes an empty group. -/
theorem classesAndGroupsAreEdited : Obligations.ClassesAndGroupsAreEdited := by
  unfold Obligations.ClassesAndGroupsAreEdited
  refine ⟨fun s tag i a1 a0 b1 b0 c1 c0 d1 d0 e1 e0 hs => ?_, fun s tag g1 g0 c => ?_⟩
  · intro c ranged
    have hc : (⟨be2 a1 a0, be2 b1 b0, be2 c1 c0, be2 d1 d0, be2 e1 e0⟩ : TestClass) = c := rfl
    have hranged : ranged ↔ c.inRange = true := (classInRange_iff c).symm
    clear_value ranged c
    rw [hranged]
    refine ⟨fun hout => ?_, fun hi hrange => ?_⟩
    · rw [exec_setClass]
      exact request_refused 0x18 tag _ s setClass _ hs (by simp) (by decide) rfl (setClass_refused hc hout _)
    · exact setClass_told hs hc hi hrange
  · generalize hg : be2 g1 g0 = g
    intro hs hr
    refine ⟨fun hout => ?_, fun h hlow hhigh => ⟨fun r hget hcap => ?_, fun hnew => ?_⟩, fun h => ⟨fun hnone => ?_,
      fun r hget hmembers => ?_, fun r hget hempty => dropGroup_told hs hg h hr hget hempty⟩⟩
    · rw [exec_defineGroup]
      exact request_refused 0x20 tag _ s defineGroup _ hs (by simp) (by decide) rfl (defineGroup_refused hg hout)
    · rw [exec_defineGroup]
      refine request_unchanged 0x20 tag _ s defineGroup _ hs (by simp) (by decide) rfl
        ((defineGroup_inRange (s := atOwner s) hg h hlow hhigh).trans (if_pos ?_))
      exact (Option.any_eq_true _ _).mpr ⟨r, hget, beq_iff_eq.mpr hcap⟩
    · obtain ⟨u, hexec, hget, hrest⟩ := defineGroup_told (tag := tag) hs hg h hlow hhigh hnew
      refine ⟨u, hexec, hget.trans ?_, hrest⟩
      cases s.groups.get g <;> rfl
    · rw [exec_dropGroup]
      refine request_refused 0x21 tag _ s dropGroup _ hs (by simp) (by decide) rfl
        ((dropGroup_inRange (s := atOwner s) hg h).trans ?_)
      rw [show (atOwner s).groups.get g = none from hnone]
    · rw [exec_dropGroup]
      refine request_refused 0x21 tag _ s dropGroup _ hs (by simp) (by decide) rfl
        ((dropGroup_inRange (s := atOwner s) hg h).trans ?_)
      rw [show (atOwner s).groups.get g = some r from hget]
      exact if_pos hmembers

end Sys2Proof.Machine
end

section
/-! PROOFS. The evaluation of the window, the calendar's edits, SET-MODE and the boundaries (R50 to R57). -/

namespace Sys2Proof.Machine

/-! ### An evaluation of the window -/

theorem openNow_windowEvent (s : State) : openNow (windowEvent s) = openNow s := by
  have h := windowEvent_only_open s
  exact openNow_same (by rw [h]) (by rw [h]) (by rw [h]) (by rw [h]) (by rw [h])

theorem windowEvent_windowOpen (s : State) : (windowEvent s).windowOpen = openNow (windowEvent s) := by
  rw [openNow_windowEvent, windowEvent_only_open s]

theorem windowEvent_staged (s : State) : (windowEvent s).staged = s.staged := by rw [windowEvent_only_open s]

theorem windowEvent_mode (s : State) : (windowEvent s).mode = s.mode := by rw [windowEvent_only_open s]

theorem windowEvent_opens {s : State} (hclosed : s.windowOpen = false) (hopen : openNow s = true) :
    (windowEvent s).trigger = true := by
  unfold windowEvent
  rw [if_neg (by rw [hclosed, hopen]; decide), if_pos hopen]
  exact Bool.or_true _

theorem windowEvent_keeps_trigger {s : State} (h : s.trigger = true) : (windowEvent s).trigger = true := by
  unfold windowEvent
  split
  · exact h
  · split
    · exact Bool.or_true _
    · rw [show raise _ _ = _ from raise_only _ _]
      exact h

theorem modeTakesEffect_staged (m : Mode) (wasStaged : Bool) (s : State) :
    (modeTakesEffect m wasStaged s).staged = s.staged := by
  unfold modeTakesEffect
  split
  · rfl
  · rw [windowEvent_staged]
    change (raise _ (writeItem .mode { s with mode := m })).staged = _
    rw [show raise _ _ = _ from raise_only _ _, show writeItem _ _ = _ from writeItem_only _ _]

theorem modeTakesEffect_windowOpen (m : Mode) (wasStaged : Bool) {s : State} (h : s.windowOpen = openNow s) :
    (modeTakesEffect m wasStaged s).windowOpen = openNow (modeTakesEffect m wasStaged s) := by
  unfold modeTakesEffect
  split
  · exact h
  · exact windowEvent_windowOpen _

/-- A window-close event with a staged mode puts the mode into effect; nothing else follows the window's own event (R57). -/
theorem evaluateWindow_closing {s : State} {m : Mode} (hopen : s.windowOpen = true) (hclosed : openNow s = false)
    (hm : s.staged = some m) : evaluateWindow s = modeTakesEffect m true { windowEvent s with staged := none } := by
  unfold evaluateWindow
  dsimp only
  rw [windowEvent_windowOpen, openNow_windowEvent, windowEvent_staged, hopen, hclosed, hm]
  rfl

theorem evaluateWindow_otherwise {s : State} (h : ¬(s.windowOpen = true ∧ openNow s = false ∧ s.staged.isSome = true)) :
    evaluateWindow s = windowEvent s := by
  unfold evaluateWindow
  dsimp only
  rw [windowEvent_windowOpen, openNow_windowEvent, windowEvent_staged]
  cases hopen : s.windowOpen with
  | false => rfl
  | true =>
    cases hnow : openNow s with
    | true => rfl
    | false =>
      cases hstaged : s.staged with
      | none => rfl
      | some m => exact absurd ⟨hopen, hnow, by rw [hstaged]; rfl⟩ h

/-- What an evaluation of the window that leads from `s` to `u` comes to (R54, R57). -/
structure Evaluated (s u : State) : Prop where
  windowOpen : u.windowOpen = openNow u
  opens : s.windowOpen = false → openNow s = true → u.trigger = true
  closes : s.windowOpen = true → openNow s = false → u.staged = none ∧ u.mode = s.staged.getD s.mode
  raises : Raises (windowNotices s u (writeFailsAt s 0)) s u
  only : OnlyCalendar s u

theorem evaluateWindow_evaluated (s : State) : Evaluated s (evaluateWindow s) := by
  refine ⟨?_, fun hclosed hopen => ?_, fun hopen hclosed => ?_, evaluateWindow_raises s, evaluateWindow_only s⟩
  · by_cases h : s.windowOpen = true ∧ openNow s = false ∧ s.staged.isSome = true
    · obtain ⟨hopen, hclosed, hsome⟩ := h
      obtain ⟨m, hm⟩ := Option.isSome_iff_exists.mp hsome
      rw [evaluateWindow_closing hopen hclosed hm]
      exact modeTakesEffect_windowOpen m true (windowEvent_windowOpen s)
    · rw [evaluateWindow_otherwise h]
      exact windowEvent_windowOpen s
  · rw [evaluateWindow_otherwise fun h => by rw [hclosed] at h; exact (nomatch h.1)]
    exact windowEvent_opens hclosed hopen
  · cases hstaged : s.staged with
    | none =>
      rw [evaluateWindow_otherwise fun h => by rw [hstaged] at h; exact (nomatch h.2.2), windowEvent_staged, windowEvent_mode]
      exact ⟨hstaged, rfl⟩
    | some m =>
      rw [evaluateWindow_closing hopen hclosed hstaged, modeTakesEffect_staged, modeTakesEffect_mode]
      exact ⟨rfl, rfl⟩

/-! ### Boundaries -/

theorem exec_windowBoundaryArrival (e : Nat) {s : State} (h : s.phase = .operating) :
    exec (.windowBoundaryArrival e) s = .next (settle (windowBoundaryArrives e (opened s))) := event_operating _ _ h

theorem exec_blackoutBoundaryArrival (e : Nat) {s : State} (h : s.phase = .operating) :
    exec (.blackoutBoundaryArrival e) s = .next (settle (blackoutBoundaryArrives e (opened s))) := event_operating _ _ h

/-- The evaluation an event makes of the window, seen from before the event. -/
theorem evaluated_opened (s : State) : ∃ u, evaluateWindow (opened s) = u ∧ u.windowOpen = openNow u ∧
    (s.windowOpen = false → openNow s = true → u.trigger = true) ∧
    (s.windowOpen = true → openNow s = false → u.staged = none ∧ u.mode = s.staged.getD s.mode) ∧
    Raises (windowNotices s u (writeFails s)) s u ∧
    Touches { s with windowOpen := u.windowOpen, mode := u.mode, staged := u.staged } u := by
  have h := evaluateWindow_evaluated (opened s)
  generalize evaluateWindow (opened s) = u at h
  have honly := h.only
  refine ⟨u, rfl, h.windowOpen, h.opens, h.closes, ?_, ?_⟩
  · rw [writeFails_eq_writeFailsAt]
    exact h.raises
  · unfold OnlyCalendar at honly
    rw [honly]
    rfl

/-- Settles O27: a boundary's arrival is an evaluation of the window. -/
theorem boundariesEvaluateTheWindow : Obligations.BoundariesEvaluateTheWindow := by
  unfold Obligations.BoundariesEvaluateTheWindow
  intro s e hop hset
  obtain ⟨u, hu, hevaluated⟩ := evaluated_opened s
  refine ⟨fun ⟨w, hw, hnow⟩ => ⟨u, ?_, hevaluated⟩, fun ⟨b, hb, hnow⟩ => ⟨u, ?_, hevaluated⟩⟩
  · have harrives : windowBoundaryNow (opened s) e = true := by
      unfold windowBoundaryNow
      rw [show (opened s).windows.get e = some w from hw, Option.any_some, Bool.and_eq_true, Bool.or_eq_true, beq_iff_eq,
        beq_iff_eq]
      exact ⟨decide_eq_true hset, hnow⟩
    rw [exec_windowBoundaryArrival e hop, ← hu]
    exact congrArg (fun t => Host.Outcome.next (settle t)) (if_pos harrives)
  · have harrives : blackoutBoundaryNow (opened s) e = true := by
      unfold blackoutBoundaryNow
      rw [show (opened s).blackouts.get e = some b from hb, Option.any_some, Bool.and_eq_true, Bool.or_eq_true, beq_iff_eq,
        beq_iff_eq]
      exact ⟨decide_eq_true hset, hnow⟩
    rw [exec_blackoutBoundaryArrival e hop, ← hu]
    exact congrArg (fun t => Host.Outcome.next (settle t)) (if_pos harrives)

/-! ### Staleness and band lifetimes -/

theorem exec_stalenessExpiry {s : State} (h : s.phase = .operating) :
    exec .stalenessExpiry s = .next (settle (stalenessExpires (opened s))) := event_operating _ _ h

theorem exec_bandLifetimeExpiry (n : Nat) {s : State} (h : s.phase = .operating) :
    exec (.bandLifetimeExpiry n) s = .next (settle (bandExpires n (opened s))) := event_operating _ _ h

theorem stalenessExpires_zero {s : State} (h : s.staleness = some 0) :
    stalenessExpires s = raise .timeStale { s with quality := .stale, staleness := none } := if_pos h

/-- Settles O28: neither expiry is a trigger; the band's record is not written. -/
theorem stalenessAndBandLifetimesExpire : Obligations.StalenessAndBandLifetimesExpire := by
  unfold Obligations.StalenessAndBandLifetimesExpire
  refine ⟨fun s hop hzero => ?_, fun s n l hop hl hzero => ?_⟩
  · have honly := raise_only .timeStale { opened s with quality := .stale, staleness := none }
    rw [exec_stalenessExpiry hop, stalenessExpires_zero (s := opened s) hzero]
    refine ⟨_, rfl, ?_, ?_, fun hmask hroom => ?_⟩
    · rw [show raise _ _ = _ from honly]
      rfl
    · rw [show raise _ _ = _ from honly]
      rfl
    · rw [raise_of_room (b := .timeStale) (s := { opened s with quality := .stale, staleness := none }) hmask hroom]
      exact ⟨rfl, rfl⟩
  · have hexpires : bandExpires n (opened s) = putLum n (some { l with band := .unknown, bandLife := none }) (opened s) := by
      unfold bandExpires
      rw [modLum_some (s := opened s) hl, if_pos hzero]
    have honly := putLum_tables n (some { l with band := .unknown, bandLife := none }) (opened s)
    rw [exec_bandLifetimeExpiry n hop, hexpires]
    refine ⟨_, rfl, putLum_trigger (s := opened s) hl rfl rfl rfl, recordMoves_putLum n _ (opened s), ?_, ?_⟩
    · rw [show putLum _ _ _ = _ from honly]
      rfl
    · rw [show putLum _ _ _ = _ from honly]
      exact ⟨rfl, rfl, rfl, rfl⟩

end Sys2Proof.Machine
end

section
/-! PROOFS. The calendar's requests: windows, blackouts and the mode (R50, R51, R56, R57). -/

namespace Sys2Proof.Machine

/-! ### Without a failing write -/

/-- No write fails from here on, and none has failed in this event. -/
def Faultless (s : State) : Prop := s.writeFates = [] ∧ s.writeFailed = false

theorem Faultless.writeFails {s : State} (h : Faultless s) : writeFails s = false := by
  unfold Machine.writeFails
  rw [h.1]
  rfl

theorem faultless_of_same {s t : State} (h : Faultless s) (hfates : t.writeFates = s.writeFates)
    (hfailed : t.writeFailed = s.writeFailed) : Faultless t := ⟨hfates.trans h.1, hfailed.trans h.2⟩

theorem faultless_writeItem {s : State} (h : Faultless s) (i : Item) : Faultless (writeItem i s) := by
  rw [writeItem_lands i s h.writeFails]
  refine ⟨?_, h.2⟩
  change s.writeFates.tail = []
  rw [h.1]
  rfl

theorem faultless_raise {s : State} (h : Faultless s) (b : NoticeBody) : Faultless (raise b s) :=
  faultless_of_same h (by rw [show raise b s = _ from raise_only _ _]) (by rw [show raise b s = _ from raise_only _ _])

theorem faultless_windowEvent {s : State} (h : Faultless s) : Faultless (windowEvent s) :=
  faultless_of_same h (by rw [windowEvent_only_open s]) (by rw [windowEvent_only_open s])

theorem faultless_triggerPass {s : State} (h : Faultless s) : Faultless (triggerPass s) := h

theorem faultless_modeTakesEffect {s : State} (h : Faultless s) (m : Mode) (wasStaged : Bool) :
    Faultless (modeTakesEffect m wasStaged s) := by
  unfold modeTakesEffect
  split
  · exact h
  · exact faultless_windowEvent (faultless_triggerPass (faultless_raise (faultless_writeItem (s := { s with mode := m }) h _) _))

theorem faultless_evaluateWindow {s : State} (h : Faultless s) : Faultless (evaluateWindow s) := by
  unfold evaluateWindow
  dsimp only
  split
  · exact faultless_modeTakesEffect (s := { windowEvent s with staged := none }) (faultless_windowEvent h) _ _
  · exact faultless_windowEvent h

/-! ### A request that edits the calendar -/

/-- A request that changes the calendar to that of `base`, writes item `i` and evaluates the window. -/
theorem request_calendar (kind : Nat) (tag : Byte) (body : List Byte) (s base : State)
    (owner : List Byte → State → State × Answer) (i : Item) (hs : Serves s) (hb : body.length ≤ 248) (hk : kind < 256)
    (ho : ownerOf kind tag = some owner)
    (h : owner body (atOwner s) = (evaluateWindow (writeItem i (atOwner base)), .done [])) (hsend : base.sending = none) :
    ∃ u, request kind tag body s = .next (settle u) ∧ u.windowOpen = openNow u ∧
      Raises (storeFaultIf (writeFailsAt base 0) i ++ windowNotices base u (writeFailsAt base 1)) base u ∧
      (base.writeFates = [] → u.sending = some (doneReply tag [])) ∧
      Touches { base with
        windowOpen := u.windowOpen, mode := u.mode, staged := u.staged, receiver := .hunt, sending := u.sending } u := by
  have hwrites := writeItem_only i (atOwner base)
  have hraises := writeItem_raises i (atOwner base)
  have hfates := writeFailsAt_writeItem i (atOwner base) 0
  have hfaultless : base.writeFates = [] → Faultless (evaluateWindow (writeItem i (atOwner base))) := fun hnone =>
    faultless_evaluateWindow (faultless_writeItem (s := atOwner base) ⟨hnone, rfl⟩ i)
  generalize writeItem i (atOwner base) = w at *
  have hevaluated := evaluateWindow_evaluated w
  generalize evaluateWindow w = t at *
  have honly := hevaluated.only
  unfold OnlyWrites at hwrites
  unfold OnlyCalendar at honly
  have hsending : t.sending = none := by
    rw [honly, hwrites]
    exact hsend
  have hnotices : windowNotices w t (writeFailsAt w 0) = windowNotices base t (writeFailsAt base 1) := by
    rw [hfates, hwrites]
    rfl
  have hall := hraises.append hevaluated.raises (by rw [hwrites]) (by rw [hwrites]; rfl)
  rw [hnotices] at hall
  refine ⟨_, request_ran kind tag body s t owner [] hs hb hk ho h hsending, hevaluated.windowOpen, hall, fun hnone => ?_, ?_⟩
  · rw [(hfaultless hnone).2]
    rfl
  · rw [honly, hwrites]
    rfl

/-! ### Windows and blackouts -/

theorem exec_setWindow (tag : Byte) (body : List Byte) (s : State) :
    exec (.setWindow tag body) s = request 0x31 tag body s := rfl

theorem exec_clearWindow (tag : Byte) (body : List Byte) (s : State) :
    exec (.clearWindow tag body) s = request 0x32 tag body s := rfl

theorem exec_setBlackout (tag : Byte) (body : List Byte) (s : State) :
    exec (.setBlackout tag body) s = request 0x34 tag body s := rfl

theorem exec_clearBlackout (tag : Byte) (body : List Byte) (s : State) :
    exec (.clearBlackout tag body) s = request 0x35 tag body s := rfl

/-- A window request that leaves the window table `w`. -/
theorem request_windows (kind : Nat) (tag : Byte) (body : List Byte) (s : State) (owner : List Byte → State → State × Answer)
    (i : Nat) (w : Table WindowEntry) (hs : Serves s) (hb : body.length ≤ 248) (hk : kind < 256)
    (ho : ownerOf kind tag = some owner)
    (h : owner body (atOwner s) = (evaluateWindow (writeItem (.window i) { atOwner s with windows := w }), .done [])) :
    ∃ u, request kind tag body s = .next (settle u) ∧ u.windows = w ∧ u.windowOpen = openNow u ∧
      Raises (storeFaultIf (writeFailsAt s 0) (.window i) ++
        windowNotices { s with windows := u.windows } u (writeFailsAt s 1)) s u ∧
      (s.writeFates = [] → u.sending = some (doneReply tag [])) ∧
      Touches { s with
        windows := u.windows, windowOpen := u.windowOpen, mode := u.mode, staged := u.staged, receiver := .hunt
        sending := u.sending } u := by
  obtain ⟨u, hexec, hopen, hraises, hsending, htouches⟩ := request_calendar kind tag body s { s with windows := w } owner
    (.window i) hs hb hk ho h hs.2.1
  have hwindows : u.windows = w := by
    rw [show u = _ from htouches]
  refine ⟨u, hexec, hwindows, hopen, ?_, hsending, ?_⟩
  · rw [hwindows]
    exact hraises
  · rw [hwindows]
    exact htouches

/-- A blackout request that leaves the blackout table `b`. -/
theorem request_blackouts (kind : Nat) (tag : Byte) (body : List Byte) (s : State)
    (owner : List Byte → State → State × Answer) (i : Nat) (b : Table Blackout) (hs : Serves s) (hb : body.length ≤ 248)
    (hk : kind < 256) (ho : ownerOf kind tag = some owner)
    (h : owner body (atOwner s) = (evaluateWindow (writeItem (.blackout i) { atOwner s with blackouts := b }), .done [])) :
    ∃ u, request kind tag body s = .next (settle u) ∧ u.blackouts = b ∧ u.windowOpen = openNow u ∧
      Raises (storeFaultIf (writeFailsAt s 0) (.blackout i) ++
        windowNotices { s with blackouts := u.blackouts } u (writeFailsAt s 1)) s u ∧
      (s.writeFates = [] → u.sending = some (doneReply tag [])) ∧
      Touches { s with
        blackouts := u.blackouts, windowOpen := u.windowOpen, mode := u.mode, staged := u.staged, receiver := .hunt
        sending := u.sending } u := by
  obtain ⟨u, hexec, hopen, hraises, hsending, htouches⟩ := request_calendar kind tag body s { s with blackouts := b } owner
    (.blackout i) hs hb hk ho h hs.2.1
  have hblackouts : u.blackouts = b := by
    rw [show u = _ from htouches]
  refine ⟨u, hexec, hblackouts, hopen, ?_, hsending, ?_⟩
  · rw [hblackouts]
    exact hraises
  · rw [hblackouts]
    exact htouches

theorem setWindow_refused {i days a1 a0 b1 b0 modes : Byte} (h : 32 ≤ i.toNat) (s : State) :
    setWindow [i, days, a1, a0, b1, b0, modes] s = (s, .refused .outOfRange) := if_pos (.inl h)

theorem setWindow_inRange {i days a1 a0 b1 b0 modes : Byte} (hi : i.toNat < 32) (hdays : days ≠ 0) (hdays' : days.toNat < 128)
    (ha : be2 a1 a0 < 1440) (hb : be2 b1 b0 < 1440) (hmodes : modes ≠ 0) (hmodes' : modes.toNat < 8) (s : State) :
    setWindow [i, days, a1, a0, b1, b0, modes] s = (evaluateWindow (writeItem (.window i.toNat) { s with
      windows := s.windows.put i.toNat ⟨days.setWidth 7, be2 a1 a0, be2 b1 b0, modes.setWidth 3⟩ }), .done []) := by
  refine if_neg ?_
  rintro (h | h | h | h | h | h | h)
  · omega
  · exact hdays h
  · omega
  · exact Nat.not_lt.mpr h ha
  · exact Nat.not_lt.mpr h hb
  · exact hmodes h
  · omega

theorem clearWindow_refused {i : Byte} (h : 32 ≤ i.toNat) (s : State) :
    clearWindow [i] s = (s, .refused .outOfRange) := if_pos h

theorem clearWindow_unused {i : Byte} {s : State} (h : i.toNat < 32) (hnone : s.windows.get i.toNat = none) :
    clearWindow [i] s = (s, .done []) := by
  have hbody : clearWindow [i] s = _ := if_neg (Nat.not_le.mpr h)
  have hhas : ¬s.windows.has i.toNat = true := by
    unfold Table.has
    rw [hnone]
    exact Bool.false_ne_true
  rw [hbody, if_neg hhas]

theorem clearWindow_used {i : Byte} {s : State} (h : i.toNat < 32) (hsome : (s.windows.get i.toNat).isSome = true) :
    clearWindow [i] s =
      (evaluateWindow (writeItem (.window i.toNat) { s with windows := s.windows.drop i.toNat }), .done []) := by
  have hbody : clearWindow [i] s = _ := if_neg (Nat.not_le.mpr h)
  rw [hbody]
  exact if_pos hsome

theorem setBlackout_refused {i a3 a2 a1 a0 b3 b2 b1 b0 : Byte}
    (h : 24 ≤ i.toNat ∨ be4 b3 b2 b1 b0 ≤ be4 a3 a2 a1 a0) (s : State) :
    setBlackout [i, a3, a2, a1, a0, b3, b2, b1, b0] s = (s, .refused .outOfRange) := if_pos h

theorem setBlackout_inRange {i a3 a2 a1 a0 b3 b2 b1 b0 : Byte} (hi : i.toNat < 24)
    (hrises : be4 a3 a2 a1 a0 < be4 b3 b2 b1 b0) (s : State) : setBlackout [i, a3, a2, a1, a0, b3, b2, b1, b0] s =
      (evaluateWindow (writeItem (.blackout i.toNat) { s with
        blackouts := s.blackouts.put i.toNat ⟨be4 a3 a2 a1 a0, be4 b3 b2 b1 b0⟩ }), .done []) := by
  refine if_neg ?_
  rintro (h | h)
  · omega
  · exact Nat.not_lt.mpr h hrises

theorem clearBlackout_refused {i : Byte} (h : 24 ≤ i.toNat) (s : State) :
    clearBlackout [i] s = (s, .refused .outOfRange) := if_pos h

theorem clearBlackout_unused {i : Byte} {s : State} (h : i.toNat < 24) (hnone : s.blackouts.get i.toNat = none) :
    clearBlackout [i] s = (s, .done []) := by
  have hbody : clearBlackout [i] s = _ := if_neg (Nat.not_le.mpr h)
  have hhas : ¬s.blackouts.has i.toNat = true := by
    unfold Table.has
    rw [hnone]
    exact Bool.false_ne_true
  rw [hbody, if_neg hhas]

theorem clearBlackout_used {i : Byte} {s : State} (h : i.toNat < 24) (hsome : (s.blackouts.get i.toNat).isSome = true) :
    clearBlackout [i] s =
      (evaluateWindow (writeItem (.blackout i.toNat) { s with blackouts := s.blackouts.drop i.toNat }), .done []) := by
  have hbody : clearBlackout [i] s = _ := if_neg (Nat.not_le.mpr h)
  rw [hbody]
  exact if_pos hsome

/-- Settles O25: an edit puts or drops one entry, writes it and evaluates the window. -/
theorem calendarEntriesAreEdited : Obligations.CalendarEntriesAreEdited := by
  unfold Obligations.CalendarEntriesAreEdited
  refine ⟨fun s tag i days a1 a0 b1 b0 modes hs hr => ⟨fun h => ⟨?_, ?_⟩, fun hi hdays hdays' ha hb hmodes hmodes' => ?_,
    fun hi hnone => ?_, fun hi hsome => ?_⟩, fun s tag i a3 a2 a1 a0 b3 b2 b1 b0 hs hr => ⟨fun h => ?_, fun h => ?_,
    fun hi hrises => ?_, fun hi hnone => ?_, fun hi hsome => ?_⟩⟩
  · rw [exec_setWindow]
    exact request_refused 0x31 tag _ s setWindow _ hs (by simp) (by decide) rfl (setWindow_refused h _)
  · rw [exec_clearWindow]
    exact request_refused 0x32 tag _ s clearWindow _ hs (by simp) (by decide) rfl (clearWindow_refused h _)
  · obtain ⟨u, hexec, hwindows, hrest⟩ := request_windows 0x31 tag _ s setWindow i.toNat _ hs (by simp) (by decide) rfl
      (setWindow_inRange hi hdays hdays' ha hb hmodes hmodes' (atOwner s))
    refine ⟨u, hexec, ?_, fun j hj => ?_, hrest⟩
    · rw [hwindows]
      exact Table.get_put_self _ _ _
    · rw [hwindows]
      exact Table.get_put_other _ _ hj
  · rw [exec_clearWindow]
    exact request_unchanged 0x32 tag _ s clearWindow _ hs (by simp) (by decide) rfl
      (clearWindow_unused (s := atOwner s) hi hnone)
  · obtain ⟨u, hexec, hwindows, hrest⟩ := request_windows 0x32 tag _ s clearWindow i.toNat _ hs (by simp) (by decide) rfl
      (clearWindow_used (s := atOwner s) hi hsome)
    refine ⟨u, hexec, ?_, fun j hj => ?_, hrest⟩
    · rw [hwindows]
      exact Table.get_drop_self hr _
    · rw [hwindows]
      exact Table.get_drop_other _ hj
  · rw [exec_setBlackout]
    exact request_refused 0x34 tag _ s setBlackout _ hs (by simp) (by decide) rfl (setBlackout_refused h _)
  · rw [exec_clearBlackout]
    exact request_refused 0x35 tag _ s clearBlackout _ hs (by simp) (by decide) rfl (clearBlackout_refused h _)
  · obtain ⟨u, hexec, hblackouts, hrest⟩ := request_blackouts 0x34 tag _ s setBlackout i.toNat _ hs (by simp) (by decide) rfl
      (setBlackout_inRange hi hrises (atOwner s))
    refine ⟨u, hexec, ?_, fun j hj => ?_, hrest⟩
    · rw [hblackouts]
      exact Table.get_put_self _ _ _
    · rw [hblackouts]
      exact Table.get_put_other _ _ hj
  · rw [exec_clearBlackout]
    exact request_unchanged 0x35 tag _ s clearBlackout _ hs (by simp) (by decide) rfl
      (clearBlackout_unused (s := atOwner s) hi hnone)
  · obtain ⟨u, hexec, hblackouts, hrest⟩ := request_blackouts 0x35 tag _ s clearBlackout i.toNat _ hs (by simp) (by decide) rfl
      (clearBlackout_used (s := atOwner s) hi hsome)
    refine ⟨u, hexec, ?_, fun j hj => ?_, hrest⟩
    · rw [hblackouts]
      exact Table.get_drop_self hr _
    · rw [hblackouts]
      exact Table.get_drop_other _ hj

/-! ### SET-MODE -/

theorem exec_setMode (tag : Byte) (body : List Byte) (s : State) : exec (.setMode tag body) s = request 0x37 tag body s := rfl

theorem modeOf_of_lt {code : Byte} (h : 2 < code.toNat) : modeOf code = none := by
  unfold modeOf
  split
  · exact absurd h (by decide)
  · exact absurd h (by decide)
  · exact absurd h (by decide)
  · rfl

theorem code_of_modeOf {code : Byte} {m : Mode} (h : modeOf code = some m) : m.code = code := by
  unfold modeOf at h
  split at h
  · cases h; rfl
  · cases h; rfl
  · cases h; rfl
  · exact (nomatch h)

theorem setMode_refused {code : Byte} (h : 2 < code.toNat) (s : State) : setMode [code] s = (s, .refused .outOfRange) := by
  unfold setMode
  dsimp only
  rw [modeOf_of_lt h]

theorem setMode_known {code : Byte} {m : Mode} (h : modeOf code = some m) {s t : State}
    (ht : (if m = s.mode then { s with staged := none }
      else if s.sched = .active ∧ openNow s then { s with staged := some m }
      else modeTakesEffect m false { s with staged := none }) = t) : setMode [code] s = (t, modeReply t) := by
  subst ht
  unfold setMode
  dsimp only
  rw [h]

theorem modeReply_done {t : State} {m : Mode} {staged : Option Byte} (hm : t.mode = m)
    (hstaged : t.staged.map Mode.code = staged) : modeReply t = .done ([m.code] ++ optByte staged) := by
  unfold modeReply
  rw [hm, hstaged]

/-- A mode in place of another: written, told and a trigger, before the window is evaluated under it (R57). -/
structure ModeTaken (m : Mode) (s u : State) : Prop where
  mode : u.mode = m
  staged : u.staged = s.staged
  trigger : u.trigger = true
  windowOpen : u.windowOpen = openNow u
  image : writeFails s = false → u.image.mode = m
  writeFailed : u.writeFailed = (s.writeFailed || writeFails s)
  raises : Raises (storeFaultIf (writeFails s) .mode ++ .modeChanged s.mode m false ::
    (if openNow u = s.windowOpen then []
      else if openNow u then [.windowOpen m (openIntervalEnd u)] else [.windowClose m])) s u
  only : Touches { s with mode := m, windowOpen := u.windowOpen } u

theorem modeTakesEffect_taken {m : Mode} {s : State} (h : m ≠ s.mode) : ModeTaken m s (modeTakesEffect m false s) := by
  have hraises := modeTakesEffect_raises m false s h
  have hmode := modeTakesEffect_mode m false s
  have hstaged := modeTakesEffect_staged m false s
  have heffect : modeTakesEffect m false s =
      windowEvent (triggerPass (raise (.modeChanged s.mode m false) (writeItem .mode { s with mode := m }))) := if_neg h
  rw [heffect] at hraises hmode hstaged ⊢
  have hwrites := writeItem_only .mode { s with mode := m }
  have himage : writeFails s = false → (writeItem .mode { s with mode := m }).image.mode = m := fun hlands => by
    rw [writeItem_lands .mode { s with mode := m } hlands]
    rfl
  have hfailed := writeItem_writeFailed_or .mode { s with mode := m }
  generalize writeItem .mode { s with mode := m } = w at *
  unfold OnlyWrites at hwrites
  have hnotice := raise_only (.modeChanged s.mode m false) w
  unfold OnlyNotices at hnotice
  generalize raise (.modeChanged s.mode m false) w = v at *
  have hevent := windowEvent_only_open (triggerPass v)
  have htrigger : (windowEvent (triggerPass v)).trigger = true := windowEvent_keeps_trigger (Bool.or_true _)
  have hopen := windowEvent_windowOpen (triggerPass v)
  generalize windowEvent (triggerPass v) = u at *
  have hnow : openNow { s with mode := m } = openNow u :=
    openNow_same (by rw [hevent, hnotice, hwrites]; rfl) (by rw [hevent, hnotice, hwrites]; rfl)
      (by rw [hevent, hnotice, hwrites]; rfl) (by rw [hevent, hnotice, hwrites]; rfl) hmode.symm
  have hend : openIntervalEnd { s with mode := m } = openIntervalEnd u :=
    openIntervalEnd_same (by rw [hevent, hnotice, hwrites]; rfl) (by rw [hevent, hnotice, hwrites]; rfl)
      (by rw [hevent, hnotice, hwrites]; rfl) hmode.symm
  refine ⟨hmode, hstaged, htrigger, hopen, fun hlands => ?_, ?_, ?_, ?_⟩
  · rw [hevent]
    change v.image.mode = m
    rw [hnotice]
    exact himage hlands
  · rw [hevent]
    change v.writeFailed = _
    rw [hnotice]
    exact hfailed
  · rw [writeFails_eq_writeFailsAt]
    unfold eventNotices at hraises
    rw [hnow, hend] at hraises
    exact hraises
  · have hall : u.windowOpen = openNow (triggerPass v) := by rw [hevent]
    unfold Touches
    rw [hall, hevent, hnotice, hwrites]
    rfl

/-- Settles O26: the present mode and a mode to be staged change the staged mode alone; any other takes effect at once. -/
theorem setModeStagesOrTakesEffect : Obligations.SetModeStagesOrTakesEffect := by
  unfold Obligations.SetModeStagesOrTakesEffect
  intro s tag code hs
  refine ⟨fun h => ?_, fun m hm hsame => ?_, fun m hm hother hactive hopen => ?_, fun m hm hother hnow => ?_⟩
  · rw [exec_setMode]
    exact request_refused 0x37 tag _ s setMode _ hs (by simp) (by decide) rfl (setMode_refused h _)
  · have howner := (setMode_known (s := atOwner s) hm (if_pos hsame)).trans
      (congrArg (_, ·) (modeReply_done (m := m) (staged := none) hsame.symm rfl))
    rw [exec_setMode, request_done 0x37 tag [code] s _ setMode _ hs (by simp) (by decide) rfl howner hs.2.1 rfl rfl,
      code_of_modeOf hm]
    rfl
  · have howner := (setMode_known (s := atOwner s) hm ((if_neg hother).trans (if_pos ⟨hactive, hopen⟩))).trans
      (congrArg (_, ·) (modeReply_done (m := s.mode) (staged := some m.code) rfl rfl))
    rw [exec_setMode, request_done 0x37 tag [code] s _ setMode _ hs (by simp) (by decide) rfl howner hs.2.1 rfl rfl,
      code_of_modeOf hm]
    rfl
  · have hnot : ¬((atOwner s).sched = .active ∧ openNow (atOwner s) = true) := by
      rintro ⟨hactive, hopen⟩
      rcases hnow with hsched | hclosed
      · exact hsched hactive
      · exact absurd (hclosed.symm.trans hopen) (by decide)
    have htaken := modeTakesEffect_taken (s := { atOwner s with staged := none }) hother
    have howner := (setMode_known (s := atOwner s) hm ((if_neg hother).trans (if_neg hnot))).trans
      (congrArg (_, ·) (modeReply_done (staged := none) htaken.mode (congrArg (Option.map Mode.code) htaken.staged)))
    generalize modeTakesEffect m false { atOwner s with staged := none } = t at *
    have honly := htaken.only
    unfold Touches at honly
    have hsending : t.sending = none := by
      rw [honly]
      exact hs.2.1
    have hfailed : t.writeFailed = writeFails s := htaken.writeFailed
    refine ⟨_, request_ran 0x37 tag [code] s t setMode _ hs (by simp) (by decide) rfl howner hsending, htaken.mode, htaken.staged,
      htaken.trigger, htaken.windowOpen, htaken.image, htaken.raises, ?_, ?_⟩
    · rw [hfailed, code_of_modeOf hm]
    · rw [honly]
      rfl

end Sys2Proof.Machine
end

section
/-! PROOFS. The stored instants that arrive (R61 to R64, R114). -/

namespace Sys2Proof.Machine

/-! ### Arrivals -/

theorem exec_dueTimeArrival (n : Nat) {s : State} (h : s.phase = .operating) :
    exec (.dueTimeArrival n) s = .next (settle (dueArrives n (opened s))) := event_operating _ _ h

theorem exec_holdOffEnd (n : Nat) {s : State} (h : s.phase = .operating) :
    exec (.holdOffEnd n) s = .next (settle (holdOffArrives n (opened s))) := event_operating _ _ h

theorem exec_rechargeUntilArrival (n : Nat) {s : State} (h : s.phase = .operating) :
    exec (.rechargeUntilArrival n) s = .next (settle (rechargeArrives n (opened s))) := event_operating _ _ h

theorem exec_overdueThresholdArrival (n : Nat) {s : State} (h : s.phase = .operating) :
    exec (.overdueThresholdArrival n) s = .next (settle (checkOverdue n (opened s))) := event_operating _ _ h

theorem OnlyRecords.touches_opened {s t : State} (h : OnlyRecords (opened s) t) : Touches (withRecords s t) t := by
  unfold OnlyRecords at h
  rw [h]
  rfl

section
variable {n : Nat} {l : Luminaire} {s : State}

theorem dueArrives_idle (hl : s.luminaires.get n = some l) (hidle : l.state = .idle) (hset : s.quality ≠ .unset)
    (hdue : l.due ≤ s.campus) : dueArrives n s = putLum n (some { l with state := .due }) s := by
  have hwait : waitState s l.due = .due := if_pos ⟨hset, hdue⟩
  have henter : l.enter .due = { l with state := .due } := by
    rw [enter_other (by rw [hidle]; decide)]
    rfl
  unfold dueArrives
  rw [hl]
  dsimp only
  rw [if_pos ⟨hidle, hwait⟩, henter]

theorem holdOffArrives_reached {h : Nat} (hl : s.luminaires.get n = some l) (hset : s.quality ≠ .unset)
    (hh : l.holdOff = some h) (hle : h ≤ s.campus) :
    holdOffArrives n s = triggerPass (storeRecord n { l with holdOff := none } s) := by
  have hany : (l.holdOff.any fun t => t ≤ s.campus) = true := by
    rw [hh]
    exact decide_eq_true hle
  unfold holdOffArrives
  rw [hl]
  dsimp only
  rw [if_pos ⟨hset, hany⟩]
  rfl

theorem triggerPass_recordMoves {m : Nat} {new : Option Luminaire} {t : State} (h : RecordMoves m new s t) :
    RecordMoves m new s (triggerPass t) := h

/-- A due record that was idle is a trigger, and keeps its place in the schedule list. -/
theorem due_from_idle (hl : s.luminaires.get n = some l) (hidle : l.state = .idle) :
    (putLum n (some { l with state := .due }) s).trigger = true ∧
      (putLum n (some { l with state := .due }) s).schedule = s.schedule := by
  have henters : entersDue (some l) (some { l with state := .due }) = true := by
    unfold entersDue
    rw [Option.any_some, Option.any_some, hidle]
    rfl
  have hkey : listKey (s.luminaires.get n) = listKey (some { l with state := .due }) := by
    rw [hl]
    change (if l.state.waits then some l.due else none) = _
    rw [hidle]
    rfl
  refine ⟨?_, putLum_schedule_kept hkey⟩
  rw [putLum_trigger_eq, hl, henters, Bool.or_true]

/-- The record whose recharge lockout has ended, before its OVERDUE check (R114). -/
def Luminaire.recharged (l : Luminaire) (s : State) : Luminaire := { l.returned s with recharge := none }

/-- With the time known, IDLE or DUE is decided by the due time alone. -/
theorem recharged_known (hset : s.quality ≠ .unset) : l.recharged s = { l with
    state := if l.due ≤ s.campus then .due else .idle, recharge := none
    blockedBy := if l.due ≤ s.campus then l.blockedBy else none } := by
  have hdue : (s.quality ≠ .unset ∧ l.due ≤ s.campus) ↔ l.due ≤ s.campus := and_iff_right hset
  unfold Luminaire.recharged Luminaire.returned waitState
  simp only [hdue]

theorem rechargeArrives_reached {x : Nat} (hl : s.luminaires.get n = some l) (hset : s.quality ≠ .unset)
    (hst : l.state = .recharging) (hx : l.recharge = some (.until x)) (hle : x ≤ s.campus) :
    rechargeArrives n s = checkOverdue n (triggerPass (storeRecord n (l.recharged s) s)) := by
  have hany : (l.recharge.any fun r => r.reached s) = true := by
    rw [hx]
    exact decide_eq_true hle
  unfold rechargeArrives
  rw [hl]
  dsimp only
  rw [if_pos ⟨hset, hst, hany⟩, enter_waitState s (by rw [hst]; rfl)]
  rfl

/-- What an event has done that changed one record, wrote it and made a trigger. -/
theorem arrived_opened {new : Luminaire} (t : State) (ht : t = triggerPass (storeRecord n new (opened s))) :
    t.trigger = true ∧ RecordMoves n (some new) s t ∧ Raises (storeFaultIf (writeFailsAt s 0) (.luminaire n)) s t ∧
      OnlyRecords (opened s) t := by
  have hmoves := storeRecord_recordMoves n new (opened s)
  have hraises := storeRecord_raises n new (opened s)
  have honly := storeRecord_only n new (opened s)
  generalize storeRecord n new (opened s) = v at *
  subst ht
  refine ⟨Bool.or_true _, hmoves, hraises, ?_⟩
  unfold OnlyRecords triggerPass triggerIf at *
  rw [honly]

/-- An OVERDUE check of a record that has come back to wait, after its own write (R63, R114). -/
theorem overdue_after_arrival {new : Luminaire} {t : State} (ht : t = triggerPass (storeRecord n new (opened s)))
    (hwaits : new.state.waits = true) (hdue : new.due = l.due) (harmed : new.watchArmed = l.watchArmed)
    (hblocked : new.blockedBy = if s.quality ≠ .unset ∧ l.due ≤ s.campus then l.blockedBy else none) :
    RecordMoves n (some { new with
        overdueReported := new.overdueReported || (l.watchArmed && overdueReached s l)
        watchArmed := l.watchArmed && !overdueReached s l }) s (checkOverdue n t) ∧
      (checkOverdue n t).trigger = true ∧
      Raises (storeFaultIf (writeFailsAt s 0) (.luminaire n) ++ overdueNotices s n l (writeFailsAt s 1)) s
        (checkOverdue n t) ∧
      Touches (withRecords s (checkOverdue n t)) (checkOverdue n t) := by
  obtain ⟨htrigger, hmoves, hraises, honly⟩ := arrived_opened t ht
  have hfates : writeFailsAt t 0 = writeFailsAt s 1 := by
    rw [ht]
    exact writeFailsAt_storeRecord n new (opened s) 0
  have hreports := reportsOverdue_of_waits hwaits
  have hreached : overdueReached t new = overdueReached s l := by
    rw [overdueReached_same honly.sameClock]
    unfold overdueReached
    rw [hdue]
    rfl
  have htold : new.overdueTold t = { new with
      overdueReported := new.overdueReported || (l.watchArmed && overdueReached s l)
      watchArmed := l.watchArmed && !overdueReached s l } := by
    unfold Luminaire.overdueTold
    rw [hreached, harmed]
  refine ⟨htold ▸ checkOverdue_recordMoves hmoves hreports, (checkOverdue_trigger hmoves.1 hreports).trans htrigger, ?_,
    (honly.trans (checkOverdue_only n t)).touches_opened⟩
  rw [← hfates]
  exact checkOverdue_after (s := opened s) hraises honly hmoves.1 hreports hdue harmed
    fun h => hblocked.trans (if_pos (due_of_overdueReached h))

/-- A threshold reached under an armed watch: the notice, then the record's write (R63). -/
theorem overdueArrives_told (hl : s.luminaires.get n = some l) (harmed : l.watchArmed = true)
    (hreports : l.state.reportsOverdue = true) (hreached : overdueReached s l = true) :
    ∃ u, checkOverdue n (opened s) = u ∧
      RecordMoves n (some { l with overdueReported := true, watchArmed := false }) s u ∧
      Raises (.overdue n l.due l.blockedBy :: storeFaultIf (writeFailsAt s 0) (.luminaire n)) s u ∧
      Touches (withRecords s u) u := by
  have htold : (l.watchArmed && overdueReached (opened s) l) = true := by
    rw [harmed]
    exact hreached
  have hnew : l.overdueTold (opened s) = { l with overdueReported := true, watchArmed := false } := by
    unfold Luminaire.overdueTold
    rw [htold, show overdueReached (opened s) l = true from hreached, Bool.or_true, Bool.not_true, Bool.and_false]
  have hraises := checkOverdue_raises n l (opened s) hl hreports
  unfold overdueNotices at hraises
  rw [if_pos htold] at hraises
  have hnotice := raise_only (.overdue n l.due l.blockedBy) (opened s)
  have hmoves := storeRecord_recordMoves n (l.overdueTold (opened s)) (raise (.overdue n l.due l.blockedBy) (opened s))
  have honly := checkOverdue_only n (opened s)
  rw [← checkOverdue_told (s := opened s) hl hreports htold, hnew] at hmoves
  have hbase := hmoves.of_base (s := s) (by rw [hnotice]; rfl) (by rw [hnotice]; rfl)
  exact ⟨_, rfl, hbase, hraises, honly.touches_opened⟩

/-- The first of the notices raised stands right behind those that were there (R185). -/
theorem Raises.first {b : NoticeBody} {ns : List NoticeBody} {u : State} (h : Raises (b :: ns) s u)
    (hmask : s.mask.getLsbD b.kind = false) (hroom : s.outbox.length < 32) :
    u.outbox[s.outbox.length]? = some ⟨knownTime s, b⟩ := by
  obtain ⟨houtbox, -, -⟩ := h
  obtain ⟨k, hk⟩ : ∃ k, 32 - s.outbox.length = k + 1 := ⟨31 - s.outbox.length, by omega⟩
  rw [houtbox, List.getElem?_append_right (Nat.le_refl _), Nat.sub_self, hk, List.filter_cons, hmask]
  rfl

theorem knownTime_set (h : s.quality ≠ .unset) : knownTime s = some s.campus := if_neg h

theorem overdueReached_of_le (hset : s.quality ≠ .unset) (h : l.due + s.params.overdueGrace * 86400 ≤ s.campus) :
    overdueReached s l = true := Bool.and_eq_true_iff.mpr ⟨decide_eq_true hset, decide_eq_true h⟩

theorem reportsOverdue_of_holdsSlot {st : LumState} (h : st.holdsSlot = true) : st.reportsOverdue = false := by
  cases st with
  | starting => rfl
  | testing => rfl
  | stopping => rfl
  | idle => exact (nomatch h)
  | due => exact (nomatch h)
  | recharging => exact (nomatch h)
  | outOfService => exact (nomatch h)

theorem checkOverdue_silent (hl : s.luminaires.get n = some l)
    (h : l.watchArmed = false ∨ l.state = .outOfService ∨ l.state.holdsSlot = true) : checkOverdue n s = s := by
  unfold checkOverdue
  rw [hl]
  refine if_neg fun hall => ?_
  obtain ⟨hfirst, -⟩ := Bool.and_eq_true_iff.mp hall
  obtain ⟨harmed, hreports⟩ := Bool.and_eq_true_iff.mp hfirst
  rcases h with h | h | h
  · rw [h] at harmed
    exact (nomatch harmed)
  · rw [h] at hreports
    exact (nomatch hreports)
  · exact absurd hreports (Bool.eq_false_iff.mp (reportsOverdue_of_holdsSlot h))

end

/-- Settles O29: each arrival changes its record and, but for a due time, writes it; a recharge's end then checks the threshold. -/
theorem storedInstantsArrive : Obligations.StoredInstantsArrive := by
  unfold Obligations.StoredInstantsArrive
  refine ⟨fun s n l hop hl hidle hset hdue => ?_, fun s n l hop hl hset => ⟨fun h hh hle => ?_, fun x hst hx hle => ?_⟩,
    fun s n l hop hl hset hle => ⟨fun harmed hst => ?_, fun hsilent => ?_⟩⟩
  · obtain ⟨htrigger, hschedule⟩ := due_from_idle (s := opened s) hl hidle
    have hmoves := recordMoves_putLum n { l with state := .due } (opened s)
    have honly := putLum_tables n (some { l with state := .due }) (opened s)
    rw [exec_dueTimeArrival n hop, dueArrives_idle (s := opened s) hl hidle hset hdue]
    generalize putLum n (some { l with state := .due }) (opened s) = u at *
    unfold OnlyTables at honly
    refine ⟨u, rfl, htrigger, hschedule, hmoves, ?_, ?_⟩
    · rw [honly]
      rfl
    · rw [honly]
      exact ⟨rfl, rfl, rfl, rfl⟩
  · obtain ⟨htrigger, hmoves, hraises, honly⟩ := arrived_opened (s := s) (n := n) (new := { l with holdOff := none }) _ rfl
    rw [exec_holdOffEnd n hop, holdOffArrives_reached (s := opened s) hl hset hh hle]
    exact ⟨_, rfl, htrigger, hmoves, hraises, honly.touches_opened⟩
  · obtain ⟨hmoves, htrigger, hraises, htouches⟩ := overdue_after_arrival (s := s) (n := n) (l := l)
      (new := l.recharged (opened s)) rfl (returned_waits l (opened s)) rfl rfl rfl
    rw [exec_rechargeUntilArrival n hop, rechargeArrives_reached (s := opened s) hl hset hst hx hle]
    generalize checkOverdue n (triggerPass (storeRecord n (l.recharged (opened s)) (opened s))) = u at *
    rw [recharged_known (s := opened s) hset] at hmoves
    exact ⟨u, rfl, htrigger, hmoves, hraises, htouches⟩
  · obtain ⟨u, hu, hmoves, hraises, htouches⟩ := overdueArrives_told (s := s) hl harmed
      (by rcases hst with h | h | h <;> rw [h] <;> rfl) (overdueReached_of_le hset hle)
    rw [exec_overdueThresholdArrival n hop, hu]
    refine ⟨u, rfl, hmoves, fun hmask hroom => ?_, hraises, htouches⟩
    rw [hraises.first hmask hroom, knownTime_set hset]
  · rw [exec_overdueThresholdArrival n hop, checkOverdue_silent (s := opened s) hl hsilent]
    exact congrArg Host.Outcome.next (settle_of_no_trigger _ rfl)

end Sys2Proof.Machine
end

section
/-! PROOFS. SET-TIME (R42, R45, R46). -/

namespace Sys2Proof.Machine

/-! ### The outbox grows at its tail -/

/-- The notices of `s` stand at the front of `t`'s outbox. -/
def OutboxGrows (s t : State) : Prop := s.outbox <+: t.outbox

theorem OutboxGrows.trans {s t u : State} (h1 : OutboxGrows s t) (h2 : OutboxGrows t u) : OutboxGrows s u :=
  List.IsPrefix.trans h1 h2

theorem OutboxGrows.same {s t : State} (h : t.outbox = s.outbox) : OutboxGrows s t := by
  unfold OutboxGrows
  rw [h]

theorem Raises.grows {ns : List NoticeBody} {s t : State} (h : Raises ns s t) : OutboxGrows s t := by
  obtain ⟨houtbox, -, -⟩ := h
  exact ⟨_, houtbox.symm⟩

theorem storeRecord_grows (n : Nat) (l : Luminaire) (s : State) : OutboxGrows s (storeRecord n l s) :=
  (storeRecord_raises n l s).grows

theorem checkOverdue_grows (n : Nat) (s : State) : OutboxGrows s (checkOverdue n s) := by
  unfold checkOverdue
  split
  · split
    · exact (raise_raises _ s).grows.trans (storeRecord_grows n _ _)
    · exact .same rfl
  · exact .same rfl

theorem holdOffArrives_grows (n : Nat) (s : State) : OutboxGrows s (holdOffArrives n s) := by
  unfold holdOffArrives
  split
  · split
    · exact storeRecord_grows n _ s
    · exact .same rfl
  · exact .same rfl

theorem rechargeArrives_grows (n : Nat) (s : State) : OutboxGrows s (rechargeArrives n s) := by
  unfold rechargeArrives
  split
  · split
    · exact OutboxGrows.trans (t := triggerPass (storeRecord n _ s)) (storeRecord_grows n _ s) (checkOverdue_grows n _)
    · exact .same rfl
  · exact .same rfl

theorem dueArrives_grows (n : Nat) (s : State) : OutboxGrows s (dueArrives n s) := by
  unfold dueArrives
  split
  · split
    · exact (putLum_tables n _ s).raises.grows
    · exact .same rfl
  · exact .same rfl

theorem instantsArrive_grows (n : Nat) (s : State) : OutboxGrows s (instantsArrive n s) :=
  (((holdOffArrives_grows n s).trans (rechargeArrives_grows n _)).trans (dueArrives_grows n _)).trans (checkOverdue_grows n _)

theorem resolvePending_grows (n : Nat) (s : State) : OutboxGrows s (resolvePending n s) := by
  unfold resolvePending
  split
  · split
    · exact storeRecord_grows n _ s
    · exact .same rfl
  · exact .same rfl

theorem allInstantsArrive_grows (s : State) : OutboxGrows s (allInstantsArrive s) :=
  foldl_only (fun _ => .same rfl) (fun h1 h2 => h1.trans h2) (fun s n => instantsArrive_grows n s) _ s

theorem resolveAllPending_grows (s : State) : OutboxGrows s (resolveAllPending s) :=
  foldl_only (fun _ => .same rfl) (fun h1 h2 => h1.trans h2) (fun s n => resolvePending_grows n s) _ s

/-! ### Pending recharges -/

/-- No recharge until of the records is pending. -/
def NonePending (s : State) : Prop := ∀ n l, s.luminaires.get n = some l → l.recharge ≠ some .pending

theorem rechargeFromNow_known {s : State} (h : s.quality ≠ .unset) : rechargeFromNow s ≠ .pending := by
  unfold rechargeFromNow
  rw [if_neg h]
  exact fun h => nomatch h

theorem get_resolvePending_other {n m : Nat} (s : State) (h : m ≠ n) :
    (resolvePending n s).luminaires.get m = s.luminaires.get m := by
  unfold resolvePending
  split
  · split
    · rw [writeItem_luminaires, get_putLum, if_neg h]
    · rfl
  · rfl

theorem resolvePending_resolved {n : Nat} {l : Luminaire} {s : State} (hset : s.quality ≠ .unset)
    (h : (resolvePending n s).luminaires.get n = some l) : l.recharge ≠ some .pending := by
  unfold resolvePending at h
  split at h
  · split at h
    · rw [writeItem_luminaires, get_putLum, if_pos rfl] at h
      cases h
      exact fun hpending => rechargeFromNow_known hset (Option.some.inj hpending)
    · rename_i l0 hl0 hnot
      rw [hl0] at h
      cases h
      exact hnot
  · rename_i hnone
    rw [hnone] at h
    exact (nomatch h)

theorem foldl_resolvePending_nonePending (ks : List Nat) {s : State} (hset : s.quality ≠ .unset)
    (h : ∀ n l, s.luminaires.get n = some l → n ∉ ks → l.recharge ≠ some .pending) :
    NonePending (ks.foldl (fun t n => resolvePending n t) s) := by
  induction ks generalizing s with
  | nil => exact fun n l hl => h n l hl List.not_mem_nil
  | cons k ks ih =>
    refine ih ?_ fun n l hl hn => ?_
    · change (resolvePending k s).quality ≠ .unset
      rw [show resolvePending k s = _ from resolvePending_only k s]
      exact hset
    · by_cases hnk : n = k
      · subst hnk
        exact resolvePending_resolved hset hl
      · rw [get_resolvePending_other s hnk] at hl
        exact h n l hl fun hmem => (List.mem_cons.mp hmem).elim hnk hn

theorem resolveAllPending_nonePending {s : State} (hset : s.quality ≠ .unset) : NonePending (resolveAllPending s) :=
  foldl_resolvePending_nonePending _ hset fun _ _ hl hn => absurd (Table.mem_keys_of_get hl) hn

theorem dueDone_recharge (s : State) (l : Luminaire) : (dueDone s l).recharge = l.recharge := by
  unfold dueDone
  split
  · exact enter_recharge _ _
  · rfl

theorem holdOffDone_recharge (s : State) (l : Luminaire) : (holdOffDone s l).recharge = l.recharge := by
  unfold holdOffDone
  split <;> rfl

/-- An arrival ends a recharge or leaves it. -/
theorem arrived_recharge (s : State) (l : Luminaire) :
    (overdueDone s (dueDone s (rechargeDone s (holdOffDone s l)))).recharge = none ∨
      (overdueDone s (dueDone s (rechargeDone s (holdOffDone s l)))).recharge = l.recharge := by
  rw [overdueDone_recharge, dueDone_recharge]
  unfold rechargeDone
  split
  · rw [overdueDone_recharge]
    exact .inl rfl
  · rw [holdOffDone_recharge]
    exact .inr rfl

theorem instantsArrive_nonePending {s : State} (n : Nat) (hset : s.quality ≠ .unset) (h : NonePending s) :
    NonePending (instantsArrive n s) := by
  intro m l hl
  rw [get_instantsArrive _ _ _ hset] at hl
  split at hl
  · obtain ⟨l0, hl0, rfl⟩ := Option.map_eq_some_iff.mp hl
    rcases arrived_recharge s l0 with hnone | hsame
    · rw [hnone]
      exact fun h => nomatch h
    · rw [hsame]
      exact h n l0 hl0
  · exact h m l hl

theorem foldl_instantsArrive_nonePending (ks : List Nat) {s : State} (hset : s.quality ≠ .unset) (h : NonePending s) :
    NonePending (ks.foldl (fun t n => instantsArrive n t) s) := by
  induction ks generalizing s with
  | nil => exact h
  | cons k ks ih =>
    refine ih ?_ (instantsArrive_nonePending k hset h)
    change (instantsArrive k s).quality ≠ .unset
    rw [(instantsArrive_only k s).sameClock.2.1]
    exact hset

/-! ### SET-TIME -/

theorem exec_setTime (tag : Byte) (body : List Byte) (s : State) : exec (.setTime tag body) s = request 0x30 tag body s := rfl

/-- The clock has been set and what the unset clock left pending is resolved (R45). -/
def timeTaken (t : Nat) (s : State) : State := if s.quality = .unset then resolveAllPending (clockSet t s) else clockSet t s

theorem clockSet_eq (t : Nat) (s : State) : clockSet t s = { s with
    campus := t, quality := .set, staleness := some 691200, outbox := (clockSet t s).outbox
    noticesLost := (clockSet t s).noticesLost, attn := (clockSet t s).attn } := by
  unfold clockSet
  dsimp only
  split
  · rw [show raise _ _ = _ from raise_only _ _]
  · rfl

theorem clockSet_step {t : Nat} {s : State} (hset : s.quality ≠ .unset) (hfar : s.campus + 900 < t ∨ t + 900 < s.campus)
    (hmask : s.mask.getLsbD 3 = false) (hroom : s.outbox.length < 32) :
    (clockSet t s).outbox = s.outbox ++ [⟨some t, .timeStep s.campus t⟩] := by
  unfold clockSet
  dsimp only
  rw [if_pos ⟨hset, hfar⟩]
  exact raise_outbox_of_room (b := .timeStep s.campus t) (s := { s with
    campus := t, quality := .set, staleness := some stalenessSeconds }) hmask hroom

theorem timeTaken_only (t : Nat) (s : State) : OnlyRecords (clockSet t s) (timeTaken t s) := by
  unfold timeTaken
  split
  · exact resolveAllPending_only _
  · exact OnlyRecords.rfl' _

theorem timeTaken_grows (t : Nat) (s : State) : OutboxGrows (clockSet t s) (timeTaken t s) := by
  unfold timeTaken
  split
  · exact resolveAllPending_grows _
  · exact .same rfl

theorem timeTaken_set (t : Nat) (s : State) : (timeTaken t s).quality ≠ .unset := by
  rw [(timeTaken_only t s).sameClock.2.1, clockSet_eq]
  exact fun h => nomatch h

theorem timeTaken_nonePending {t : Nat} {s : State} (h : s.quality = .unset) : NonePending (timeTaken t s) := by
  unfold timeTaken
  rw [if_pos h]
  refine resolveAllPending_nonePending ?_
  rw [clockSet_eq]
  exact fun h => nomatch h

/-- SET-TIME: the clock, the pending recharges, the arrivals, the window (R45). -/
theorem setTime_eq (a b c d : Byte) (s : State) : setTime [a, b, c, d] s =
    ({ triggerIf (decide (s.quality ≠ .set)) (evaluateWindow (allInstantsArrive (timeTaken (be4 a b c d) s))) with
      writeFailed := false }, .done (optTime (knownTime s) ++ [s.quality.code])) := rfl

/-- Settles O24: the clock is set first, then every reached instant arrives, then the window is evaluated. -/
theorem setTimeSetsTheClock : Obligations.SetTimeSetsTheClock := by
  unfold Obligations.SetTimeSetsTheClock
  intro s tag a b c d hs
  have howner := setTime_eq a b c d (atOwner s)
  generalize be4 a b c d = t at *
  have hclock := clockSet_eq t (atOwner s)
  have hstep := @clockSet_step t (atOwner s)
  have htaken := timeTaken_only t (atOwner s)
  have hgrows := timeTaken_grows t (atOwner s)
  have hset := timeTaken_set t (atOwner s)
  have hresolved := @timeTaken_nonePending t (atOwner s)
  generalize timeTaken t (atOwner s) = v at *
  generalize clockSet t (atOwner s) = w at *
  have harrive := allInstantsArrive_only v
  have hgrows' := hgrows.trans (allInstantsArrive_grows v)
  have hsettled := allInstantsArrive_settled v hset
  have hnone : NonePending v → NonePending (allInstantsArrive v) := foldl_instantsArrive_nonePending _ hset
  generalize allInstantsArrive v = x at *
  have hevaluated := evaluateWindow_evaluated x
  have hgrows'' := hgrows'.trans hevaluated.raises.grows
  generalize evaluateWindow x = y at *
  have honly := hevaluated.only
  unfold OnlyRecords at htaken harrive
  unfold OnlyCalendar at honly
  have hsending : y.sending = none := by
    rw [honly, harrive, htaken, hclock]
    exact hs.2.1
  have hluminaires : y.luminaires = x.luminaires := by rw [honly]
  have hcampus : v.campus = t := by rw [htaken, hclock]
  have hparams : v.params = s.params := by
    rw [htaken, hclock]
    rfl
  refine ⟨_, request_done_settle 0x30 tag [a, b, c, d] s _ setTime _ hs (by simp) (by decide) rfl howner hsending rfl, ?_,
    hevaluated.windowOpen, fun hunset => ?_, fun n l hl => ?_, fun hmask hroom hknown hfar => ?_⟩
  · unfold triggerIf
    dsimp only
    rw [honly, harrive, htaken, hclock]
    rfl
  · change (y.trigger || decide (s.quality ≠ .set)) = true
    rw [decide_eq_true hunset, Bool.or_true]
  · have hget : x.luminaires.get n = some l := hluminaires ▸ hl
    obtain ⟨hhold, hidle, huntil, harmed⟩ := hsettled n l hget
    rw [hcampus] at hhold hidle huntil harmed
    rw [hparams] at harmed
    exact ⟨hhold, hidle, huntil, harmed, fun hunset => hnone (hresolved hunset) n l hget⟩
  · obtain ⟨more, hmore⟩ := hgrows''
    change y.outbox[s.outbox.length]? = _
    rw [← hmore, hstep hknown hfar hmask hroom, List.append_assoc]
    exact (List.getElem?_append_right (Nat.le_refl _)).trans (by rw [Nat.sub_self]; rfl)

end Sys2Proof.Machine
end

section
/-! PROOFS. Coverage, the open window, the open interval's end and the next blackout (R48, R49, R52, R53). -/

namespace Sys2Proof.Machine

theorem covers_within {e : WindowEntry} {t : Nat} (h : e.start < e.stop) : e.covers t = true ↔
    e.days.getLsbD (weekday t) = true ∧ e.start * 60 ≤ t % 86400 ∧ t % 86400 < e.stop * 60 := by
  unfold WindowEntry.covers secondOfDay daySeconds
  simp only [if_pos h, Bool.and_eq_true, decide_eq_true_eq, and_assoc]

theorem covers_across {e : WindowEntry} {t : Nat} (h : ¬e.start < e.stop) : e.covers t = true ↔
    (e.days.getLsbD (weekday t) = true ∧ e.start * 60 ≤ t % 86400) ∨
      (e.days.getLsbD ((weekday t + 6) % 7) = true ∧ t % 86400 < e.stop * 60) := by
  unfold WindowEntry.covers secondOfDay daySeconds
  simp only [if_neg h, Bool.and_eq_true, Bool.or_eq_true, decide_eq_true_eq]

theorem weekday_yesterday {t : Nat} (h : 86400 ≤ t) : (weekday t + 6) % 7 = weekday (t - 86400) := by
  unfold weekday daySeconds
  omega

theorem blackoutAt_false_iff (s : State) (t : Nat) :
    blackoutAt s t = false ↔ ∀ p ∈ s.blackouts, ¬(p.2.start ≤ t ∧ t < p.2.stop) := by
  unfold blackoutAt
  simp only [List.any_eq_false, Bool.and_eq_true, decide_eq_true_eq]

theorem openNow_iff (s : State) : openNow s = true ↔ (s.quality = .set ∨ s.quality = .stale) ∧
    (∃ p ∈ s.windows, p.2.modes.getLsbD s.mode.index = true ∧ p.2.covers s.campus = true) ∧
    ∀ p ∈ s.blackouts, ¬(p.2.start ≤ s.campus ∧ s.campus < p.2.stop) := by
  have hquality : s.quality ≠ .unset ↔ s.quality = .set ∨ s.quality = .stale := by
    cases s.quality <;> simp
  unfold openNow
  rw [Bool.and_eq_true, Bool.and_eq_true, decide_eq_true_eq, coveredAt_iff, Bool.not_eq_true', blackoutAt_false_iff,
    hquality, and_assoc]

/-- Settles O23: an entry's two shapes of coverage, and the first instants that the laws of the calendar find. -/
theorem theWindowIsOpenExactlyWhen : Obligations.TheWindowIsOpenExactlyWhen := by
  unfold Obligations.TheWindowIsOpenExactlyWhen
  refine ⟨fun e t hstart hstop => ⟨rfl, rfl, rfl, covers_within, fun hle hday => ?_⟩, openNow_iff,
    fun s hopen hranges => ?_, fun s => ⟨fun hin => ?_, fun hout => ?_⟩⟩
  · rw [covers_across (Nat.not_lt.mpr hle), weekday_yesterday hday]
  · have hcovered := (coveredAt_iff s s.campus).mpr ((openNow_iff s).mp hopen).2.1
    simp only [← coveredAt_iff]
    exact openIntervalEnd_spec s hranges hcovered
  · refine if_pos ?_
    by_contra hnot
    obtain ⟨p, hp, hforce⟩ := hin
    exact (blackoutAt_false_iff s s.campus).mp (Bool.eq_false_iff.mpr hnot) p hp hforce
  · exact nextBlackout_later s ((blackoutAt_false_iff s s.campus).mpr hout)

end Sys2Proof.Machine
end

section
/-! PROOFS. Sends on a branch line, and the requests of direct mode (R162 to R164, R173 to R176). -/

namespace Sys2Proof.Machine

/-! ### The commands of a branch line -/

theorem exec_exchangeSend (b : Fin 8) {s : State} (h : s.phase = .operating) :
    exec (.exchangeSend b) s = .next (settle (sendNext b (opened s))) := branchEvent_operating b sendNext s h

theorem exec_answerFirstByte (b : Fin 8) {s : State} (h : s.phase = .operating) :
    exec (.answerFirstByte b) s = .next (settle (answerBegins b (opened s))) := branchEvent_operating b answerBegins s h

theorem exec_answerTimeout (b : Fin 8) {s : State} (h : s.phase = .operating) :
    exec (.answerTimeout b) s = .next (settle (answerTimesOut b (opened s))) := branchEvent_operating b answerTimesOut s h

theorem exec_nodeFrameByteGap (b : Fin 8) {s : State} (h : s.phase = .operating) :
    exec (.nodeFrameByteGap b) s = .next (settle (answerBreaksOff b (opened s))) := branchEvent_operating b answerBreaksOff s h

theorem exec_nodeAnswerFrame (b : Fin 8) (bytes : List Byte) {s : State} (h : s.phase = .operating) :
    exec (.nodeAnswerFrame b bytes) s = .next (settle (answerArrives b bytes (opened s))) :=
  branchEvent_operating b (fun b => answerArrives b bytes) s h

theorem exec_chatterEvent (b : Fin 8) {s : State} (h : s.phase = .operating) :
    exec (.chatterEvent b) s = .next (settle (chatterHappens b (opened s))) := branchEvent_operating b chatterHappens s h


/-! ### Sends -/

theorem nextToSend_nil : nextToSend [] = none := rfl

theorem nextToSend_stop {q : List Exchange} {e : Exchange} (h : q.find? (fun e => e.kind == .stop) = some e) :
    nextToSend q = some e := by
  unfold nextToSend
  rw [h]
  rfl

theorem nextToSend_head {q : List Exchange} {e : Exchange} (hnone : q.find? (fun e => e.kind == .stop) = none)
    (h : q.head? = some e) : nextToSend q = some e := by
  unfold nextToSend
  rw [hnone, h]
  rfl

theorem sendNext_busy {b : Fin 8} {f : InFlight} {s : State} (h : s.branches[b].inFlight = some f) : sendNext b s = s := by
  unfold sendNext
  dsimp only
  rw [h]

theorem sendNext_empty {b : Fin 8} {s : State} (h : s.branches[b].queue = []) : sendNext b s = s := by
  unfold sendNext
  dsimp only
  rw [h, nextToSend_nil]
  cases s.branches[b].inFlight <;> rfl

theorem sendNext_stopped {b : Fin 8} {s : State} (h : s.branches[b].state.works = false) : sendNext b s = s := by
  unfold sendNext
  dsimp only
  rw [h]
  cases s.branches[b].inFlight <;> cases nextToSend s.branches[b].queue <;> rfl

theorem sendNext_sends {b : Fin 8} {e : Exchange} {s : State} (hworks : s.branches[b].state.works = true)
    (hnone : s.branches[b].inFlight = none) (hnext : nextToSend s.branches[b].queue = some e) :
    sendNext b s = { s with branches := s.branches.set b { s.branches[b] with
      queue := s.branches[b].queue.erase e, inFlight := some ⟨e, 1, s.params.answerTimeout, false⟩ } } := by
  unfold sendNext
  dsimp only
  rw [hnone, hnext]
  exact if_pos hworks

/-- The part after the frame in flight on a branch has been sent again. -/
def resentOn (b : Fin 8) (f : InFlight) (s : State) : State :=
  { s with branches := s.branches.set b { s.branches[b] with inFlight := some { f with
    sends := f.sends + 1, timeout := s.params.answerTimeout, receiving := false } } }

theorem sendFails_again {b : Fin 8} {f : InFlight} {s : State} (h : f.sends < 3) : sendFails b f s = resentOn b f s := if_pos h

theorem answerTimesOut_of {b : Fin 8} {f : InFlight} {s : State} (h : s.branches[b].inFlight = some f) :
    answerTimesOut b s = if f.receiving then s else sendFails b f s := by
  unfold answerTimesOut
  rw [h]

theorem answerBreaksOff_of {b : Fin 8} {f : InFlight} {s : State} (h : s.branches[b].inFlight = some f) :
    answerBreaksOff b s = sendFails b f s := by
  unfold answerBreaksOff
  rw [h]

theorem answerArrives_bad {b : Fin 8} {f : InFlight} {bytes : List Byte} {s : State} (h : s.branches[b].inFlight = some f)
    (hbad : ∀ a, nodeFrameOf bytes = some a → a.suits f.exchange = false) : answerArrives b bytes s = sendFails b f s := by
  unfold answerArrives
  rw [h]
  cases hframe : nodeFrameOf bytes with
  | none => rfl
  | some a => exact if_neg (ne_true_of_eq_false (hbad a hframe))

theorem answerBegins_of {b : Fin 8} {f : InFlight} {s : State} (h : s.branches[b].inFlight = some f) :
    answerBegins b s = { s with
      branches := s.branches.set b { s.branches[b] with inFlight := some { f with receiving := true } } } := by
  unfold answerBegins modBranch
  dsimp only
  rw [h]
  rfl

/-- Settles O43: the longest-waiting STOP, else the longest-waiting exchange, is sent where the branch works and is free; below
three sends a failed one is repeated. -/
theorem sendsGoOutAndAreRepeated : Obligations.SendsGoOutAndAreRepeated := by
  unfold Obligations.SendsGoOutAndAreRepeated
  refine ⟨fun s b hop => ?_, fun s b f bytes hop hf => ?_⟩
  · have quiet {t : State} (h : sendNext b (opened s) = t) (htrigger : t.trigger = false) :
        exec (.exchangeSend b) s = .next (finish t) := by
      rw [exec_exchangeSend b hop, h, settle_of_no_trigger t htrigger]
    refine ⟨fun f hf => quiet (sendNext_busy (s := opened s) hf) rfl, fun hempty => quiet (sendNext_empty (s := opened s) hempty) rfl,
      fun hstopped => quiet (sendNext_stopped (s := opened s) ?_) rfl, fun e hworks hnone hnext => ?_⟩
    · rcases hstopped with h | h <;> exact (congrArg BranchState.works h).trans rfl
    · refine quiet (sendNext_sends (s := opened s) ?_ hnone ?_) rfl
      · rcases hworks with h | h <;> exact (congrArg BranchState.works h).trans rfl
      · rcases hnext with h | ⟨hstop, hhead⟩
        · exact nextToSend_stop h
        · exact nextToSend_head hstop hhead
  · have resent (hsends : f.sends < 3) : settle (sendFails b f (opened s)) = finish (resentOn b f (opened s)) := by
      rw [sendFails_again hsends, settle_of_no_trigger _ rfl]
    refine ⟨?_, fun hreceiving => ?_, fun hreceiving hsends => ?_, fun hsends => ?_, fun hsends hbad => ?_⟩
    · rw [exec_answerFirstByte b hop, answerBegins_of (s := opened s) hf, settle_of_no_trigger _ rfl]
      rfl
    · rw [exec_answerTimeout b hop, answerTimesOut_of (s := opened s) hf, if_pos hreceiving, settle_of_no_trigger _ rfl]
      rfl
    · rw [exec_answerTimeout b hop, answerTimesOut_of (s := opened s) hf, if_neg (ne_true_of_eq_false hreceiving), resent hsends]
      rfl
    · rw [exec_nodeFrameByteGap b hop, answerBreaksOff_of (s := opened s) hf, resent hsends]
      rfl
    · rw [exec_nodeAnswerFrame b bytes hop, answerArrives_bad (s := opened s) hf hbad, resent hsends]
      rfl

/-! ### Direct mode -/

theorem exec_branchDirectEnter (tag : Byte) (body : List Byte) (s : State) :
    exec (.branchDirectEnter tag body) s = request 0x72 tag body s := rfl

theorem exec_branchDirectLeave (tag : Byte) (body : List Byte) (s : State) :
    exec (.branchDirectLeave tag body) s = request 0x73 tag body s := rfl

theorem exec_nodeExchange (tag : Byte) (body : List Byte) (s : State) :
    exec (.nodeExchange tag body) s = request 0x74 tag body s := rfl

theorem branchDirectEnter_eq (b : Fin 8) {x : Byte} (hx : x.toNat = b) (s : State) : branchDirectEnter [x] s =
    if s.branches[b].state = .ready ∧ occupiedOn s b = 0 then
      (modBranch b (fun br => { br with state := .direct }) s, .done [])
    else (s, .refused .state) := by
  unfold branchDirectEnter
  dsimp only
  rw [hx, branchOf_val]

theorem branchDirectLeave_eq (b : Fin 8) {x : Byte} (hx : x.toNat = b) (s : State) : branchDirectLeave [x] s =
    if s.branches[b].state = .direct then
      (triggerPass (modBranch b (fun br => { br with state := .ready }) s), .done [])
    else (s, .refused .state) := by
  unfold branchDirectLeave
  dsimp only
  rw [hx, branchOf_val]

/-- NODE-EXCHANGE with a body of the length its count gives: the node and the count, the branch's state, the free place. -/
theorem nodeExchange_eq (b : Fin 8) (tag : Byte) {x a1 a0 kind cnt : Byte} {bytes : List Byte} {node : Nat}
    (hx : x.toNat = b) (hlen : bytes.length = cnt.toNat) (hnode : be2 a1 a0 = node) (s : State) :
    nodeExchange tag (x :: a1 :: a0 :: kind :: cnt :: bytes) s =
      if node = 0 ∨ 512 ≤ node ∨ 32 < cnt.toNat then (s, .refused .outOfRange)
      else if s.branches[b].state ≠ .direct then (s, .refused .state)
      else if unreservedFree s b = 0 then (s, .refused .full)
      else
        (enqueue b (directExchange node kind bytes (enrolledAt s b node)) { s with service := some ⟨tag, b⟩ }, .later) := by
  subst hnode
  unfold nodeExchange
  dsimp only
  rw [if_neg (not_not_intro hlen), hx, branchOf_val]

theorem directMode_entered {s : State} (tag : Byte) {x : Byte} {b : Fin 8} (hs : Serves s) (hx : x.toNat = b)
    (hready : s.branches[b].state = .ready) (hfree : occupiedOn s b = 0) : exec (.branchDirectEnter tag [x]) s =
      .next { answered s (doneReply tag []) with branches := s.branches.set b { s.branches[b] with state := .direct } } := by
  have howner : branchDirectEnter [x] (atOwner s) = (modBranch b (fun br => { br with state := .direct }) (atOwner s), .done []) :=
    (branchDirectEnter_eq b hx (atOwner s)).trans (if_pos ⟨hready, hfree⟩)
  rw [exec_branchDirectEnter, request_done 0x72 tag [x] s _ branchDirectEnter _ hs (by simp) (by decide) rfl howner hs.2.1 rfl rfl]
  rfl

theorem directMode_left {s : State} (tag : Byte) {x : Byte} {b : Fin 8} (hs : Serves s) (hx : x.toNat = b)
    (hdirect : s.branches[b].state = .direct) : exec (.branchDirectLeave tag [x]) s =
      .next (settle { answered s (doneReply tag []) with
        branches := s.branches.set b { s.branches[b] with state := .ready }, trigger := true }) := by
  have howner : branchDirectLeave [x] (atOwner s) =
      ({ atOwner s with
        branches := s.branches.set b { s.branches[b] with state := .ready }, trigger := true }, .done []) :=
    (branchDirectLeave_eq b hx (atOwner s)).trans (if_pos hdirect)
  exact request_done_settle 0x73 tag [x] s _ branchDirectLeave _ hs (by simp) (by decide) rfl howner hs.2.1 rfl

/-- NODE-EXCHANGE with a node and a count in range: the branch's state, the free place, and else the exchange is queued. -/
theorem nodeExchange_ranged {s : State} (b : Fin 8) (tag : Byte) {x a1 a0 kind cnt : Byte} {bytes : List Byte} {node : Nat}
    (hs : Serves s) (hx : x.toNat = b) (hlen : bytes.length = cnt.toNat) (hnode : be2 a1 a0 = node)
    (hranged : 1 ≤ node ∧ node ≤ 511 ∧ cnt.toNat ≤ 32) :
    exec (.nodeExchange tag (x :: a1 :: a0 :: kind :: cnt :: bytes)) s =
      if s.branches[b].state ≠ .direct then .next (answered s (refusal tag .state))
      else if unreservedFree s b = 0 then .next (answered s (refusal tag .full))
      else .next { opened s with
        receiver := .hunt, service := some ⟨tag, b⟩
        branches := s.branches.set b { s.branches[b] with queue := s.branches[b].queue ++
          [⟨.direct, node, kind, bytes, enrolledAt s b node, .host, false⟩] } } := by
  have howner := nodeExchange_eq b tag (kind := kind) hx hlen hnode (atOwner s)
  rw [if_neg (by omega)] at howner
  have hfits : (x :: a1 :: a0 :: kind :: cnt :: bytes).length ≤ 248 := by
    simp only [List.length_cons]
    omega
  by_cases hdirect : s.branches[b].state ≠ .direct
  · rw [if_pos hdirect]
    exact request_refused 0x74 tag _ s (nodeExchange tag) .state hs hfits (by decide) rfl (howner.trans (if_pos hdirect))
  · rw [if_neg hdirect]
    replace howner := howner.trans (if_neg hdirect)
    by_cases hfull : unreservedFree s b = 0
    · rw [if_pos hfull]
      exact request_refused 0x74 tag _ s (nodeExchange tag) .full hs hfits (by decide) rfl (howner.trans (if_pos hfull))
    · rw [if_neg hfull, exec_nodeExchange, request_served 0x74 tag _ s (nodeExchange tag) hs hfits (by decide) rfl,
        howner.trans (if_neg hfull), answer_later,
        enqueue_ready (by exact (congrArg BranchState.works (not_not.mp hdirect)).trans rfl), settle_of_no_trigger _ rfl]
      rfl

/-- Settles O42: direct mode is entered from a free READY branch and left by a trigger; NODE-EXCHANGE checks its range, then the
branch's state, then its free place, and else is queued. -/
theorem directModeAndNodeExchange : Obligations.DirectModeAndNodeExchange := by
  unfold Obligations.DirectModeAndNodeExchange
  refine ⟨fun s tag x b hs hx => ⟨directMode_entered tag hs hx, fun hnot => ?_, directMode_left tag hs hx, fun hnot => ?_⟩,
    fun s tag x a1 a0 kind cnt bytes b hs hx hlen => ?_⟩
  · have howner := (branchDirectEnter_eq b hx (atOwner s)).trans (if_neg fun h => hnot.elim (· h.1) (· h.2))
    exact request_refused 0x72 tag [x] s branchDirectEnter .state hs (by simp) (by decide) rfl howner
  · have howner := (branchDirectLeave_eq b hx (atOwner s)).trans (if_neg hnot)
    exact request_refused 0x73 tag [x] s branchDirectLeave .state hs (by simp) (by decide) rfl howner
  · generalize hnode : be2 a1 a0 = node
    refine ⟨fun hnot hbytes => ?_, fun hin hnot => ?_, fun hin hdirect hfull => ?_, fun hin hdirect hplace => ?_⟩
    · have howner := (nodeExchange_eq b tag (kind := kind) hx hlen hnode (atOwner s)).trans (if_pos (by omega))
      exact request_refused 0x74 tag _ s (nodeExchange tag) .outOfRange hs (by simp only [List.length_cons]; omega) (by decide)
        rfl howner
    · exact (nodeExchange_ranged b tag hs hx hlen hnode hin).trans (if_pos hnot)
    · exact (nodeExchange_ranged b tag hs hx hlen hnode hin).trans ((if_neg (not_not_intro hdirect)).trans (if_pos hfull))
    · exact (nodeExchange_ranged b tag hs hx hlen hnode hin).trans
        ((if_neg (not_not_intro hdirect)).trans (if_neg (Nat.ne_of_gt hplace)))

end Sys2Proof.Machine
end

section
/-! PROOFS. What a release with a result comes to, and the state in which the luminaire table leaves an answered exchange to its
issuer (R18, R110 to R113, R165, R181). -/

namespace Sys2Proof.Machine

/-! ### A release with a result -/

/-- The outcome of a slot that is released with a result: the fixed one, else LOST (R110). -/
def Slot.outcomeLeft (sl : Slot) : TestOutcome := sl.outcome.getD .lost

theorem lost_outcome (sl : Slot) (s : State) : (sl.lost s).outcome.getD .lost = sl.outcomeLeft := by
  unfold Slot.lost Slot.fix Slot.outcomeLeft
  cases h : sl.outcome <;> simp [h]

theorem lost_elapsed (sl : Slot) (s : State) : (sl.lost s).elapsedMinutes.getD 0 = minutesOf s sl := by
  unfold Slot.lost Slot.fix minutesOf
  cases sl.outcome.isSome <;> rfl

theorem lost_endVoltage (sl : Slot) (s : State) : (sl.lost s).endVoltage = sl.endVoltage := by
  unfold Slot.lost Slot.fix
  split <;> rfl

theorem lost_luminaire (sl : Slot) (s : State) : (sl.lost s).luminaire = sl.luminaire := fix_luminaire _ _ _

theorem releaseRecord_lost (s : State) (sl : Slot) (l : Luminaire) (o : TestOutcome) :
    releaseRecord s (sl.lost s) l o = resultOf s sl.luminaire l sl o (minutesOf s sl) sl.endVoltage := by
  unfold releaseRecord resultOf
  rw [lost_elapsed, lost_endVoltage, lost_luminaire]
  unfold Slot.lost Slot.fix
  split <;> rfl

/-- The luminaire's record as a release with a result leaves it (R111 to R113). -/
def releasedRecord (s : State) (sl : Slot) (l : Luminaire) : Luminaire :=
  overdueDone s (l.released s (sl.lost s) sl.outcomeLeft)

/-- The part in which a release of `sl` has queued its result, freed the slot and checked the threshold. -/
def checkedLost (k : Nat) (sl : Slot) (l : Luminaire) (s : State) : State := checkedWith k (sl.lost s) l sl.outcomeLeft s

theorem releaseResult_checked {k : Nat} {sl : Slot} {l : Luminaire} {s : State} (hk : s.slots.get k = some sl)
    (hl : s.luminaires.get sl.luminaire = some l) :
    releaseResult k s = triggerPass (tellReleased sl.origin k true (checkedLost k sl l s)) := by
  rw [releaseResult_eq hk hl, lost_outcome]
  rfl

theorem releaseResult_trigger {k : Nat} {sl : Slot} {l : Luminaire} {s : State} (hk : s.slots.get k = some sl)
    (hl : s.luminaires.get sl.luminaire = some l) : (releaseResult k s).trigger = true := by
  rw [releaseResult_checked hk hl]
  exact Bool.or_true _

theorem freedWith_results (k : Nat) (sl : Slot) (l : Luminaire) (o : TestOutcome) (s : State) :
    (freedWith k sl l o s).results = s.results ++ [releaseRecord s sl l o] ∧
      (freedWith k sl l o s).resultCounter = (s.resultCounter + 1) % 65536 := by
  have hput := putLum_only sl.luminaire (some (l.released s sl o)) (addResult (releaseRecord s sl l o) s)
  unfold OnlyRecords at hput
  constructor
  · change (putLum _ _ _).results = _
    rw [hput]
    exact addResult_results _ _
  · change (putLum _ _ _).resultCounter = _
    rw [hput]
    unfold addResult
    rw [writeItem_only .results (followAttn _)]
    rfl

theorem releaseResult_results {k : Nat} {sl : Slot} {l : Luminaire} {s : State} (hk : s.slots.get k = some sl)
    (hl : s.luminaires.get sl.luminaire = some l) :
    (releaseResult k s).results =
        s.results ++ [resultOf s sl.luminaire l sl sl.outcomeLeft (minutesOf s sl) sl.endVoltage] ∧
      (releaseResult k s).resultCounter = (s.resultCounter + 1) % 65536 := by
  have hfreed := freedWith_results k (sl.lost s) l sl.outcomeLeft s
  rw [releaseRecord_lost] at hfreed
  rw [releaseResult_checked hk hl, triggerPass_results, triggerPass_resultCounter,
    show tellReleased sl.origin k true (checkedLost k sl l s) = _ from tellReleased_only _ _ _ _,
    show checkedLost k sl l s = _ from checkedWith_records _ _ _ _ _]
  exact hfreed

theorem get_releaseResult {k m : Nat} {sl : Slot} {l : Luminaire} {s : State} (hk : s.slots.get k = some sl)
    (hl : s.luminaires.get sl.luminaire = some l) : (releaseResult k s).luminaires.get m =
      if m = sl.luminaire then some (releasedRecord s sl l) else s.luminaires.get m := by
  have hfreed (j : Nat) : (writeItem (.luminaire sl.luminaire) (freedWith k (sl.lost s) l sl.outcomeLeft s)).luminaires.get j =
      if j = sl.luminaire then some (l.released s (sl.lost s) sl.outcomeLeft) else s.luminaires.get j := by
    rw [writeItem_luminaires]
    change (putLum _ _ _).luminaires.get j = _
    rw [get_putLum, addResult_luminaires, lost_luminaire]
  have hclock : SameClock s (raiseOutcomeLatch sl.luminaire l sl.outcomeLeft
      (writeItem (.luminaire sl.luminaire) (freedWith k (sl.lost s) l sl.outcomeLeft s))) := by
    have htests : OnlyTests s (raiseOutcomeLatch sl.luminaire l sl.outcomeLeft
        (writeItem (.luminaire sl.luminaire) (freedWith k (sl.lost s) l sl.outcomeLeft s))) :=
      ((addResult_only _ s).trans ((putLum_only _ _ _).tests.trans (freeSlot_only _ _ _))).trans
        ((writeItem_only _ _).tests.trans (raiseOutcomeLatch_only _ _ _ _).tests)
    unfold OnlyTests at htests
    rw [htests]
    exact ⟨rfl, rfl, rfl⟩
  rw [releaseResult_checked hk hl, triggerPass_luminaires, tellReleased_luminaires]
  unfold checkedLost checkedWith
  rw [lost_luminaire, get_checkOverdue]
  rw [show (raiseOutcomeLatch sl.luminaire l sl.outcomeLeft _).luminaires = _ from by
    rw [show raiseOutcomeLatch sl.luminaire l sl.outcomeLeft _ = _ from raiseOutcomeLatch_only _ _ _ _]]
  rw [hfreed, hfreed, if_pos rfl]
  by_cases hm : m = sl.luminaire
  · rw [if_pos hm, if_pos hm, Option.map_some, overdueDone_same hclock]
    rfl
  · rw [if_neg hm, if_neg hm, if_neg hm]

theorem attn_of_results {u : State} (h : AttnFollows u) {r : ResultRecord} {rs : List ResultRecord}
    (hresults : u.results = rs ++ [r]) : u.attn = true := by
  rw [h]
  unfold attnLevel
  rw [hresults]
  simp

theorem addResult_attnFollows (r : ResultRecord) (s : State) : AttnFollows (addResult r s) :=
  (writeItem_safe _ _).attn rfl

/-- The result that a release queues asserts ATTN, and no part of the release clears it (R190). -/
theorem releaseResult_attn {k : Nat} {sl : Slot} {l : Luminaire} {s : State} (hk : s.slots.get k = some sl)
    (hl : s.luminaires.get sl.luminaire = some l) : (releaseResult k s).attn = true := by
  refine attn_of_results ?_ (releaseResult_results hk hl).1
  rw [releaseResult_checked hk hl]
  have hfreed : AttnFollows (freedWith k (sl.lost s) l sl.outcomeLeft s) :=
    ((putLum_tables _ _ _).collectionsKept.trans (freeSlot_collectionsKept _ _ _)).safe.attn (addResult_attnFollows _ s)
  have hrest : Moves (freedWith k (sl.lost s) l sl.outcomeLeft s) (checkedLost k sl l s) :=
    ((Moves.writes _ _).trans (raiseOutcomeLatch_moves _ _ _ _)).trans (checkOverdue_moves _ _)
  have hforget := (forget_collectionsKept sl.origin k true (checkedLost k sl l s)).safe
  exact (moves_collectionsSafe (tellReleased_moves sl.origin k true _)).attn
    (hforget.attn ((moves_collectionsSafe hrest).attn hfreed))

/-! ### The record that a release leaves -/

theorem overdueDone_form (s : State) (l : Luminaire) :
    ∃ told armed, overdueDone s l = { l with overdueReported := told, watchArmed := armed } := by
  unfold overdueDone
  split
  · exact ⟨_, _, rfl⟩
  · exact ⟨l.overdueReported, l.watchArmed, rfl⟩

theorem enter_form (l : Luminaire) (st : LumState) : ∃ why, l.enter st = { l with state := st, blockedBy := why } := by
  unfold Luminaire.enter
  split
  · rename_i h
    exact ⟨l.blockedBy, by rw [h]⟩
  · exact ⟨_, rfl⟩

theorem released_state (l : Luminaire) (s : State) (sl : Slot) (o : TestOutcome) :
    (l.released s sl o).state = stateWith l ∧
      (l.released s sl o).recharge = (if l.outAtRelease then none else some (rechargeFromNow s)) ∧
      (l.released s sl o).lastReport = l.lastReport ∧ (l.released s sl o).lastExchange = l.lastExchange := by
  obtain ⟨why, hentered⟩ := enter_form l .recharging
  obtain ⟨why', hleft⟩ := enter_form l .outOfService
  unfold Luminaire.released stateWith Luminaire.toRecharging
  rw [hentered, hleft]
  cases l.outAtRelease <;> exact ⟨rfl, rfl, rfl, rfl⟩

theorem dueAfter_eq (s : State) (l : Luminaire) (o : TestOutcome) : dueAfter s l o =
    match o with
      | .pass => campusSum s.campus (s.classes[l.cls].period * 86400)
      | .failShort | .failVoltage | .failLamp => campusSum s.campus (s.classes[l.cls].retest * 86400)
      | _ => l.due := by
  cases o <;> rfl

theorem latchesAfter_eq (k : Latches) (o : TestOutcome) : latchesAfter k o =
    match o with
      | .pass => { k with lamp := false, durationShort := false }
      | .failShort | .failVoltage => { k with durationShort := true }
      | .failLamp => { k with lamp := true }
      | _ => k := by
  cases o <;> rfl

/-- What every release with a result leaves of the record (R111 to R113). -/
structure LeftWith (s : State) (sl : Slot) (l l' : Luminaire) : Prop where
  state : l'.state = stateWith l
  recharge : l'.recharge = if l.outAtRelease then none else some (rechargeFromNow s)
  openMarker : l'.openMarker = false
  cancelPending : l'.cancelPending = none
  outAtRelease : l'.outAtRelease = false
  lastResult : l'.lastResult = some ⟨sl.outcomeLeft, s.campus, minutesOf s sl, sl.endVoltage⟩
  due : l'.due = dueAfter s l sl.outcomeLeft
  latches : l'.latches = latchesAfter l.latches sl.outcomeLeft
  lastReport : l'.lastReport = l.lastReport
  lastExchange : l'.lastExchange = l.lastExchange

theorem releasedRecord_left (s : State) (sl : Slot) (l : Luminaire) : LeftWith s sl l (releasedRecord s sl l) := by
  obtain ⟨told, armed, hform⟩ := overdueDone_form s (l.released s (sl.lost s) sl.outcomeLeft)
  obtain ⟨hstate, hrecharge, hreport, hexchange⟩ := released_state l s (sl.lost s) sl.outcomeLeft
  have hlast : (⟨sl.outcomeLeft, s.campus, (sl.lost s).elapsedMinutes.getD 0, (sl.lost s).endVoltage⟩ : LastResult) =
      ⟨sl.outcomeLeft, s.campus, minutesOf s sl, sl.endVoltage⟩ := by
    rw [lost_elapsed, lost_endVoltage]
  unfold releasedRecord
  rw [hform]
  exact ⟨hstate, hrecharge, rfl, rfl, rfl, congrArg some hlast, rfl, rfl, hreport, hexchange⟩

/-- What a release with a result of slot `k`, which holds `sl`, leads to (R110 to R113, R181). -/
structure Released (k : Nat) (sl : Slot) (l : Luminaire) (s u : State) : Prop where
  trigger : u.trigger = true
  slots : u.slots = s.slots.drop k
  results : u.results = s.results ++ [resultOf s sl.luminaire l sl sl.outcomeLeft (minutesOf s sl) sl.endVoltage]
  counter : u.resultCounter = (s.resultCounter + 1) % 65536
  attn : u.attn = true
  record : ∃ l', u.luminaires.get sl.luminaire = some l' ∧ LeftWith s sl l l'
  others : OnlyLuminaire sl.luminaire s u
  only : OnlyTests s u

theorem releaseResult_released {k : Nat} {sl : Slot} {l : Luminaire} {s : State} (hk : s.slots.get k = some sl)
    (hl : s.luminaires.get sl.luminaire = some l) : Released k sl l s (releaseResult k s) where
  trigger := releaseResult_trigger hk hl
  slots := releaseResult_slots k s
  results := (releaseResult_results hk hl).1
  counter := (releaseResult_results hk hl).2
  attn := releaseResult_attn hk hl
  record := ⟨_, (get_releaseResult hk hl).trans (if_pos rfl), releasedRecord_left s sl l⟩
  others := fun _ hm => (get_releaseResult hk hl).trans (if_neg hm)
  only := releaseResult_only k s

end Sys2Proof.Machine
end

section
/-! PROOFS. The state in which the luminaire table leaves an answered exchange to its issuer (R18, R20, R23, R116, R165). -/

namespace Sys2Proof.Machine

/-! ### Records, notices, writes and branch queues -/

/-- Beside records and what notices and writes touch, only the branch lines differ. -/
def OnlyLines (s t : State) : Prop :=
  t = { s with
    outbox := t.outbox, noticesLost := t.noticesLost, attn := t.attn, image := t.image, lastWrites := t.lastWrites
    storeState := t.storeState, writeFates := t.writeFates, writeFailed := t.writeFailed, luminaires := t.luminaires
    groups := t.groups, schedule := t.schedule, trigger := t.trigger, branches := t.branches }

theorem OnlyLines.trans {s t u : State} (h1 : OnlyLines s t) (h2 : OnlyLines t u) : OnlyLines s u := by
  unfold OnlyLines at *
  rw [h2, h1]

theorem OnlyRecords.lines {s t : State} (h : OnlyRecords s t) : OnlyLines s t := by
  unfold OnlyRecords at h
  unfold OnlyLines
  rw [h]

theorem OnlyBranches.lines {s t : State} (h : OnlyBranches s t) : OnlyLines s t := by
  unfold OnlyBranches at h
  unfold OnlyLines
  rw [h]

/-! ### The stray rule -/

/-- The part in which a stray STOP is queued for luminaire `n`, unless one waits already or no place is free (R117). -/
def strayOffered (n : Nat) (l : Luminaire) (s : State) : State :=
  if strayStopWaits s n then s else offer l.branch (stopExchange l.node n .stray false) s

theorem strayOffered_branches (n : Nat) (l : Luminaire) (s : State) : OnlyBranches s (strayOffered n l s) := by
  unfold strayOffered
  split
  · rfl
  · exact offer_only _ _ _

/-- The part in which the stray rule has written the record and raised its notice, before the threshold is checked. -/
def strayTold (n : Nat) (l : Luminaire) (r : NodeRecord) (s : State) : State :=
  raise (.strayTest n l.branch l.node l.state r.elapsed)
    (writeItem (.luminaire n) (putLum n (some (l.toRecharging s)) (strayOffered n l s)))

theorem stray_eq {n : Nat} {l : Luminaire} {s : State} (r : NodeRecord) (hl : s.luminaires.get n = some l) :
    stray n r s = if l.state = .recharging then strayTold n l r s else checkOverdue n (strayTold n l r s) := by
  unfold stray
  rw [hl]
  rfl

theorem strayTold_records (n : Nat) (l : Luminaire) (r : NodeRecord) (s : State) :
    OnlyRecords (strayOffered n l s) (strayTold n l r s) :=
  ((putLum_only _ _ _).trans (writeItem_only _ _).records).trans (raise_only _ _).records

theorem get_strayTold (n m : Nat) (l : Luminaire) (r : NodeRecord) (s : State) :
    (strayTold n l r s).luminaires.get m = if m = n then some (l.toRecharging s) else s.luminaires.get m := by
  unfold strayTold
  rw [raise_luminaires, writeItem_luminaires, get_putLum, show strayOffered n l s = _ from strayOffered_branches n l s]

/-- What the stray rule comes to (R116, R117). -/
structure Strayed (n : Nat) (l : Luminaire) (s u : State) : Prop where
  record : ∃ told armed, u.luminaires.get n = some { l.toRecharging s with overdueReported := told, watchArmed := armed }
  others : OnlyLuminaire n s u
  branches : u.branches = (strayOffered n l s).branches
  lines : OnlyLines s u

theorem stray_strayed {n : Nat} {l : Luminaire} {s : State} (r : NodeRecord) (hl : s.luminaires.get n = some l) :
    Strayed n l s (stray n r s) := by
  have htold := strayTold_records n l r s
  have hlines := (strayOffered_branches n l s).lines.trans htold.lines
  rw [stray_eq r hl]
  split
  · exact ⟨⟨_, _, (get_strayTold n n l r s).trans (if_pos rfl)⟩, fun m hm => (get_strayTold n m l r s).trans (if_neg hm),
      htold.branches, hlines⟩
  · have hchecked := checkOverdue_only n (strayTold n l r s)
    obtain ⟨told, armed, hform⟩ := overdueDone_form (strayTold n l r s) (l.toRecharging s)
    refine ⟨⟨told, armed, ?_⟩, fun m hm => ?_, hchecked.branches.trans htold.branches, hlines.trans hchecked.lines⟩
    · rw [get_checkOverdue, if_pos rfl, get_strayTold, if_pos rfl, Option.map_some, hform]
    · rw [get_checkOverdue, if_neg hm, get_strayTold, if_neg hm]

/-! ### The table takes an answer -/

/-- The part in which the table has taken the record of an answer, before the stray rule (R18, R20). -/
def recordTaken (n : Nat) (r : NodeRecord) (code : Option StartCode) (s : State) : State :=
  latchFault n .mainsLost (!r.mains && !r.testing) (latchFault n .charger (!r.chargerOk)
    (triggerIf ((s.luminaires.get n).any fun l => l.state == .due) (modLum n (fun l => l.reported s r code) s)))

theorem takeRecord_eq (n : Nat) (r : NodeRecord) (code : Option StartCode) (s : State) : takeRecord n r code s =
    if r.testing = true ∧ ((recordTaken n r code s).luminaires.get n).any (fun l => !l.state.holdsSlot) = true then
      stray n r (recordTaken n r code s)
    else recordTaken n r code s := rfl

/-- The part in which the table has taken an answer with a node state record, before the stray rule (R18, R20). -/
def answerTaken (n : Nat) (l : Luminaire) (r : NodeRecord) (code : Option StartCode) (s : State) : State :=
  recordTaken n r code (putLum n (some { l with lastExchange := some .answered }) s)

theorem recordTaken_of {n : Nat} {l : Luminaire} {r : NodeRecord} {code : Option StartCode} {s : State}
    (hl : s.luminaires.get n = some l) : recordTaken n r code s =
      latchFault n .mainsLost (!r.mains && !r.testing) (latchFault n .charger (!r.chargerOk)
        (triggerIf (l.state == .due) (putLum n (some (l.reported s r code)) s))) := by
  unfold recordTaken modLum
  rw [hl]
  rfl

theorem answerTaken_moves {n : Nat} {l : Luminaire} {s : State} (r : NodeRecord) (code : Option StartCode)
    (hl : s.luminaires.get n = some l) : RecordMoves n (some (recordAnswered s l r code)) s (answerTaken n l r code s) ∧
      (answerTaken n l r code s).trigger = (s.trigger || decide (l.state = .due)) ∧
      OnlyRecords s (answerTaken n l r code s) := by
  let l1 : Luminaire := { l with lastExchange := some .answered }
  have hmoves1 := recordMoves_putLum n l1 s
  have htrigger1 : (putLum n (some l1) s).trigger = s.trigger := putLum_trigger hl rfl rfl rfl
  have honly1 := putLum_only n (some l1) s
  have hclock : SameClock s (putLum n (some l1) s) := honly1.sameClock
  unfold answerTaken
  rw [recordTaken_of hmoves1.1]
  generalize putLum n (some l1) s = t at *
  let l2 : Luminaire := l1.reported t r code
  have hmoves2 := hmoves1.trans hl (recordMoves_putLum n l2 t) rfl rfl rfl rfl
  have htrigger2 : (triggerIf (l1.state == .due) (putLum n (some l2) t)).trigger = (s.trigger || decide (l.state = .due)) := by
    change ((putLum n (some l2) t).trigger || _) = _
    rw [putLum_trigger (l' := l2) hmoves1.1 rfl rfl rfl, htrigger1]
    exact congrArg (s.trigger || ·) (beq_eq_decide _ _)
  have hmoves3 : RecordMoves n (some l2) s (triggerIf (l1.state == .due) (putLum n (some l2) t)) := hmoves2.congr rfl rfl
  have honly3 := honly1.trans ((putLum_only n (some l2) t).trans (triggerIf_records (l1.state == .due) _))
  generalize triggerIf (l1.state == .due) (putLum n (some l2) t) = v at *
  obtain ⟨hmoves4, htrigger4⟩ := latchFault_moves .charger (!r.chargerOk) hl hmoves3 rfl rfl rfl
  have honly4 := honly3.trans (latchFault_only n .charger (!r.chargerOk) v)
  generalize latchFault n .charger (!r.chargerOk) v = w at *
  obtain ⟨hmoves5, htrigger5⟩ :=
    latchFault_moves .mainsLost (!r.mains && !r.testing) hl hmoves4 rfl (by cases r.chargerOk <;> rfl) rfl
  refine ⟨?_, htrigger5.trans (htrigger4.trans htrigger2), honly4.trans (latchFault_only n _ _ w)⟩
  convert hmoves5 using 2
  unfold recordAnswered
  simp only [l2, l1, Luminaire.reported, hclock.1, hclock.2.2, Latches.put]
  cases r.chargerOk <;> cases r.mains <;> cases r.testing <;> cases l.latches <;> simp [bandLifeSeconds]

theorem tableAnswered_taken {n : Nat} {l : Luminaire} {s : State} {b : Fin 8} {e : Exchange} (r : NodeRecord)
    (code : Option StartCode) (he : e.luminaire = some n) (hl : s.luminaires.get n = some l) (hb : l.branch = b)
    (hn : l.node = e.node) : tableAnswered b e (some (r, code)) s =
      if r.testing = true ∧ l.state.holdsSlot = false then stray n r (answerTaken n l r code s)
      else answerTaken n l r code s := by
  have hrecord := (answerTaken_moves r code hl).1.1
  have htable : tableAnswered b e (some (r, code)) s =
      takeRecord n r code (putLum n (some { l with lastExchange := some .answered }) s) := by
    unfold tableAnswered modLum
    rw [tableTakes_some he hl hb hn]
    dsimp only
    rw [hl]
  rw [htable, takeRecord_eq]
  change (if r.testing = true ∧ ((answerTaken n l r code s).luminaires.get n).any (fun l => !l.state.holdsSlot) = true then
    stray n r (answerTaken n l r code s) else answerTaken n l r code s) = _
  rw [hrecord]
  simp only [Option.any_some, Bool.not_eq_true']
  rfl

/-- What the table makes of a record at an answer, whether or not the stray rule acts on it afterwards (R18, R23, R116). -/
structure Reported (s : State) (l : Luminaire) (r : NodeRecord) (code : Option StartCode) (l' : Luminaire) : Prop where
  branch : l'.branch = l.branch
  node : l'.node = l.node
  outAtRelease : l'.outAtRelease = l.outAtRelease
  band : l'.band = bandAfter s.params l.band r.temperature
  lastReport : l'.lastReport = some ⟨r, s.campus, code⟩

theorem recordAnswered_reported (s : State) (l : Luminaire) (r : NodeRecord) (code : Option StartCode) :
    Reported s l r code (recordAnswered s l r code) := ⟨rfl, rfl, rfl, rfl, rfl⟩

theorem Reported.strayed {s : State} {l lw : Luminaire} {r : NodeRecord} {code : Option StartCode} (w : State) (told armed : Bool)
    (h : Reported s l r code lw) :
    Reported s l r code { lw.toRecharging w with overdueReported := told, watchArmed := armed } := by
  obtain ⟨why, hform⟩ := enter_form lw .recharging
  unfold Luminaire.toRecharging
  rw [hform]
  exact ⟨h.branch, h.node, h.outAtRelease, h.band, h.lastReport⟩

/-- The state `v` in which the table leaves to the issuer an answer that reached it in `s` (R18, R116). -/
structure TableTook (n : Nat) (l : Luminaire) (r : NodeRecord) (code : Option StartCode) (s v : State) : Prop where
  record : ∃ lv, v.luminaires.get n = some lv ∧ Reported s l r code lv
  others : OnlyLuminaire n s v
  lines : OnlyLines s v

theorem tableAnswered_took {n : Nat} {l : Luminaire} {s : State} {b : Fin 8} {e : Exchange} (r : NodeRecord)
    (code : Option StartCode) (he : e.luminaire = some n) (hl : s.luminaires.get n = some l) (hb : l.branch = b)
    (hn : l.node = e.node) : TableTook n l r code s (tableAnswered b e (some (r, code)) s) := by
  obtain ⟨hmoves, -, honly⟩ := answerTaken_moves r code hl
  rw [tableAnswered_taken r code he hl hb hn]
  split
  · have hstrayed := stray_strayed r hmoves.1
    obtain ⟨told, armed, hrecord⟩ := hstrayed.record
    exact ⟨⟨_, hrecord, (recordAnswered_reported s l r code).strayed _ told armed⟩,
      fun m hm => (hstrayed.others m hm).trans (hmoves.2.1 m hm), honly.lines.trans hstrayed.lines⟩
  · exact ⟨⟨_, hmoves.1, recordAnswered_reported s l r code⟩, hmoves.2.1, honly.lines⟩

/-! ### A matching answer -/

/-- The part in which an answered exchange has left its branch (R165, R166). -/
def lineFreed (s : State) (b : Fin 8) (sends : Nat) : State :=
  { opened s with branches := s.branches.set b (branchAnswered s b sends) }

theorem answerArrives_suits {b : Fin 8} {f : InFlight} {bytes : List Byte} {a : NodeFrame} {s : State}
    (hf : s.branches[b].inFlight = some f) (ha : nodeFrameOf bytes = some a) (hsuits : a.suits f.exchange = true) :
    answerArrives b bytes s = endAnswered b f a s := by
  unfold answerArrives
  rw [hf]
  dsimp only
  rw [ha]
  exact if_pos hsuits

theorem exec_answer {s : State} {b : Fin 8} {f : InFlight} {bytes : List Byte} {a : NodeFrame} (hop : s.phase = .operating)
    (hf : s.branches[b].inFlight = some f) (ha : nodeFrameOf bytes = some a) (hsuits : a.suits f.exchange = true) :
    exec (.nodeAnswerFrame b bytes) s = .next (settle (issuerAnswered f.exchange f.sends a
      (tableAnswered b f.exchange a.record (lineFreed s b f.sends)))) := by
  rw [exec_nodeAnswerFrame b bytes hop, answerArrives_suits (s := opened s) hf ha hsuits]
  rfl

theorem OnlyEnds.exchangeEnded {s u : State} (h : OnlyEnds (opened s) u) : ExchangeEnded s u := by
  unfold OnlyEnds at h
  unfold ExchangeEnded
  rw [h]
  rfl

theorem exchangeEnded_answer {s : State} {b : Fin 8} {f : InFlight} {a : NodeFrame} :
    ExchangeEnded s (issuerAnswered f.exchange f.sends a (tableAnswered b f.exchange a.record (lineFreed s b f.sends))) :=
  (endAnswered_only b f a (opened s)).exchangeEnded

end Sys2Proof.Machine
end

section
/-! PROOFS. A release queues one result; the STOP answer that judges a CLOSING slot (R98, R102, R103, R110 to R112, R181). -/

namespace Sys2Proof.Machine

/-! ### A slot freed -/

theorem get_freed {t : Table Slot} (hr : t.Rising) (k : Nat) :
    (t.drop k).get k = none ∧ ∀ j, j ≠ k → (t.drop k).get j = t.get j :=
  ⟨(get_drop hr k k).trans (if_pos rfl), fun j hj => (get_drop hr k j).trans (if_neg hj)⟩

theorem get_rewritten_freed {t : Table Slot} (hr : t.Rising) (k : Nat) (sl : Slot) :
    ((t.put k sl).drop k).get k = none ∧ ∀ j, j ≠ k → ((t.put k sl).drop k).get j = t.get j := by
  obtain ⟨hnone, hothers⟩ := get_freed (Table.rising_put hr k sl) k
  exact ⟨hnone, fun j hj => (hothers j hj).trans ((Table.get_put _ _ _ _).trans (if_neg hj))⟩

/-! ### A slot's contents, judged -/

/-- The slot's contents as a STOP answer with record `r` leaves them: outcome `o` after `m` minutes unless one is fixed, and the
answer's voltage (R98, R102). -/
def Slot.judged (sl : Slot) (o : TestOutcome) (m : Nat) (r : NodeRecord) : Slot := recordClosing (sl.fix o m) r

theorem judged_left (sl : Slot) (o : TestOutcome) (m : Nat) (r : NodeRecord) :
    (sl.judged o m r).outcome = some (sl.outcome.getD o) ∧
      (sl.judged o m r).elapsedMinutes.getD 0 = (if sl.outcome.isSome then sl.elapsedMinutes.getD 0 else m) ∧
      (sl.judged o m r).endVoltage = some r.millivolts ∧ (sl.judged o m r).luminaire = sl.luminaire ∧
      (sl.judged o m r).origin = sl.origin ∧ (sl.judged o m r).campusStart = sl.campusStart ∧
      (sl.judged o m r).bandAtStart = sl.bandAtStart := by
  unfold Slot.judged Slot.fix
  cases h : sl.outcome <;> simp [h, recordClosing, Slot.see]

theorem stopAnswered_eq (k : Nat) (sl : Slot) (r : NodeRecord) (s : State) : stopAnswered k sl r s =
    releaseResult k { s with
      slots := s.slots.put k
        (sl.judged (judge r.lamp (sl.endMinimum (bandOf s sl.luminaire) ≤ r.millivolts)) (elapsedNow s sl) r) } := rfl

theorem slotAnswered_stop {k n : Nat} {sl : Slot} {r : NodeRecord} {code : Option StartCode} {s : State}
    (hk : s.slots.get k = some sl) (hn : sl.luminaire = n) (hstatus : sl.status = .closing) :
    slotAnswered k n .stop r code s = stopAnswered k sl r s := by
  unfold slotAnswered
  rw [hk]
  dsimp only
  rw [if_neg (not_not_intro hn), hstatus]

theorem issuerAnswered_slot {e : Exchange} {sends k n : Nat} {a : NodeFrame} {r : NodeRecord} {code : Option StartCode}
    {s : State} (hi : e.issuer = .slot k n) (ha : a.record = some (r, code)) :
    issuerAnswered e sends a s = slotAnswered k n e.kind r code s := by
  unfold issuerAnswered
  rw [hi, ha]

theorem bandOf_some {n : Nat} {l : Luminaire} {s : State} (hl : s.luminaires.get n = some l) : bandOf s n = l.band := by
  unfold bandOf
  rw [hl]
  rfl

/-- What a result tells of the slot and of the luminaire's address. -/
theorem resultOf_congr {s t : State} {n : Nat} {l l' : Luminaire} {sl sl' : Slot} {o : TestOutcome} {m : Nat} {mv : Option Nat}
    (hcounter : t.resultCounter = s.resultCounter) (hcampus : t.campus = s.campus) (hbranch : l'.branch = l.branch)
    (hnode : l'.node = l.node) (horigin : sl'.origin = sl.origin) (hstart : sl'.campusStart = sl.campusStart)
    (hband : sl'.bandAtStart = sl.bandAtStart) : resultOf t n l' sl' o m mv = resultOf s n l sl o m mv := by
  unfold resultOf
  rw [hcounter, hcampus, hbranch, hnode, horigin, hstart, hband]

/-- A STOP answer that the table took in `s` and left in `v`, as it reaches a CLOSING slot (R102, R110 to R112). -/
theorem stopAnswered_judges {s v : State} {k n : Nat} {sl : Slot} {l : Luminaire} {r : NodeRecord} {code : Option StartCode}
    {o : TestOutcome} (htook : TableTook n l r code s v) (hr : s.slots.Rising) (hn : sl.luminaire = n)
    (ho : o = sl.outcome.getD (judge r.lamp (sl.endMinimum (bandAfter s.params l.band r.temperature) ≤ r.millivolts))) :
    (stopAnswered k sl r v).trigger = true ∧ (stopAnswered k sl r v).slots.get k = none ∧
      (∀ j, j ≠ k → (stopAnswered k sl r v).slots.get j = s.slots.get j) ∧
      (stopAnswered k sl r v).results = s.results ++ [resultOf s n l sl o (minutesOf s sl) (some r.millivolts)] ∧
      (∃ l', (stopAnswered k sl r v).luminaires.get n = some l' ∧ l'.state = stateWith l ∧
        l'.lastResult = some ⟨o, s.campus, minutesOf s sl, some r.millivolts⟩) ∧
      OnlyLuminaire n s (stopAnswered k sl r v) := by
  obtain ⟨lv, hlv, hreported⟩ := htook.record
  have hlines := htook.lines
  unfold OnlyLines at hlines
  have hslots : v.slots = s.slots := by rw [hlines]
  have hcounter : v.resultCounter = s.resultCounter := by rw [hlines]
  have hcampus : v.campus = s.campus := by rw [hlines]
  have hresults : v.results = s.results := by rw [hlines]
  have helapsed : elapsedNow v sl = elapsedNow s sl := by rw [hlines]; rfl
  have hband : bandOf v sl.luminaire = bandAfter s.params l.band r.temperature :=
    (bandOf_some (hn ▸ hlv)).trans hreported.band
  rw [stopAnswered_eq, hband, helapsed, hslots]
  obtain ⟨houtcome, hminutes, hvoltage, hlum, horigin, hstart, hat⟩ := judged_left sl
    (judge r.lamp (sl.endMinimum (bandAfter s.params l.band r.temperature) ≤ r.millivolts)) (elapsedNow s sl) r
  generalize sl.judged _ _ r = sl' at *
  rw [← ho] at houtcome
  have hminutes' (t : State) : minutesOf t sl' = minutesOf s sl := by
    unfold minutesOf
    rw [houtcome]
    exact hminutes
  have hleft : sl'.outcomeLeft = o := by
    unfold Slot.outcomeLeft
    rw [houtcome]
    rfl
  subst hn
  obtain ⟨htrigger, hfreed, hqueued, -, -, ⟨l', hl', hleftwith⟩, hothers, -⟩ :=
    releaseResult_released (s := { v with slots := s.slots.put k sl' }) (l := lv) (Table.get_put_self _ _ _)
      (by rw [hlum]; exact hlv)
  rw [hleft, hminutes', hvoltage, hlum] at hqueued
  rw [hlum] at hl' hothers
  obtain ⟨hnone, hkept⟩ := get_rewritten_freed hr k sl'
  generalize releaseResult k _ = u at *
  have hlast := hleftwith.lastResult
  rw [hleft, hminutes', hvoltage] at hlast
  refine ⟨htrigger, by rw [hfreed]; exact hnone, fun j hj => by rw [hfreed]; exact hkept j hj, hqueued.trans ?_,
    ⟨l', hl', hleftwith.state.trans ?_, hlast.trans ?_⟩, fun m hm => (hothers m hm).trans (htook.others m hm)⟩
  · exact congr_arg₂ (· ++ ·) hresults (congrArg (fun x => [x])
      (resultOf_congr hcounter hcampus hreported.branch hreported.node horigin hstart hat))
  · unfold stateWith
    rw [hreported.outAtRelease]
  · change some (LastResult.mk o v.campus _ _) = _
    rw [hcampus]

theorem counter_next (n : Nat) : (n + 1) % 65536 = if n = 65535 then 0 else (n + 1) % 65536 := by
  split
  · rename_i h
    rw [h]
  · rfl

/-- Settles O32: the STOP answer's judgement by its band, the release with a result, and the two together at a CLOSING slot. -/
theorem aReleaseQueuesOneResult : Obligations.AReleaseQueuesOneResult := by
  unfold Obligations.AReleaseQueuesOneResult
  refine ⟨fun sl mv lamp band => ⟨?_, ?_⟩, fun s k sl l o hr hk ho hl => ?_,
    fun s b f bytes a r code n l k sl hanswer hkind hissuer hr hk hn hstatus => ?_⟩
  · cases band <;> rfl
  · cases lamp <;> by_cases h : sl.endMinimum band ≤ mv <;> simp [judge, h]
  · obtain ⟨htrigger, hfreed, hqueued, hcounter, hattn, ⟨l', hl', hleft⟩, hothers, honly⟩ := releaseResult_released hk hl
    have houtcome : sl.outcomeLeft = o := by
      unfold Slot.outcomeLeft
      rw [ho]
      rfl
    have hminutes : minutesOf s sl = sl.elapsedMinutes.getD 0 := if_pos (by rw [ho]; rfl)
    rw [houtcome, hminutes] at hqueued
    obtain ⟨hnone, hkept⟩ := get_freed hr k
    unfold OnlyTests at honly
    generalize releaseResult k s = u at *
    have hlast := hleft.lastResult
    have hdue := hleft.due
    have hlatches := hleft.latches
    rw [houtcome, hminutes] at hlast
    rw [houtcome, dueAfter_eq] at hdue
    rw [houtcome, latchesAfter_eq] at hlatches
    refine ⟨u, l', rfl, htrigger, hfreed ▸ hnone, fun j hj => hfreed ▸ hkept j hj, hqueued, hcounter.trans (counter_next _), hattn,
      hl', hleft.state, hleft.recharge, hleft.openMarker, hleft.cancelPending, hleft.outAtRelease, hlast,
      hdue.trans (by cases o <;> rfl), hlatches.trans (by cases o <;> rfl), hothers, ?_⟩
    rw [honly]
    exact ⟨rfl, rfl, rfl, rfl⟩
  · obtain ⟨hop, hf, he, ha, hsuits, hrecord, hl, hb, hnode⟩ := hanswer
    have htook := tableAnswered_took r code (s := lineFreed s b f.sends) he hl hb hnode
    have hended := exchangeEnded_answer (s := s) (b := b) (f := f) (a := a)
    rw [exec_answer hop hf ha hsuits]
    rw [hrecord] at hended ⊢
    rw [issuerAnswered_slot hissuer hrecord, hkind] at hended ⊢
    have hlines := htook.lines
    have hslots : (tableAnswered b f.exchange (some (r, code)) (lineFreed s b f.sends)).slots.get k = some sl := by
      unfold OnlyLines at hlines
      rw [hlines]
      exact hk
    rw [slotAnswered_stop hslots hn hstatus] at hended ⊢
    obtain ⟨htrigger, hnone, hkept, hqueued, ⟨l', hl', hstate, hlast⟩, hothers⟩ := stopAnswered_judges htook hr hn rfl
    exact ⟨_, l', rfl, htrigger, hnone, hkept, hqueued, hl', hstate, hlast, hothers, hended⟩

end Sys2Proof.Machine
end

section
/-! PROOFS. The band after a reading; the stray rule at a CHECK's answer (R18, R23, R116, R117). -/

namespace Sys2Proof.Machine

/-! ### The band after a reading -/

/-- Where the reading's threshold band stands against the present one decides the band (R23). -/
theorem bandAfter_eq {p : Params} (hcold : p.coldNormal < p.normalWarm) (hwarm : p.normalWarm < p.warmHot) (t : Int) :
    bandAfter p .unknown t = thresholdBand p t ∧ bandAfter p .cold t = thresholdBand p t ∧
      bandAfter p .normal t =
        (if p.coldNormal ≤ t then thresholdBand p t else if t < p.coldNormal - p.hysteresis then .cold else .normal) ∧
      bandAfter p .warm t =
        (if p.normalWarm ≤ t then thresholdBand p t else if t < p.normalWarm - p.hysteresis then thresholdBand p t else .warm) ∧
      bandAfter p .hot t =
        (if p.warmHot ≤ t then .hot else if t < p.warmHot - p.hysteresis then thresholdBand p t else .hot) := by
  have hot (h : p.warmHot ≤ t) : thresholdBand p t = .hot := if_pos h
  have warm (h1 : ¬p.warmHot ≤ t) (h2 : p.normalWarm ≤ t) : thresholdBand p t = .warm := (if_neg h1).trans (if_pos h2)
  have normal (h1 : ¬p.warmHot ≤ t) (h2 : ¬p.normalWarm ≤ t) (h3 : p.coldNormal ≤ t) : thresholdBand p t = .normal :=
    (if_neg h1).trans ((if_neg h2).trans (if_pos h3))
  have cold (h1 : ¬p.warmHot ≤ t) (h2 : ¬p.normalWarm ≤ t) (h3 : ¬p.coldNormal ≤ t) : thresholdBand p t = .cold :=
    (if_neg h1).trans ((if_neg h2).trans (if_neg h3))
  unfold bandAfter
  by_cases h1 : p.warmHot ≤ t
  · simp [hot h1, Band.rank, h1, show p.normalWarm ≤ t by omega, show p.coldNormal ≤ t by omega]
  · by_cases h2 : p.normalWarm ≤ t
    · simp [warm h1 h2, Band.rank, lowerThreshold, h1, h2, show p.coldNormal ≤ t by omega]
    · by_cases h3 : p.coldNormal ≤ t
      · simp [normal h1 h2 h3, Band.rank, lowerThreshold, h1, h2, h3]
      · simp [cold h1 h2 h3, Band.rank, lowerThreshold, h1, h2, h3]

/-! ### Where a stray STOP waits -/

/-- A stray STOP of luminaire `n` is queued or in flight on the branch. -/
def Branch.holdsStrayStop (br : Branch) (n : Nat) : Bool :=
  br.queue.any (isStrayStopOf n) || (br.inFlight.any fun f => isStrayStopOf n f.exchange)

theorem strayStopWaits_iff (s : State) (n : Nat) :
    strayStopWaits s n = true ↔ ∃ b : Fin 8, s.branches[b].holdsStrayStop n = true := by
  unfold strayStopWaits
  rw [List.any_eq_true]
  constructor
  · rintro ⟨br, hmem, h⟩
    obtain ⟨i, hi, rfl⟩ := Vector.mem_iff_getElem.mp (Vector.mem_toList_iff.mp hmem)
    exact ⟨⟨i, hi⟩, h⟩
  · rintro ⟨b, h⟩
    exact ⟨_, Vector.mem_toList_iff.mpr (Vector.getElem_mem b.isLt), h⟩

theorem strayStopWaits_congr {s t : State} {n : Nat}
    (h : ∀ b : Fin 8, t.branches[b].holdsStrayStop n = s.branches[b].holdsStrayStop n) :
    strayStopWaits t n = strayStopWaits s n := by
  rw [Bool.eq_iff_iff, strayStopWaits_iff, strayStopWaits_iff]
  simp only [h]

/-- An answered exchange that is no stray STOP of the luminaire leaves what waits for it as it was. -/
theorem strayStopWaits_lineFreed {s : State} {b : Fin 8} {f : InFlight} {n : Nat} (hf : s.branches[b].inFlight = some f)
    (hstray : isStrayStopOf n f.exchange = false) : strayStopWaits (lineFreed s b f.sends) n = strayStopWaits s n := by
  refine strayStopWaits_congr fun a => ?_
  by_cases ha : a = b
  · subst ha
    have hat : (lineFreed s a f.sends).branches[a] = branchAnswered s a f.sends := Vector.getElem_set_self _
    rw [hat]
    unfold Branch.holdsStrayStop branchAnswered
    rw [hf]
    simp [hstray]
  · have hat : (lineFreed s b f.sends).branches[a] = s.branches[a] :=
      Vector.getElem_set_ne b.isLt a.isLt fun h => ha (Fin.ext h.symm)
    rw [hat]

theorem strayOffered_queue {n : Nat} {l : Luminaire} {b : Fin 8} {s : State} (hb : l.branch = b) :
    (strayOffered n l s).branches[b].queue = s.branches[b].queue ++
      (if strayStopWaits s n = false ∧ 0 < unreservedFree s b ∧ s.branches[b].state.works = true then
        [stopExchange l.node n .stray false] else []) := by
  unfold strayOffered offer
  rw [hb]
  cases hwaits : strayStopWaits s n with
  | true => simp
  | false =>
    by_cases hfree : 0 < unreservedFree s b
    · unfold enqueue modBranch
      cases hworks : s.branches[b].state.works <;> simp [hfree]
    · simp [hfree]

/-! ### Notices of an answer -/

theorem notice_first {b : NoticeBody} {t u : State} (hmask : t.mask.getLsbD b.kind = false) (hroom : t.outbox.length < 32)
    (hgrows : OutboxGrows (raise b t) u) : u.outbox[t.outbox.length]? = some ⟨knownTime t, b⟩ := by
  obtain ⟨rest, hrest⟩ := hgrows
  rw [raise_of_room hmask hroom] at hrest
  rw [← hrest]
  simp

theorem latchFault_set {n : Nat} {k : Latch} {calls : Bool} {l : Luminaire} {s : State} (hl : s.luminaires.get n = some l)
    (h : calls = false ∨ l.latches.has k = true) : latchFault n k calls s = s := by
  unfold latchFault
  refine if_neg ?_
  rw [hl]
  rintro ⟨hcalls, hclear⟩
  rcases h with h | h
  · rw [h] at hcalls
    cases hcalls
  · simp [h] at hclear

/-- An answer that shows the test running and calls for no new latch raises and writes nothing of its own (R20). -/
theorem answerTaken_tables {n : Nat} {l : Luminaire} {s : State} {r : NodeRecord} {code : Option StartCode}
    (htesting : r.testing = true) (hcharger : r.chargerOk = true ∨ l.latches.charger = true) :
    OnlyTables s (answerTaken n l r code s) := by
  have hput := putLum_tables n (some { l with lastExchange := some .answered }) s
  have hrecord : (putLum n (some { l with lastExchange := some .answered }) s).luminaires.get n =
      some { l with lastExchange := some .answered } := (get_putLum n n _ s).trans (if_pos rfl)
  unfold answerTaken
  rw [recordTaken_of hrecord]
  generalize putLum n (some { l with lastExchange := some .answered }) s = t at *
  have hreported := putLum_tables n (some (({ l with lastExchange := some .answered } : Luminaire).reported t r code)) t
  have hat := (get_putLum n n (({ l with lastExchange := some .answered } : Luminaire).reported t r code) t).trans (if_pos rfl)
  generalize putLum n (some (({ l with lastExchange := some .answered } : Luminaire).reported t r code)) t = v at *
  have htriggered : OnlyTables s (triggerIf (l.state == .due) v) := (hput.trans hreported).trans rfl
  have hrecord' : (triggerIf (l.state == .due) v).luminaires.get n = _ := hat
  rw [show ({ l with lastExchange := some .answered } : Luminaire).state = l.state from rfl,
    latchFault_set hrecord' (hcharger.imp (fun h => by rw [h]; rfl) id),
    latchFault_set hrecord' (.inl (by rw [htesting]; exact Bool.and_false _))]
  exact htriggered

end Sys2Proof.Machine
end

section
/-! PROOFS. A matching answer as it reaches its issuer: the placement unit, a slot, the host (R75, R94 to R98, R165, R175). -/

namespace Sys2Proof.Machine

/-! ### A stray test found by a CHECK -/

theorem stray_notice {n : Nat} {l : Luminaire} {s : State} (r : NodeRecord) (hl : s.luminaires.get n = some l)
    (hfates : s.writeFates = []) (hmask : s.mask.getLsbD 2 = false) (hroom : s.outbox.length < 32) :
    (stray n r s).outbox[s.outbox.length]? = some ⟨knownTime s, .strayTest n l.branch l.node l.state r.elapsed⟩ := by
  have hput : OnlyRecords (strayOffered n l s) (putLum n (some (l.toRecharging s)) (strayOffered n l s)) := putLum_only _ _ _
  have htables := putLum_tables n (some (l.toRecharging s)) (strayOffered n l s)
  have hoffered := strayOffered_branches n l s
  have hgrows : OutboxGrows (strayTold n l r s) (stray n r s) := by
    rw [stray_eq r hl]
    split
    · exact .same rfl
    · exact checkOverdue_grows n _
  unfold strayTold at hgrows
  generalize putLum n (some (l.toRecharging s)) (strayOffered n l s) = t at *
  unfold OnlyTables at htables
  unfold OnlyBranches at hoffered
  have houtbox : t.outbox = s.outbox := by rw [htables, hoffered]; rfl
  have hcampus : knownTime t = knownTime s := by rw [htables, hoffered]; rfl
  have hlands : writeFails t = false := by
    have hnone : t.writeFates = [] := by
      rw [htables, hoffered]
      exact hfates
    unfold writeFails
    rw [hnone]
    rfl
  rw [writeItem_lands _ _ hlands] at hgrows
  have hmask' : (landWrite (.luminaire n) t).mask.getLsbD 2 = false := by
    rw [show (landWrite (.luminaire n) t).mask = s.mask by
      change t.mask = s.mask
      rw [htables, hoffered]
      rfl]
    exact hmask
  have hfirst := notice_first hmask' (by exact houtbox ▸ hroom) hgrows
  rw [show (landWrite (.luminaire n) t).outbox = s.outbox from houtbox,
    show knownTime (landWrite (.luminaire n) t) = knownTime s from hcampus] at hfirst
  exact hfirst

theorem issuerAnswered_check {e : Exchange} {sends n : Nat} {a : NodeFrame} {s : State} (hi : e.issuer = .placement)
    (hn : e.luminaire = some n) :
    issuerAnswered e sends a s = triggerPass { s with checkPending := s.checkPending.erase n } := by
  unfold issuerAnswered checkEnds
  rw [hi]
  dsimp only
  rw [hn]

/-- A matching answer goes to the issuer as the table has left it (R165). -/
theorem exec_matched {s : State} {b : Fin 8} {f : InFlight} {bytes : List Byte} {a : NodeFrame} {r : NodeRecord}
    {code : Option StartCode} {n : Nat} {l : Luminaire} (h : AnswerMatches s b f bytes a r code n l) :
    ∃ u, u = issuerAnswered f.exchange f.sends a (tableAnswered b f.exchange (some (r, code)) (lineFreed s b f.sends)) ∧
      exec (.nodeAnswerFrame b bytes) s = .next (settle u) ∧ ExchangeEnded s u := by
  obtain ⟨hop, hf, he, ha, hsuits, hrecord, hl, hb, hnode⟩ := h
  rw [← hrecord]
  exact ⟨_, rfl, exec_answer hop hf ha hsuits, exchangeEnded_answer⟩

theorem lineFreed_queue (s : State) (b : Fin 8) (sends : Nat) :
    (lineFreed s b sends).branches[b] = branchAnswered s b sends := Vector.getElem_set_self _

theorem unreservedFree_lineFreed (s : State) (b : Fin 8) (sends : Nat) :
    unreservedFree (lineFreed s b sends) b = unreservedFree s b := by
  rw [unreservedFree_eq, unreservedFree_eq, lineFreed_queue]
  rfl

/-- A CHECK's answer that shows a test of a luminaire without a slot (R116, R117). -/
theorem checkAnswer_stray {s : State} {b : Fin 8} {f : InFlight} {bytes : List Byte} {a : NodeFrame} {r : NodeRecord}
    {code : Option StartCode} {n : Nat} {l : Luminaire} (hanswer : AnswerMatches s b f bytes a r code n l)
    (hissuer : f.exchange.issuer = .placement) (htesting : r.testing = true) (hfree : l.state.holdsSlot = false) :
    ∃ u l', exec (.nodeAnswerFrame b bytes) s = .next (settle u) ∧ u.luminaires.get n = some l' ∧
      l'.state = .recharging ∧
      l'.recharge = some (if s.quality = .unset then .pending
        else .until (campusSum s.campus (s.params.rechargePeriod * 3600))) ∧
      l'.due = l.due ∧ l'.lastResult = l.lastResult ∧ l'.holdOff = l.holdOff ∧ u.results = s.results ∧
      u.slots = s.slots ∧ OnlyLuminaire n s u ∧ ExchangeEnded s u ∧
      u.branches[b].queue = s.branches[b].queue ++
        (if strayStopWaits s n = false ∧ 0 < unreservedFree s b ∧ s.branches[b].state.works = true then
          [stopExchange l.node n .stray false] else []) ∧
      (r.chargerOk = true ∨ l.latches.charger = true → s.writeFates = [] → s.mask.getLsbD 2 = false →
        s.outbox.length < 32 → u.outbox[s.outbox.length]? = some
          ⟨if s.quality = .unset then none else some s.campus, .strayTest n b l.node l.state r.elapsed⟩) := by
  obtain ⟨u, hu, hexec, hended⟩ := exec_matched hanswer
  obtain ⟨-, hf, he, -, -, -, hl, hb, hnode⟩ := hanswer
  have hnostray : isStrayStopOf n f.exchange = false := by
    unfold isStrayStopOf
    rw [hissuer]
    rfl
  have hwaits := strayStopWaits_lineFreed hf hnostray
  have hplaces := unreservedFree_lineFreed s b f.sends
  have hqueue := lineFreed_queue s b f.sends
  have hlf : (lineFreed s b f.sends).luminaires.get n = some l := hl
  rw [issuerAnswered_check hissuer he, tableAnswered_taken r code he hlf hb hnode, if_pos ⟨htesting, hfree⟩] at hu
  obtain ⟨hmoves, -, htaken⟩ := answerTaken_moves r code hlf
  have htables : r.chargerOk = true ∨ l.latches.charger = true →
      OnlyTables (lineFreed s b f.sends) (answerTaken n l r code (lineFreed s b f.sends)) := answerTaken_tables htesting
  have hreported : recordAnswered (lineFreed s b f.sends) l r code = recordAnswered s l r code := rfl
  rw [hreported] at hmoves
  generalize hw : answerTaken n l r code (lineFreed s b f.sends) = w at *
  have hstrayed := stray_strayed r hmoves.1
  obtain ⟨told, armed, hl'⟩ := hstrayed.record
  have hlines := htaken.lines.trans hstrayed.lines
  unfold OnlyRecords at htaken
  unfold OnlyLines at hlines
  obtain ⟨why, hform⟩ := enter_form (recordAnswered s l r code) .recharging
  have hoffered := strayOffered_queue (n := n) (l := recordAnswered s l r code) (b := b) (s := w) hb
  refine ⟨u, _, hexec, by rw [hu]; exact hl', ?_, ?_, ?_, ?_, ?_, ?_, ?_,
    fun m hm => by rw [hu]; exact (hstrayed.others m hm).trans (hmoves.2.1 m hm), hended, ?_, fun hcharger hfates hmask hroom => ?_⟩
  · exact enter_state (recordAnswered s l r code) .recharging
  · rw [htaken]
    rfl
  · unfold Luminaire.toRecharging
    rw [hform]
    rfl
  · unfold Luminaire.toRecharging
    rw [hform]
    rfl
  · unfold Luminaire.toRecharging
    rw [hform]
    rfl
  · rw [hu, hlines]
    rfl
  · rw [hu, hlines]
    rfl
  · have hat : u.branches[b].queue = (stray n r w).branches[b].queue := by rw [hu]; rfl
    have hbranches : w.branches = (lineFreed s b f.sends).branches := by rw [htaken]
    have hslots : w.slots = (lineFreed s b f.sends).slots := by rw [htaken]
    have hsame : strayStopWaits w n = strayStopWaits s n := by
      rw [← hwaits]
      exact strayStopWaits_congr fun a => by rw [hbranches]
    have hroom : unreservedFree w b = unreservedFree s b := by
      rw [← hplaces, unreservedFree_eq, unreservedFree_eq, occupiedOn_congr hslots, hbranches]
    rw [hat, hstrayed.branches, hoffered, hsame, hroom, hbranches, hqueue]
    rfl
  · have hnotice := stray_notice r hmoves.1 (s := w)
    have hquiet := htables hcharger
    unfold OnlyTables at hquiet
    have houtbox : w.outbox = s.outbox := by rw [hquiet]; rfl
    have htime : knownTime w = knownTime s := by rw [hquiet]; rfl
    have hnotice := hnotice (by rw [hquiet]; exact hfates) (by rw [hquiet]; exact hmask) (by rw [houtbox]; exact hroom)
    rw [houtbox, htime] at hnotice
    rw [hu]
    refine Eq.trans hnotice ?_
    rw [show (recordAnswered s l r code).branch = b from hb]
    rfl

end Sys2Proof.Machine
end

section
/-! PROOFS. A READ's answer at its slot (R94 to R98). -/

namespace Sys2Proof.Machine

/-! ### An answer on which the stray rule does not act -/

/-- A matching answer goes to the issuer from a state `v` in which one record alone has moved (R18, R165). -/
theorem exec_matched_quiet {s : State} {b : Fin 8} {f : InFlight} {bytes : List Byte} {a : NodeFrame} {r : NodeRecord}
    {code : Option StartCode} {n : Nat} {l : Luminaire} (h : AnswerMatches s b f bytes a r code n l)
    (hquiet : r.testing = false ∨ l.state.holdsSlot = true) :
    ∃ u v, u = issuerAnswered f.exchange f.sends a v ∧ exec (.nodeAnswerFrame b bytes) s = .next (settle u) ∧
      ExchangeEnded s u ∧ RecordMoves n (some (recordAnswered s l r code)) s v ∧ v.trigger = decide (l.state = .due) ∧
      OnlyRecords (lineFreed s b f.sends) v := by
  obtain ⟨u, hu, hexec, hended⟩ := exec_matched h
  obtain ⟨-, hf, he, -, -, -, hl, hb, hnode⟩ := h
  have hlf : (lineFreed s b f.sends).luminaires.get n = some l := hl
  have htaken := tableAnswered_taken r code he hlf hb hnode
  rw [if_neg] at htaken
  · rw [htaken] at hu
    obtain ⟨hmoves, htrigger, honly⟩ := answerTaken_moves r code hlf
    exact ⟨u, _, hu, hexec, hended, hmoves, htrigger.trans (Bool.false_or _), honly⟩
  · rintro ⟨htesting, hfree⟩
    rcases hquiet with h | h
    · rw [h] at htesting
      cases htesting
    · rw [h] at hfree
      cases hfree

/-! ### The branches of a READ's answer -/

/-- The slot's contents after a READ answer with record `r` (R94). -/
def Slot.seen (sl : Slot) (r : NodeRecord) : Slot :=
  { sl with
    missedPolls := 0, lowest := some ((sl.lowest.map fun v => min v r.millivolts).getD r.millivolts)
    nodeElapsed := if r.testing then some r.elapsed else sl.nodeElapsed }

theorem seen_eq (sl : Slot) (r : NodeRecord) :
    (if r.testing then { sl.see r.millivolts with missedPolls := 0, nodeElapsed := some r.elapsed }
      else { sl.see r.millivolts with missedPolls := 0 }) = sl.seen r := by
  unfold Slot.seen
  cases r.testing <;> rfl

/-- The slot's contents after a READ answer that shows the test over (R94, R104). -/
def Slot.over (sl : Slot) (r : NodeRecord) : Slot :=
  { (sl.seen r).fix .failShort ((sl.seen r).nodeElapsed.getD 0 / 60) with endVoltage := some r.millivolts }

theorem readAnswered_eq (k : Nat) (sl : Slot) (r : NodeRecord) (s : State) : readAnswered k sl r s =
    if r.testing = false then
      releaseResult k { s with slots := s.slots.put k (sl.over r) }
    else if r.lamp = false then
      close k { (sl.seen r).fix (if sl.endMinimum (bandOf s sl.luminaire) ≤ r.millivolts then .failLamp else .failShort)
        (elapsedNow s (sl.seen r)) with endVoltage := some r.millivolts } s
    else if bandOf s sl.luminaire = .hot then recallSlot .thermal k { s with slots := s.slots.put k (sl.seen r) }
    else { s with slots := s.slots.put k (sl.seen r) } := by
  unfold Slot.over
  rw [← seen_eq]
  rfl

theorem fix_none {sl : Slot} (h : sl.outcome = none) (o : TestOutcome) (m : Nat) :
    sl.fix o m = { sl with outcome := some o, elapsedMinutes := some m } := if_neg (by rw [h]; exact Bool.false_ne_true)

/-- The slot as it went CLOSING with outcome `o` at this moment (R95, R96, R104). -/
def Slot.closingWith (sl : Slot) (o : TestOutcome) (s : State) : Slot :=
  { sl with
    status := .closing, supervision := none, endTimer := none, stopAttempts := 1, outcome := some o
    elapsedMinutes := some (elapsedNow s sl) }

theorem over_left {sl : Slot} {r : NodeRecord} (hnone : sl.outcome = none) (htesting : r.testing = false) (t : State) :
    (sl.over r).outcomeLeft = .failShort ∧ minutesOf t (sl.over r) = sl.nodeElapsed.getD 0 / 60 ∧
      (sl.over r).luminaire = sl.luminaire ∧ (sl.over r).origin = sl.origin ∧
      (sl.over r).campusStart = sl.campusStart ∧ (sl.over r).bandAtStart = sl.bandAtStart := by
  have helapsed : (sl.seen r).nodeElapsed = sl.nodeElapsed := if_neg (by rw [htesting]; exact Bool.false_ne_true)
  unfold Slot.over
  rw [fix_none (sl := sl.seen r) hnone, helapsed]
  exact ⟨rfl, rfl, rfl, rfl, rfl, rfl⟩

theorem seen_voltage (sl : Slot) (r : NodeRecord) (s : State) (o : TestOutcome) (h : sl.outcome = none) :
    ({ (sl.seen r).fix o (elapsedNow s (sl.seen r)) with endVoltage := some r.millivolts } : Slot).closed =
      { (sl.seen r).closingWith o s with endVoltage := some r.millivolts } := by
  rw [fix_none (sl := sl.seen r) h]
  rfl

section
variable {k n : Nat} {b : Fin 8} {sl : Slot} {r : NodeRecord} {lv : Luminaire} {v : State}

/-- The READ answer that shows the test over (R94). -/
theorem readAnswered_over (hr : v.slots.Rising) (hn : sl.luminaire = n) (hnone : sl.outcome = none)
    (hl : v.luminaires.get n = some lv) (htesting : r.testing = false) :
    ∃ l', (readAnswered k sl r v).trigger = true ∧ (readAnswered k sl r v).slots.get k = none ∧
      (∀ j, j ≠ k → (readAnswered k sl r v).slots.get j = v.slots.get j) ∧
      (readAnswered k sl r v).luminaires.get n = some l' ∧ l'.state = stateWith lv ∧ l'.lastReport = lv.lastReport ∧
      OnlyLuminaire n v (readAnswered k sl r v) ∧ (readAnswered k sl r v).results = v.results ++
        [resultOf v n lv sl .failShort (sl.nodeElapsed.getD 0 / 60) (some r.millivolts)] := by
  subst hn
  rw [readAnswered_eq, if_pos htesting]
  obtain ⟨hleft, hminutes, hlum, horigin, hstart, hat⟩ := over_left (r := r) hnone htesting { v with slots := v.slots.put k (sl.over r) }
  obtain ⟨htrigger, hfreed, hqueued, -, -, ⟨l', hl', hwith⟩, hothers, -⟩ :=
    releaseResult_released (k := k) (s := { v with slots := v.slots.put k (sl.over r) }) (l := lv) (Table.get_put_self _ _ _)
      (by rw [hlum]; exact hl)
  rw [hleft, hminutes, hlum] at hqueued
  rw [hlum] at hl' hothers
  obtain ⟨hgone, hkept⟩ := get_rewritten_freed hr k (sl.over r)
  generalize releaseResult k _ = u at *
  refine ⟨l', htrigger, by rw [hfreed]; exact hgone, fun j hj => by rw [hfreed]; exact hkept j hj, hl', hwith.state,
    hwith.lastReport, hothers, hqueued.trans ?_⟩
  exact congrArg (fun x => v.results ++ [x]) (resultOf_congr rfl rfl rfl rfl horigin hstart hat)

/-- The READ answer with a dark lamp or a HOT band (R95, R96). -/
theorem readAnswered_stops (hn : sl.luminaire = n) (hb : sl.branch = b) (hrunning : sl.status = .running)
    (hnone : sl.outcome = none) (hl : v.luminaires.get n = some lv) (hst : lv.state = .testing)
    (hready : v.branches[b].state = .ready) (htesting : r.testing = true) (hstops : r.lamp = false ∨ lv.band = .hot) :
    (readAnswered k sl r v).slots.get k = some (if r.lamp then (sl.seen r).closingWith .abortedThermal v
      else { (sl.seen r).closingWith (if sl.endMinimum lv.band ≤ r.millivolts then .failLamp else .failShort) v with
        endVoltage := some r.millivolts }) ∧
      (∀ j, j ≠ k → (readAnswered k sl r v).slots.get j = v.slots.get j) ∧
      RecordMoves n (some { lv with state := .stopping, blockedBy := none }) v (readAnswered k sl r v) ∧
      stopExchange lv.node n (.slot k n) true ∈ (readAnswered k sl r v).branches[b].queue ∧
      (readAnswered k sl r v).results = v.results := by
  subst hn hb
  have hband : bandOf v sl.luminaire = lv.band := bandOf_some hl
  have queued (q : List Exchange) (bs : Vector Branch 8) (br : Branch) :
      stopExchange lv.node sl.luminaire (.slot k sl.luminaire) true ∈
        (bs.set sl.branch { br with
          queue := q ++ [stopExchange lv.node sl.luminaire (.slot k sl.luminaire) true] })[sl.branch].queue := by
    rw [show (bs.set sl.branch { br with
      queue := q ++ [stopExchange lv.node sl.luminaire (.slot k sl.luminaire) true] })[sl.branch] = _ from
        Vector.getElem_set_self _]
    exact List.mem_append_right _ (List.mem_singleton.mpr rfl)
  rw [readAnswered_eq, hband, if_neg (ne_false_of_eq_true htesting)]
  cases hlamp : r.lamp with
  | false =>
    rw [if_pos rfl]
    have hclosed := close_closed (k := k) (s := v) (l := lv) (sl := { (sl.seen r).fix
        (if sl.endMinimum lv.band ≤ r.millivolts then .failLamp else .failShort) (elapsedNow v (sl.seen r)) with
      endVoltage := some r.millivolts }) (fix_luminaire _ _ _) (fix_branch _ _ _) hl hst hready
    rw [seen_voltage sl r v _ hnone] at hclosed
    have honly := hclosed.only
    unfold OnlyTest at honly
    generalize close k _ v = u at *
    refine ⟨?_, fun j hj => ?_, hclosed.moves, ?_, by rw [honly]; rfl⟩
    · rw [hclosed.slots]
      exact Table.get_put_self _ _ _
    · rw [hclosed.slots]
      exact Table.get_put_other _ _ hj
    · rw [hclosed.branches]
      exact queued _ _ _
  | true =>
    have hhot : lv.band = .hot := hstops.resolve_left (by rw [hlamp]; exact Bool.noConfusion)
    rw [if_neg Bool.noConfusion, if_pos hhot]
    have hclosed := recallSlot_closed .thermal (k := k) (sl := sl.seen r) (l := lv)
      (s := { v with slots := v.slots.put k (sl.seen r) }) (Table.get_put_self _ _ _) hrunning
      hl hst hready
    rw [show (sl.seen r).outcome = none from hnone] at hclosed
    have honly := hclosed.only
    unfold OnlyTest at honly
    generalize recallSlot .thermal k _ = u at *
    refine ⟨?_, fun j hj => ?_, hclosed.moves.of_base rfl rfl, ?_, by rw [honly]; rfl⟩
    · rw [hclosed.slots, if_pos rfl]
      exact Table.get_put_self _ _ _
    · rw [hclosed.slots]
      exact (Table.get_put_other _ _ hj).trans (Table.get_put_other _ _ hj)
    · rw [hclosed.branches]
      exact queued _ _ _

/-- The READ answer with which the test goes on (R94). -/
theorem readAnswered_goesOn (hn : sl.luminaire = n) (hl : v.luminaires.get n = some lv) (htesting : r.testing = true)
    (hlamp : r.lamp = true) (hcool : lv.band ≠ .hot) :
    readAnswered k sl r v = { v with slots := v.slots.put k (sl.seen r) } := by
  rw [readAnswered_eq, bandOf_some (hn ▸ hl), if_neg (ne_false_of_eq_true htesting), if_neg (ne_false_of_eq_true hlamp),
    if_neg hcool]

end

end Sys2Proof.Machine
end

section
/-! PROOFS. A matching answer is taken, whatever issuer it reaches (R18, R75, R94 to R98, R165, R175). -/

namespace Sys2Proof.Machine

/-! ### What the issuers make of an answer -/

theorem slotAnswered_read {k n : Nat} {sl : Slot} {r : NodeRecord} {code : Option StartCode} {s : State}
    (hk : s.slots.get k = some sl) (hn : sl.luminaire = n) (hstatus : sl.status = .running) :
    slotAnswered k n .read r code s = readAnswered k sl r s := by
  unfold slotAnswered
  rw [hk]
  dsimp only
  rw [if_neg (not_not_intro hn), hstatus]

theorem slotAnswered_read_closing {k n : Nat} {sl : Slot} {r : NodeRecord} {code : Option StartCode} {s : State}
    (hk : s.slots.get k = some sl) (hn : sl.luminaire = n) (hstatus : sl.status = .closing) :
    slotAnswered k n .read r code s = { s with slots := s.slots.put k (recordClosing sl r) } := by
  unfold slotAnswered
  rw [hk]
  dsimp only
  rw [if_neg (not_not_intro hn), hstatus]

/-- A well-formed node frame carries at most 32 bytes (R203). -/
theorem nodeFrameOf_length {bytes : List Byte} {a : NodeFrame} (h : nodeFrameOf bytes = some a) : a.body.length ≤ 32 := by
  unfold nodeFrameOf at h
  split at h
  · dsimp only at h
    split at h
    · rename_i hform
      obtain rfl := Option.some.inj h
      exact (List.length_take_le _ _).trans hform.1
    · cases h
  · cases h

theorem listOf_bytes {body : List Byte} (h : body.length ≤ 32) :
    listOf (body.map fun x => [x]) = BitVec.ofNat 8 body.length :: body := by
  have hflat (xs : List Byte) : (xs.map fun x => [x]).flatten = xs := by
    induction xs with
    | nil => rfl
    | cons x xs ih => exact congrArg (x :: ·) ih
  have hlength : u8 body.length = [BitVec.ofNat 8 body.length] := congrArg (fun x => [x]) (if_pos (by omega))
  unfold listOf
  rw [hflat, List.length_map, hlength]
  rfl

/-- The reply to a NODE-EXCHANGE that ended answered (R175). -/
def exchangeReply (tag : Byte) (sends : Nat) (a : NodeFrame) : Reply :=
  doneReply tag ([1] ++ u8 sends ++ [a.kind, BitVec.ofNat 8 a.body.length] ++ a.body)

theorem issuerAnswered_host {e : Exchange} {sends : Nat} {a : NodeFrame} {s : State} {sv : Service}
    (hbody : a.body.length ≤ 32) (hi : e.issuer = .host)
    (hservice : s.service = some sv) (hsend : s.sending = none) :
    issuerAnswered e sends a s = { s with service := none, sending := some (exchangeReply sv.tag sends a) } := by
  have hbytes : flag true ++ u8 sends ++ [a.kind] ++ listOf (a.body.map fun x => [x]) =
      [1] ++ u8 sends ++ [a.kind, BitVec.ofNat 8 a.body.length] ++ a.body := by
    rw [listOf_bytes hbody]
    simp [flag]
  unfold issuerAnswered endService
  rw [hi]
  dsimp only
  rw [hservice, hbytes]
  exact reply_free _ _ hsend

theorem suits_direct {a : NodeFrame} {e : Exchange} (hkind : e.kind = .direct) (hnode : a.node = e.node) :
    a.suits e = true := by
  unfold NodeFrame.suits
  rw [hkind, hnode]
  simp

/-! ### The host's exchange -/

/-- The part in which a NODE-EXCHANGE has ended answered, its reply on the way (R175). -/
def exchangeAnswered (s : State) (b : Fin 8) (f : InFlight) (sv : Service) (a : NodeFrame) : State :=
  { opened s with
    branches := s.branches.set b (branchAnswered s b f.sends), service := none
    sending := some (exchangeReply sv.tag f.sends a) }

/-- The answer to a NODE-EXCHANGE, as the table left it in `v` (R165, R175). -/
theorem exec_exchangeAnswer {s v : State} {b : Fin 8} {f : InFlight} {bytes : List Byte} {a : NodeFrame} {sv : Service}
    (hop : s.phase = .operating) (hf : s.branches[b].inFlight = some f) (hkind : f.exchange.kind = .direct)
    (hissuer : f.exchange.issuer = .host) (hservice : s.service = some sv) (hsend : s.sending = none)
    (ha : nodeFrameOf bytes = some a) (hnode : a.node = f.exchange.node)
    (hv : tableAnswered b f.exchange a.record (lineFreed s b f.sends) = v) (hlines : OnlyLines (lineFreed s b f.sends) v) :
    ∃ u, u = { v with service := none, sending := some (exchangeReply sv.tag f.sends a) } ∧
      exec (.nodeAnswerFrame b bytes) s = .next (settle u) ∧ ExchangeEnded s u := by
  have hended := exchangeEnded_answer (s := s) (b := b) (f := f) (a := a)
  have hexec := exec_answer hop hf ha (suits_direct hkind hnode)
  unfold OnlyLines at hlines
  have hreply := issuerAnswered_host (sends := f.sends) (nodeFrameOf_length ha) hissuer (s := v) (sv := sv) (by rw [hlines]; exact hservice)
    (by rw [hlines]; exact hsend)
  rw [hv, hreply] at hended hexec
  exact ⟨_, rfl, hexec, hended⟩

section
variable {s : State} {b : Fin 8} {f : InFlight} {bytes : List Byte} {a : NodeFrame} {sv : Service}

theorem exchangeAnswer_unknown (hop : s.phase = .operating) (hf : s.branches[b].inFlight = some f)
    (hkind : f.exchange.kind = .direct) (hissuer : f.exchange.issuer = .host) (hservice : s.service = some sv)
    (hsend : s.sending = none) (ha : nodeFrameOf bytes = some a) (hnode : a.node = f.exchange.node)
    (h : NoRecordTakes b f.exchange s) :
    exec (.nodeAnswerFrame b bytes) s = .next (exchangeAnswered s b f sv a) := by
  have hv : tableAnswered b f.exchange a.record (lineFreed s b f.sends) = lineFreed s b f.sends :=
    tableAnswered_none a.record (s := lineFreed s b f.sends) h
  obtain ⟨u, rfl, hexec, -⟩ := exec_exchangeAnswer hop hf hkind hissuer hservice hsend ha hnode hv rfl
  rw [hexec, settle_of_no_trigger _ rfl]
  rfl

variable {n : Nat} {l : Luminaire}

theorem exchangeAnswer_recordless (hop : s.phase = .operating) (hf : s.branches[b].inFlight = some f)
    (hkind : f.exchange.kind = .direct) (hissuer : f.exchange.issuer = .host) (hservice : s.service = some sv)
    (hsend : s.sending = none) (ha : nodeFrameOf bytes = some a) (hnode : a.node = f.exchange.node)
    (he : f.exchange.luminaire = some n) (hl : s.luminaires.get n = some l) (hb : l.branch = b)
    (haddress : l.node = f.exchange.node) (hrecord : a.record = none) :
    ∃ u, exec (.nodeAnswerFrame b bytes) s = .next (settle u) ∧
      RecordMoves n (some { l with lastExchange := some .answered }) s u ∧
      u = withRecords (exchangeAnswered s b f sv a) u := by
  have hlf : (lineFreed s b f.sends).luminaires.get n = some l := hl
  have hv : tableAnswered b f.exchange a.record (lineFreed s b f.sends) =
      putLum n (some { l with lastExchange := some .answered }) (lineFreed s b f.sends) := by
    unfold tableAnswered
    rw [tableTakes_some he hlf hb haddress, hrecord]
    exact modLum_some hlf _
  have hmoves := recordMoves_putLum n { l with lastExchange := some .answered } (lineFreed s b f.sends)
  have htables := putLum_tables n (some { l with lastExchange := some .answered }) (lineFreed s b f.sends)
  have htrigger : (putLum n (some { l with lastExchange := some .answered }) (lineFreed s b f.sends)).trigger = false :=
    putLum_trigger hlf rfl rfl rfl
  obtain ⟨u, hu, hexec, -⟩ := exec_exchangeAnswer hop hf hkind hissuer hservice hsend ha hnode hv (putLum_only _ _ _).lines
  generalize putLum n (some { l with lastExchange := some .answered }) (lineFreed s b f.sends) = v at *
  refine ⟨u, hexec, ?_, ?_⟩
  · rw [hu]
    exact hmoves.of_base rfl rfl
  · unfold OnlyTables at htables
    rw [hu, htables, htrigger]
    rfl

theorem exchangeAnswer_quiet {r : NodeRecord} {code : Option StartCode} (hop : s.phase = .operating)
    (hf : s.branches[b].inFlight = some f) (hkind : f.exchange.kind = .direct) (hissuer : f.exchange.issuer = .host)
    (hservice : s.service = some sv) (hsend : s.sending = none) (ha : nodeFrameOf bytes = some a)
    (hnode : a.node = f.exchange.node) (he : f.exchange.luminaire = some n) (hl : s.luminaires.get n = some l)
    (hb : l.branch = b) (haddress : l.node = f.exchange.node) (hrecord : a.record = some (r, code))
    (hquiet : r.testing = false ∨ l.state.holdsSlot = true) :
    ∃ u, exec (.nodeAnswerFrame b bytes) s = .next (settle u) ∧ u.trigger = decide (l.state = .due) ∧
      RecordMoves n (some (recordAnswered s l r code)) s u ∧ Touches (withRecords (exchangeAnswered s b f sv a) u) u := by
  have hlf : (lineFreed s b f.sends).luminaires.get n = some l := hl
  obtain ⟨hmoves, htrigger, honly⟩ := tableAnswered_moves r code he hlf hb haddress hquiet
  rw [← hrecord] at hmoves htrigger honly
  obtain ⟨u, hu, hexec, -⟩ := exec_exchangeAnswer hop hf hkind hissuer hservice hsend ha hnode rfl honly.lines
  generalize tableAnswered b f.exchange a.record (lineFreed s b f.sends) = v at *
  refine ⟨u, hexec, ?_, ?_, ?_⟩
  · rw [hu]
    exact htrigger.trans (Bool.false_or _)
  · rw [hu]
    exact hmoves.of_base rfl rfl
  · unfold OnlyRecords at honly
    rw [hu, honly]
    rfl

theorem exchangeAnswer_stray {r : NodeRecord} {code : Option StartCode} (hop : s.phase = .operating)
    (hf : s.branches[b].inFlight = some f) (hkind : f.exchange.kind = .direct) (hissuer : f.exchange.issuer = .host)
    (hservice : s.service = some sv) (hsend : s.sending = none) (ha : nodeFrameOf bytes = some a)
    (hnode : a.node = f.exchange.node) (he : f.exchange.luminaire = some n) (hl : s.luminaires.get n = some l)
    (hb : l.branch = b) (haddress : l.node = f.exchange.node) (hrecord : a.record = some (r, code))
    (htesting : r.testing = true) (hfree : l.state.holdsSlot = false) :
    ∃ u l', exec (.nodeAnswerFrame b bytes) s = .next (settle u) ∧ u.luminaires.get n = some l' ∧
      l'.state = .recharging ∧ l'.lastReport = some ⟨r, s.campus, code⟩ ∧ u.service = none ∧
      u.sending = some (exchangeReply sv.tag f.sends a) ∧ OnlyLuminaire n s u ∧ ExchangeEnded s u := by
  have hlf : (lineFreed s b f.sends).luminaires.get n = some l := hl
  have htook := tableAnswered_took r code he hlf hb haddress
  have htaken := tableAnswered_taken r code he hlf hb haddress
  rw [if_pos ⟨htesting, hfree⟩] at htaken
  obtain ⟨told, armed, hrecorded⟩ := (stray_strayed r (answerTaken_moves r code hlf).1.1).record
  rw [← htaken, ← hrecord] at hrecorded
  rw [← hrecord] at htook
  obtain ⟨u, hu, hexec, hended⟩ := exec_exchangeAnswer hop hf hkind hissuer hservice hsend ha hnode rfl htook.lines
  obtain ⟨l', hl', hreported⟩ := htook.record
  generalize tableAnswered b f.exchange a.record (lineFreed s b f.sends) = v at *
  have hstate : l'.state = .recharging := by
    obtain rfl : _ = l' := Option.some.inj (hrecorded.symm.trans hl')
    exact enter_state _ .recharging
  subst hu
  exact ⟨_, l', hexec, hl', hstate, hreported.lastReport, rfl, rfl, htook.others, hended⟩

end

end Sys2Proof.Machine
end

section
/-! PROOFS. The matching answer to a CHECK and to a READ, and the obligation on matching answers (R18, R75, R94 to R98). -/

namespace Sys2Proof.Machine

theorem not_due_of_holdsSlot {st : LumState} (h : st.holdsSlot = true) : decide (st = .due) = false :=
  decide_eq_false fun hdue => by rw [hdue] at h; cases h

/-! ### A READ at a CLOSING slot -/

theorem readAnswer_closing {s : State} {b : Fin 8} {f : InFlight} {bytes : List Byte} {a : NodeFrame} {r : NodeRecord}
    {code : Option StartCode} {n : Nat} {l : Luminaire} {k : Nat} {sl : Slot}
    (hanswer : AnswerMatches s b f bytes a r code n l) (hkind : f.exchange.kind = .read)
    (hissuer : f.exchange.issuer = .slot k n) (hk : s.slots.get k = some sl) (hn : sl.luminaire = n)
    (hstatus : sl.status = .closing) (hholds : l.state.holdsSlot = true) :
    ∃ u, exec (.nodeAnswerFrame b bytes) s = .next (settle u) ∧ u.trigger = false ∧
      u.slots = s.slots.put k (recordClosing sl r) ∧ u.branches = s.branches.set b (branchAnswered s b f.sends) ∧
      RecordMoves n (some (recordAnswered s l r code)) s u ∧
      Touches (withRecords { s with slots := u.slots, branches := u.branches } u) u := by
  obtain ⟨u, v, hu, hexec, -, hmoves, htrigger, honly⟩ := exec_matched_quiet hanswer (.inr hholds)
  obtain ⟨-, -, -, -, -, hrecord, -⟩ := hanswer
  have hslots : v.slots = s.slots := (records_slots honly :)
  rw [issuerAnswered_slot hissuer hrecord, hkind, slotAnswered_read_closing (by rw [hslots]; exact hk) hn hstatus, hslots] at hu
  rw [not_due_of_holdsSlot hholds] at htrigger
  have hbranches : v.branches = s.branches.set b (branchAnswered s b f.sends) := honly.branches
  subst hu
  refine ⟨_, hexec, htrigger, rfl, hbranches, hmoves, ?_⟩
  unfold OnlyRecords at honly
  rw [honly]
  rfl

/-! ### A READ at a RUNNING slot -/

section
variable {s : State} {b : Fin 8} {f : InFlight} {bytes : List Byte} {a : NodeFrame} {r : NodeRecord} {code : Option StartCode}
  {n : Nat} {l : Luminaire} {k : Nat} {sl : Slot}

/-- The state `v` from which a READ's answer reaches a RUNNING slot. -/
theorem exec_readAnswer (hanswer : AnswerMatches s b f bytes a r code n l) (hkind : f.exchange.kind = .read)
    (hissuer : f.exchange.issuer = .slot k n) (hk : s.slots.get k = some sl) (hn : sl.luminaire = n)
    (hrunning : sl.status = .running) (hst : l.state = .testing) :
    ∃ u v, u = readAnswered k sl r v ∧ exec (.nodeAnswerFrame b bytes) s = .next (settle u) ∧ ExchangeEnded s u ∧
      RecordMoves n (some (recordAnswered s l r code)) s v ∧ OnlyRecords (lineFreed s b f.sends) v := by
  obtain ⟨u, v, hu, hexec, hended, hmoves, -, honly⟩ := exec_matched_quiet hanswer (.inr (by rw [hst]; rfl))
  obtain ⟨-, -, -, -, -, hrecord, -⟩ := hanswer
  have hslots : v.slots = s.slots := (records_slots honly :)
  rw [issuerAnswered_slot hissuer hrecord, hkind, slotAnswered_read (by rw [hslots]; exact hk) hn hrunning] at hu
  exact ⟨u, v, hu, hexec, hended, hmoves, honly⟩

theorem elapsedNow_records {t v : State} (h : OnlyRecords t v) (x : Slot) : elapsedNow v x = elapsedNow t x := by
  unfold OnlyRecords at h
  rw [h]
  rfl

/-- What an answer to the READ of a RUNNING slot comes to, by its record (R94 to R96). -/
theorem readAnswer_running (hanswer : AnswerMatches s b f bytes a r code n l) (hkind : f.exchange.kind = .read)
    (hissuer : f.exchange.issuer = .slot k n) (hr : s.slots.Rising) (hk : s.slots.get k = some sl) (hn : sl.luminaire = n)
    (hb : sl.branch = b) (hrunning : sl.status = .running) (hnone : sl.outcome = none) (hst : l.state = .testing)
    (hready : s.branches[b].state = .ready) :
    ∃ u l', exec (.nodeAnswerFrame b bytes) s = .next (settle u) ∧ u.luminaires.get n = some l' ∧
      l'.lastReport = some ⟨r, s.campus, code⟩ ∧ (∀ j, j ≠ k → u.slots.get j = s.slots.get j) ∧
      OnlyLuminaire n s u ∧ ExchangeEnded s u ∧
      (r.testing = false → u.slots.get k = none ∧ u.trigger = true ∧ l'.state = stateWith l ∧
        u.results = s.results ++
          [resultOf s n l sl .failShort (sl.nodeElapsed.getD 0 / 60) (some r.millivolts)]) ∧
      (r.testing = true → r.lamp = false ∨ bandAfter s.params l.band r.temperature = .hot →
        l'.state = .stopping ∧ u.results = s.results ∧
        stopExchange l.node n (.slot k n) true ∈ u.branches[b].queue ∧
        u.slots.get k = some (if r.lamp then (sl.seen r).closingWith .abortedThermal s
          else { (sl.seen r).closingWith (if sl.endMinimum (bandAfter s.params l.band r.temperature) ≤ r.millivolts then
              .failLamp else .failShort) s with endVoltage := some r.millivolts })) ∧
      (r.testing = true → r.lamp = true → bandAfter s.params l.band r.temperature ≠ .hot →
        l'.state = .testing ∧ u.results = s.results ∧ u.slots.get k = some (sl.seen r) ∧
        u.branches = s.branches.set b (branchAnswered s b f.sends)) := by
  obtain ⟨u, v, hu, hexec, hended, hmoves, honly⟩ := exec_readAnswer hanswer hkind hissuer hk hn hrunning hst
  have hslots : v.slots = s.slots := (records_slots honly :)
  have hresults : v.results = s.results := (honly.results :)
  have hbranches : v.branches = (lineFreed s b f.sends).branches := honly.branches
  have hcounter : v.resultCounter = s.resultCounter := by
    unfold OnlyRecords at honly
    rw [honly]
    rfl
  have hclosing (o : TestOutcome) : (sl.seen r).closingWith o v = (sl.seen r).closingWith o s := by
    unfold Slot.closingWith
    rw [elapsedNow_records honly]
    rfl
  have hreadyv : v.branches[b].state = .ready := by
    rw [show v.branches[b] = (lineFreed s b f.sends).branches[b] by rw [hbranches], lineFreed_queue]
    exact hready
  by_cases htesting : r.testing = false
  · obtain ⟨l', htrigger, hgone, hkept, hl', hstate, hreport, hothers, hqueued⟩ :=
      readAnswered_over (k := k) (hslots ▸ hr) hn hnone hmoves.1 htesting
    rw [← hu] at htrigger hgone hkept hl' hothers hqueued
    rw [hslots] at hkept
    rw [hresults] at hqueued
    refine ⟨u, l', hexec, hl', hreport, hkept, fun m hm => (hothers m hm).trans (hmoves.2.1 m hm), hended,
      fun _ => ⟨hgone, htrigger, hstate, hqueued.trans ?_⟩, fun h => absurd (htesting.symm.trans h) Bool.false_ne_true,
      fun h => absurd (htesting.symm.trans h) Bool.false_ne_true⟩
    exact congrArg (fun x => s.results ++ [x]) (resultOf_congr hcounter honly.sameClock.1 rfl rfl rfl rfl rfl)
  · have htrue : r.testing = true := Bool.eq_true_of_not_eq_false htesting
    by_cases hstops : r.lamp = false ∨ bandAfter s.params l.band r.temperature = .hot
    · obtain ⟨hat, hkept, hrecorded, hqueued, hsame⟩ :=
        readAnswered_stops (k := k) hn hb hrunning hnone hmoves.1 hst hreadyv htrue hstops
      rw [← hu] at hat hkept hrecorded hqueued hsame
      rw [hslots] at hkept
      rw [hclosing, hclosing] at hat
      refine ⟨u, _, hexec, hrecorded.1, rfl, hkept, fun m hm => (hrecorded.2.1 m hm).trans (hmoves.2.1 m hm), hended,
        fun h => absurd h htesting, fun _ _ => ⟨rfl, hsame.trans hresults, hqueued, hat⟩, fun _ hlamp hcool => ?_⟩
      rcases hstops with h | h
      · rw [h] at hlamp
        cases hlamp
      · exact absurd h hcool
    · obtain ⟨hlamp, hcool⟩ := not_or.mp hstops
      have hgoes := readAnswered_goesOn (k := k) (v := v) hn hmoves.1 htrue (Bool.eq_true_of_not_eq_false hlamp) hcool
      rw [← hu] at hgoes
      subst hgoes
      refine ⟨_, _, hexec, hmoves.1, rfl, fun j hj => ?_, hmoves.2.1, hended, fun h => absurd h htesting,
        fun _ h => absurd h hstops, fun _ _ _ => ⟨hst, hresults, Table.get_put_self _ _ _, hbranches⟩⟩
      rw [hslots]
      exact Table.get_put_other _ _ hj

end

/-! ### A CHECK -/

theorem record_of_state {a : NodeFrame} {r : NodeRecord} (hkind : a.kind = 0x81) (h : nodeRecordOf a.body = some r) :
    a.record = some (r, none) := by
  unfold NodeFrame.record
  rw [hkind]
  change (nodeRecordOf a.body).map (fun r => (r, none)) = _
  rw [h]
  rfl

/-- A CHECK's answer that shows no test running (R75). -/
theorem checkAnswer_quiet {s : State} {b : Fin 8} {f : InFlight} {bytes : List Byte} {a : NodeFrame} {r : NodeRecord}
    {code : Option StartCode} {n : Nat} {l : Luminaire} (hanswer : AnswerMatches s b f bytes a r code n l)
    (hissuer : f.exchange.issuer = .placement) (htesting : r.testing = false) :
    ∃ u, exec (.nodeAnswerFrame b bytes) s = .next (settle u) ∧
      u.branches = s.branches.set b (branchAnswered s b f.sends) ∧ u.checkPending = s.checkPending.erase n ∧
      u.trigger = true ∧ RecordMoves n (some (recordAnswered s l r code)) s u ∧
      Touches (withRecords { s with branches := u.branches, checkPending := u.checkPending } u) u := by
  obtain ⟨u, v, hu, hexec, -, hmoves, -, honly⟩ := exec_matched_quiet hanswer (.inl htesting)
  obtain ⟨-, -, he, -⟩ := hanswer
  rw [issuerAnswered_check hissuer he] at hu
  have hbranches : v.branches = s.branches.set b (branchAnswered s b f.sends) := honly.branches
  have hchecks : v.checkPending = s.checkPending := by
    unfold OnlyRecords at honly
    rw [honly]
    rfl
  subst hu
  refine ⟨_, hexec, hbranches, congrArg (fun xs => List.erase xs n) hchecks, Bool.or_true _, hmoves.congr rfl rfl, ?_⟩
  unfold OnlyRecords at honly
  rw [honly]
  rfl

/-- Settles O45: the band after a reading, the stray rule, and what an answer makes of the slot, the NODE-EXCHANGE or the CHECK that
it ends. -/
theorem aMatchingAnswerIsTaken : Obligations.AMatchingAnswerIsTaken := by
  unfold Obligations.AMatchingAnswerIsTaken
  refine ⟨fun p t hcold hwarm _ => bandAfter_eq hcold hwarm t,
    fun s b f bytes a r code n l hanswer _ hissuer htesting hfree => checkAnswer_stray hanswer hissuer htesting hfree,
    fun s b f bytes a r code n l k sl hanswer hkind hissuer hr hk hn hb hrunning hnone hst hready =>
      readAnswer_running hanswer hkind hissuer hr hk hn hb hrunning hnone hst hready,
    fun s b f bytes a r code n l k sl hanswer hkind hissuer hk hn hstatus hholds =>
      readAnswer_closing hanswer hkind hissuer hk hn hstatus hholds,
    fun s b f bytes a sv hop hf hkind hissuer hservice hsend ha hnode => ?_,
    fun s b f bytes a r n l hop hf hkind hissuer he ha hnode hform hrecord htesting hl hb haddress => ?_⟩
  · refine ⟨exchangeAnswer_unknown hop hf hkind hissuer hservice hsend ha hnode, fun n l he hl hb haddress =>
      ⟨exchangeAnswer_recordless hop hf hkind hissuer hservice hsend ha hnode he hl hb haddress,
        fun r code => exchangeAnswer_quiet hop hf hkind hissuer hservice hsend ha hnode he hl hb haddress,
        fun r code => exchangeAnswer_stray hop hf hkind hissuer hservice hsend ha hnode he hl hb haddress⟩⟩
  · have hrecorded := record_of_state hform hrecord
    have hsuits : a.suits f.exchange = true := by
      unfold NodeFrame.suits
      rw [hkind, hnode, hform, hrecorded]
      simp
    obtain ⟨u, hexec, hbranches, hchecks, htrigger, hmoves, htouches⟩ :=
      checkAnswer_quiet ⟨hop, hf, he, ha, hsuits, hrecorded, hl, hb, haddress⟩ hissuer htesting
    refine ⟨u, hexec, hbranches, hchecks, htrigger, ?_, htouches⟩
    convert hmoves using 2
    unfold recordAnswered
    rw [htesting]
    simp

end Sys2Proof.Machine
end

section
/-! PROOFS. What a release without a result leaves of a record and of its branch (R64, R89, R90, R92, R170). -/

namespace Sys2Proof.Machine

/-! ### The record -/

/-- What every release without a result leaves of the record (R92). -/
structure LeftWithout (s : State) (l l' : Luminaire) : Prop where
  state : l'.state = stateWithout s l
  openMarker : l'.openMarker = false
  cancelPending : l'.cancelPending = none
  outAtRelease : l'.outAtRelease = false
  due : l'.due = l.due
  latches : l'.latches = l.latches
  lastReport : l'.lastReport = l.lastReport
  lastExchange : l'.lastExchange = l.lastExchange
  holdOff : l'.holdOff = l.holdOff
  branch : l'.branch = l.branch
  node : l'.node = l.node

theorem stateWithout_eq (s : State) (l : Luminaire) :
    stateWithout s l = if l.outAtRelease then .outOfService else waitState s l.due := rfl

theorem releasedWithout_left (s : State) (l : Luminaire) : LeftWithout s l (overdueDone s (l.releasedWithout s)) := by
  obtain ⟨told, armed, hform⟩ := overdueDone_form s (l.releasedWithout s)
  obtain ⟨why, hentered⟩ := enter_form l (if l.outAtRelease then .outOfService else waitState s l.due)
  rw [hform]
  unfold Luminaire.releasedWithout
  rw [hentered]
  exact ⟨rfl, rfl, rfl, rfl, rfl, rfl, rfl, rfl, rfl, rfl, rfl⟩

/-- A record that was given a hold-off before it was released without a result (R64, R89). -/
theorem heldRecord_left (s : State) (l : Luminaire) :
    LeftWithout s (heldRecord s l) (overdueDone s ((heldRecord s l).releasedWithout s)) :=
  releasedWithout_left s (heldRecord s l)

theorem campusSum_of_le {t d : Nat} (h : t + d ≤ maxCampus) : campusSum t d = t + d := if_pos h

/-- The hold-off given at a release: the later one is kept (R64). -/
theorem heldOff_withHoldOff (s : State) (l l' : Luminaire) (h : l'.holdOff = (l.withHoldOff s).holdOff) : HeldOff s l l' := by
  refine ⟨_, h, fun hfits => ?_⟩
  rw [campusSum_of_le hfits]
  unfold Luminaire.heldOff
  cases hheld : l.holdOff with
  | none => simp
  | some t =>
    by_cases hlater : s.campus < t
    · simp [hlater, Option.filter]
    · simp [hlater, Option.filter]

/-! ### The branch -/

/-- A release without a result leaves the lines as the freed slot did: its READs are gone (R92). -/
theorem releaseWithout_branches {k : Nat} {sl : Slot} {s : State} (h : s.slots.get k = some sl) :
    (releaseWithout k s).branches = (freeSlot k sl s).branches := by
  rw [releaseWithout_eq k sl s h, triggerPass_branches,
    show tellReleased sl.origin k false _ = _ from tellReleased_only sl.origin k false _]
  exact (checkedRelease_records k sl s).branches

theorem freeSlot_branch (k : Nat) (sl : Slot) (s : State) {b : Fin 8} (hb : sl.branch = b) :
    (freeSlot k sl s).branches[b] = { s.branches[b] with
      queue := s.branches[b].queue.filter fun e => !isReadOf k sl.luminaire e } := by
  subst hb
  exact Vector.getElem_set_self _

theorem freeSlot_branch_other (k : Nat) (sl : Slot) (s : State) {a : Fin 8} (ha : a ≠ sl.branch) :
    (freeSlot k sl s).branches[a] = s.branches[a] :=
  Vector.getElem_set_ne sl.branch.isLt a.isLt fun h => ha (Fin.ext h.symm)

theorem occupiedOn_freed {s t : State} (hr : s.slots.Rising) {k : Nat} {sl : Slot} (hk : s.slots.get k = some sl)
    (ht : t.slots = s.slots.drop k) : occupiedOn t sl.branch < occupiedOn s sl.branch := by
  have hmem : k ∈ chosen (fun x : Slot => x.branch == sl.branch) s.slots :=
    (mem_chosen hr).mpr (by rw [hk]; exact beq_self_eq_true _)
  rw [occupiedOn_eq, occupiedOn_eq, ht, chosen_drop _ hr, List.length_erase_of_mem hmem]
  exact Nat.sub_lt (List.length_pos_of_mem hmem) Nat.one_pos

/-- The slot that a release without a result frees gives its place back (R78, R92). -/
theorem unreservedFree_released {s t : State} (hr : s.slots.Rising) {k : Nat} {sl : Slot} {b : Fin 8}
    (hk : s.slots.get k = some sl) (hb : sl.branch = b) (hslots : t.slots = s.slots.drop k)
    (hbranches : t.branches = (freeSlot k sl s).branches)
    (hplaces : occupiedOn s b + (s.branches[b].queue.filter fun e => !e.reserved).length ≤ queuePlaces) :
    0 < unreservedFree t b := by
  subst hb
  have hless := occupiedOn_freed hr hk hslots
  have hqueue : (t.branches[sl.branch].queue.filter fun e => !e.reserved).length ≤
      (s.branches[sl.branch].queue.filter fun e => !e.reserved).length := by
    have hat : t.branches[sl.branch] = (freeSlot k sl s).branches[sl.branch] := by rw [hbranches]
    rw [hat, freeSlot_branch k sl s rfl]
    exact (List.Sublist.filter _ List.filter_sublist).length_le
  unfold unreservedFree
  omega

/-- A freed slot's READs are no stray STOPs. -/
theorem strayStopWaits_freed {s t : State} {k n : Nat} {sl : Slot} (hbranches : t.branches = (freeSlot k sl s).branches)
    (h : strayStopWaits s n = false) : strayStopWaits t n = false := by
  rw [Bool.eq_false_iff, ne_eq, strayStopWaits_iff]
  rintro ⟨a, ha⟩
  rw [show t.branches[a] = (freeSlot k sl s).branches[a] by rw [hbranches]] at ha
  refine Bool.eq_false_iff.mp h ((strayStopWaits_iff s n).mpr ⟨a, ?_⟩)
  by_cases hb : sl.branch = a
  · rw [freeSlot_branch k sl s hb] at ha
    unfold Branch.holdsStrayStop at ha ⊢
    rw [Bool.or_eq_true, List.any_eq_true] at ha ⊢
    exact ha.imp_left fun ⟨e, hmem, he⟩ => ⟨e, List.mem_of_mem_filter hmem, he⟩
  · rw [freeSlot_branch_other k sl s fun h => hb h.symm] at ha
    exact ha

end Sys2Proof.Machine
end

section
/-! PROOFS. A START's answer at its RESERVED slot (R88 to R92, R116). -/

namespace Sys2Proof.Machine

/-! ### Triggers that stay -/

theorem putLum_keeps_trigger (n : Nat) (new : Option Luminaire) {s : State} (h : s.trigger = true) :
    (putLum n new s).trigger = true := by
  rw [putLum_trigger_eq, h]
  rfl

theorem strayTold_trigger {n : Nat} {l : Luminaire} (r : NodeRecord) {s : State} (h : s.trigger = true) :
    (strayTold n l r s).trigger = true := by
  have hoffered := strayOffered_branches n l s
  unfold OnlyBranches at hoffered
  have hput := putLum_keeps_trigger n (some (l.toRecharging s)) (s := strayOffered n l s) (by rw [hoffered]; exact h)
  have hwritten := writeItem_only (.luminaire n) (putLum n (some (l.toRecharging s)) (strayOffered n l s))
  have hraised := raise_only (.strayTest n l.branch l.node l.state r.elapsed)
    (writeItem (.luminaire n) (putLum n (some (l.toRecharging s)) (strayOffered n l s)))
  unfold OnlyWrites at hwritten
  unfold OnlyNotices at hraised
  unfold strayTold
  rw [hraised, hwritten]
  exact hput

theorem stray_trigger {n : Nat} {l : Luminaire} (r : NodeRecord) {s : State} (hl : s.luminaires.get n = some l)
    (h : s.trigger = true) : (stray n r s).trigger = true := by
  rw [stray_eq r hl]
  split
  · exact strayTold_trigger r h
  · have hreports : (l.toRecharging s).state.reportsOverdue = true := by
      rw [show (l.toRecharging s).state = .recharging from enter_state l .recharging]
      rfl
    exact (checkOverdue_trigger ((get_strayTold n n l r s).trans (if_pos rfl)) hreports).trans (strayTold_trigger r h)

/-! ### A START refused -/

theorem slotAnswered_start {k n : Nat} {sl : Slot} {r : NodeRecord} {c : StartCode} {s : State}
    (hk : s.slots.get k = some sl) (hn : sl.luminaire = n) (hstatus : sl.status = .reserved) :
    slotAnswered k n .start r (some c) s = startAnswered k sl r c s := by
  unfold slotAnswered
  rw [hk]
  dsimp only
  rw [if_neg (not_not_intro hn), hstatus]

theorem startAnswered_refused {k : Nat} {sl : Slot} {r : NodeRecord} {c : StartCode} {s : State} (haccepted : c ≠ .accepted)
    (htesting : c ≠ .alreadyTesting) : startAnswered k sl r c s = releaseHeldOff k s := by
  cases c with
  | accepted => exact absurd rfl haccepted
  | alreadyTesting => exact absurd rfl htesting
  | _ => rfl

section
variable {k n : Nat} {sl : Slot} {l : Luminaire} {s : State}

/-- A release without a result and with a hold-off (R64, R89, R90). -/
theorem releaseHeldOff_left (hk : s.slots.get k = some sl) (hn : sl.luminaire = n) (hl : s.luminaires.get n = some l) :
    ∃ l', (releaseHeldOff k s).luminaires.get n = some l' ∧ LeftWithout s (heldRecord s l) l' ∧ HeldOff s l l' ∧
      OnlyLuminaire n s (releaseHeldOff k s) := by
  subst hn
  have hleft := heldRecord_left s l
  refine ⟨_, ?_, hleft, heldOff_withHoldOff s l _ hleft.holdOff, fun m hm => ?_⟩
  · rw [get_releaseHeldOff k _ sl s hk, if_pos rfl, hl, Option.map_some]
  · rw [get_releaseHeldOff k _ sl s hk, if_neg hm]

/-- A release without a result (R91, R92). -/
theorem releaseWithout_left (hk : s.slots.get k = some sl) (hn : sl.luminaire = n) (hl : s.luminaires.get n = some l) :
    ∃ l', (releaseWithout k s).luminaires.get n = some l' ∧ LeftWithout s l l' ∧ OnlyLuminaire n s (releaseWithout k s) := by
  subst hn
  refine ⟨_, ?_, releasedWithout_left s l, fun m hm => ?_⟩
  · rw [get_releaseWithout k _ sl s hk, if_pos rfl, hl, Option.map_some]
  · rw [get_releaseWithout k _ sl s hk, if_neg hm]

/-- The release and the stray rule after an answer ALREADY-TESTING (R91, R116, R117). -/
theorem alreadyTesting_strays (r : NodeRecord) (hr : s.slots.Rising) (hk : s.slots.get k = some sl) (hn : sl.luminaire = n)
    (hl : s.luminaires.get n = some l) {b : Fin 8} (hlb : l.branch = b) :
    ∃ l', (stray n r (releaseWithout k s)).luminaires.get n = some l' ∧ l'.state = .recharging ∧ l'.holdOff = l.holdOff ∧
      l'.recharge = some (rechargeFromNow s) ∧ l'.lastReport = l.lastReport ∧ l'.due = l.due ∧ l'.openMarker = false ∧
      l'.cancelPending = none ∧ l'.outAtRelease = false ∧ (stray n r (releaseWithout k s)).trigger = true ∧
      (stray n r (releaseWithout k s)).slots = s.slots.drop k ∧ (stray n r (releaseWithout k s)).results = s.results ∧
      OnlyLuminaire n s (stray n r (releaseWithout k s)) ∧
      (s.branches[b].state = .ready → sl.branch = b → strayStopWaits s n = false →
        occupiedOn s b + (s.branches[b].queue.filter fun e => !e.reserved).length ≤ queuePlaces →
        stopExchange l.node n .stray false ∈ (stray n r (releaseWithout k s)).branches[b].queue) := by
  obtain ⟨lr, hlr, hleft, hothers⟩ := releaseWithout_left hk hn hl
  have hslots := releaseWithout_slots k sl s hk
  have hresults := releaseWithout_results k s
  have htrigger := releaseWithout_trigger k sl s hk
  have hbranches := releaseWithout_branches hk
  have hclock : rechargeFromNow (releaseWithout k s) = rechargeFromNow s := by
    rw [show releaseWithout k s = _ from releaseWithout_only k s]
    rfl
  generalize releaseWithout k s = w at *
  have hstrayed := stray_strayed r hlr
  obtain ⟨told, armed, hrecord⟩ := hstrayed.record
  have hlines := hstrayed.lines
  have htriggered := stray_trigger r hlr htrigger
  have hqueue := strayOffered_queue (n := n) (s := w) (hleft.branch.trans hlb)
  rw [← show (stray n r w).branches[b] = (strayOffered n lr w).branches[b] by rw [hstrayed.branches],
    hleft.node] at hqueue
  generalize stray n r w = u at *
  obtain ⟨why, hentered⟩ := enter_form lr .recharging
  unfold Luminaire.toRecharging at hrecord
  rw [hentered, hclock] at hrecord
  unfold OnlyLines at hlines
  refine ⟨_, hrecord, rfl, hleft.holdOff, rfl, hleft.lastReport, hleft.due, hleft.openMarker, hleft.cancelPending,
    hleft.outAtRelease, htriggered, by rw [hlines]; exact hslots, by rw [hlines]; exact hresults,
    fun m hm => (hstrayed.others m hm).trans (hothers m hm), fun hready hb hwaits hplaces => ?_⟩
  have hfree : 0 < unreservedFree w b := unreservedFree_released hr hk hb hslots hbranches hplaces
  have hworks : w.branches[b].state.works = true := by
    rw [show w.branches[b] = (freeSlot k sl s).branches[b] by rw [hbranches], freeSlot_branch k sl s hb]
    exact (congrArg BranchState.works hready).trans rfl
  rw [hqueue, if_pos ⟨strayStopWaits_freed hbranches hwaits, hfree, hworks⟩]
  exact List.mem_append_right _ (List.mem_singleton.mpr rfl)

end

end Sys2Proof.Machine
end

section
/-! PROOFS. An accepted START begins the test; a refused one releases the slot (R88 to R92, R116). -/

namespace Sys2Proof.Machine

/-! ### A START accepted -/

/-- The slot's contents as its test begins (R88). -/
def Slot.begun (sl : Slot) (r : NodeRecord) (s : State) : Slot :=
  { sl with
    status := .running, campusStart := some s.campus, elapsedRef := some s.ownCount
    supervision := some s.params.supervisionInterval, endTimer := some (sl.rated * 60)
    nodeElapsed := some 0, lowest := some r.millivolts }

/-- The luminaire's record as its test begins (R88). -/
def Luminaire.begun (l : Luminaire) : Luminaire := { l.enter .testing with watchArmed := false, cancelPending := none }

/-- The part in which the test has begun, before a recall made at once (R88). -/
def testBegun (k : Nat) (sl : Slot) (l : Luminaire) (r : NodeRecord) (s : State) : State :=
  writeItem (.luminaire sl.luminaire)
    (putLum sl.luminaire (some l.begun) { s with slots := s.slots.put k (sl.begun r s) })

theorem startAccepted_recalled {k : Nat} {sl : Slot} {l : Luminaire} {reason : RecallReason} {s : State} (r : NodeRecord)
    (hl : s.luminaires.get sl.luminaire = some l) (hcancel : l.cancelPending = some reason) :
    startAccepted k sl r s = recallSlot reason k (testBegun k sl l r s) := by
  unfold startAccepted
  dsimp only
  rw [hl]
  dsimp only
  rw [hcancel]
  rfl

theorem startAccepted_clear {k : Nat} {sl : Slot} {l : Luminaire} {s : State} (r : NodeRecord)
    (hl : s.luminaires.get sl.luminaire = some l) (hclear : l.cancelPending = none) :
    startAccepted k sl r s =
      if l.band = .hot then recallSlot .thermal k (testBegun k sl l r s) else testBegun k sl l r s := by
  unfold startAccepted
  dsimp only
  rw [hl]
  dsimp only
  rw [hclear]
  rfl

theorem testBegun_slots (k : Nat) (sl : Slot) (l : Luminaire) (r : NodeRecord) (s : State) :
    (testBegun k sl l r s).slots = s.slots.put k (sl.begun r s) := by
  unfold testBegun
  rw [show writeItem _ _ = _ from writeItem_only _ _]
  exact records_slots (putLum_only _ _ _)

theorem get_testBegun (k m : Nat) (sl : Slot) (l : Luminaire) (r : NodeRecord) (s : State) :
    (testBegun k sl l r s).luminaires.get m = if m = sl.luminaire then some l.begun else s.luminaires.get m := by
  unfold testBegun
  rw [writeItem_luminaires, get_putLum]

theorem begun_kept (l : Luminaire) : l.begun.state = .testing ∧ l.begun.watchArmed = false ∧ l.begun.cancelPending = none ∧
    l.begun.lastReport = l.lastReport := by
  obtain ⟨why, hform⟩ := enter_form l .testing
  unfold Luminaire.begun
  rw [hform]
  exact ⟨rfl, rfl, rfl, rfl⟩

/-- A recall of a RUNNING slot, whatever its branch does (R106). -/
theorem recallSlot_stops (reason : RecallReason) {k : Nat} {sl : Slot} {s : State} (hk : s.slots.get k = some sl)
    (hrunning : sl.status = .running) :
    (recallSlot reason k s).slots = s.slots.put k (sl.recalled reason s) ∧
      ∀ m, (recallSlot reason k s).luminaires.get m =
        if m = sl.luminaire then (s.luminaires.get sl.luminaire).map fun l => l.enter .stopping else s.luminaires.get m := by
  rw [recallSlot_running reason k sl s hk hrunning]
  refine ⟨close_slots _ _ _, fun m => ?_⟩
  rw [get_close, fix_luminaire]

/-- What a START that was accepted leaves of slot and record (R88). -/
structure Begun (sl : Slot) (l : Luminaire) (r : NodeRecord) (s : State) (sl' : Slot) (l' : Luminaire) : Prop where
  campusStart : sl'.campusStart = some s.campus
  elapsedRef : sl'.elapsedRef = some s.ownCount
  nodeElapsed : sl'.nodeElapsed = some 0
  lowest : sl'.lowest = some r.millivolts
  watchArmed : l'.watchArmed = false
  cancelPending : l'.cancelPending = none
  lastReport : l'.lastReport = l.lastReport

/-- A test begun and recalled at once (R88). -/
structure BegunRecalled (reason : RecallReason) (sl sl' : Slot) (l' : Luminaire) : Prop where
  status : sl'.status = .closing
  state : l'.state = .stopping
  outcome : sl'.outcome = some (sl.outcome.getD reason.outcome)

section
variable {k n : Nat} {sl : Slot} {l : Luminaire} {s : State}

theorem testBegun_begun (r : NodeRecord) (hn : sl.luminaire = n) :
    (testBegun k sl l r s).slots.get k = some (sl.begun r s) ∧
      (testBegun k sl l r s).luminaires.get n = some l.begun ∧ Begun sl l r s (sl.begun r s) l.begun ∧
      (∀ j, j ≠ k → (testBegun k sl l r s).slots.get j = s.slots.get j) ∧ OnlyLuminaire n s (testBegun k sl l r s) := by
  subst hn
  obtain ⟨-, hwatch, hcancel, hreport⟩ := begun_kept l
  refine ⟨?_, (get_testBegun k _ sl l r s).trans (if_pos rfl), ⟨rfl, rfl, rfl, rfl, hwatch, hcancel, hreport⟩,
    fun j hj => ?_, fun m hm => (get_testBegun k m sl l r s).trans (if_neg hm)⟩
  · rw [testBegun_slots]
    exact Table.get_put_self _ _ _
  · rw [testBegun_slots]
    exact Table.get_put_other _ _ hj

theorem testBegun_recalled (reason : RecallReason) (r : NodeRecord) (hn : sl.luminaire = n) :
    ∃ sl' l', (recallSlot reason k (testBegun k sl l r s)).slots.get k = some sl' ∧
      (recallSlot reason k (testBegun k sl l r s)).luminaires.get n = some l' ∧ Begun sl l r s sl' l' ∧
      (∀ j, j ≠ k → (recallSlot reason k (testBegun k sl l r s)).slots.get j = s.slots.get j) ∧
      OnlyLuminaire n s (recallSlot reason k (testBegun k sl l r s)) ∧ BegunRecalled reason sl sl' l' := by
  obtain ⟨hk, hl, hbegun, hkept, hothers⟩ := testBegun_begun (k := k) (l := l) (s := s) r hn
  obtain ⟨hslots, hrecords⟩ := recallSlot_stops reason hk rfl
  subst hn
  generalize testBegun k sl l r s = t at *
  obtain ⟨why, hform⟩ := enter_form l.begun .stopping
  refine ⟨(sl.begun r s).recalled reason t, l.begun.enter .stopping, ?_, ?_, ?_, fun j hj => ?_, fun m hm => ?_, ?_⟩
  · rw [hslots]
    exact Table.get_put_self _ _ _
  · rw [hrecords]
    exact (if_pos rfl).trans (by rw [show (sl.begun r s).luminaire = sl.luminaire from rfl, hl]; rfl)
  · rw [recalled_eq, hform]
    exact ⟨rfl, rfl, rfl, rfl, hbegun.watchArmed, hbegun.cancelPending, hbegun.lastReport⟩
  · rw [hslots]
    exact (Table.get_put_other _ _ hj).trans (hkept j hj)
  · rw [hrecords]
    exact (if_neg hm).trans (hothers m hm)
  · rw [recalled_eq, hform]
    exact ⟨rfl, rfl, rfl⟩

/-- A START that was accepted (R88). -/
theorem startAccepted_begins (r : NodeRecord) (hn : sl.luminaire = n) (hl : s.luminaires.get n = some l) :
    ∃ sl' l', (startAccepted k sl r s).slots.get k = some sl' ∧ (startAccepted k sl r s).luminaires.get n = some l' ∧
      Begun sl l r s sl' l' ∧ (∀ j, j ≠ k → (startAccepted k sl r s).slots.get j = s.slots.get j) ∧
      OnlyLuminaire n s (startAccepted k sl r s) ∧
      (l.cancelPending = none → l.band ≠ .hot → sl' = sl.begun r s ∧ l'.state = .testing) ∧
      (∀ reason, l.cancelPending = some reason → BegunRecalled reason sl sl' l') ∧
      (l.cancelPending = none → l.band = .hot → BegunRecalled .thermal sl sl' l') := by
  have hat : s.luminaires.get sl.luminaire = some l := hn ▸ hl
  cases hcancel : l.cancelPending with
  | some reason =>
    obtain ⟨sl', l', hk', hl', hbegun, hkept, hothers, hrecalled⟩ := testBegun_recalled (k := k) (l := l) (s := s) reason r hn
    rw [startAccepted_recalled r hat hcancel]
    refine ⟨sl', l', hk', hl', hbegun, hkept, hothers, fun h => (nomatch h), fun x hx => ?_, fun h => (nomatch h)⟩
    obtain rfl := Option.some.inj hx
    exact hrecalled
  | none =>
    rw [startAccepted_clear r hat hcancel]
    by_cases hhot : l.band = .hot
    · obtain ⟨sl', l', hk', hl', hbegun, hkept, hothers, hrecalled⟩ :=
        testBegun_recalled (k := k) (l := l) (s := s) .thermal r hn
      rw [if_pos hhot]
      exact ⟨sl', l', hk', hl', hbegun, hkept, hothers, fun _ h => absurd hhot h, fun _ h => (nomatch h), fun _ _ => hrecalled⟩
    · obtain ⟨hk', hl', hbegun, hkept, hothers⟩ := testBegun_begun (k := k) (l := l) (s := s) r hn
      rw [if_neg hhot]
      exact ⟨_, _, hk', hl', hbegun, hkept, hothers, fun _ _ => ⟨rfl, (begun_kept l).1⟩, fun _ h => (nomatch h),
        fun _ h => absurd h hhot⟩

end

end Sys2Proof.Machine
end

section
/-! PROOFS. The obligation on START answers (R88 to R92, R116). -/

namespace Sys2Proof.Machine

theorem stateWithout_same {s t : State} (h : SameClock s t) (l : Luminaire) : stateWithout t l = stateWithout s l := by
  rw [stateWithout_eq, stateWithout_eq, waitState_same h]

theorem HeldOff.same {s t : State} (h : SameClock s t) {l l' : Luminaire} (hheld : HeldOff t l l') : HeldOff s l l' := by
  obtain ⟨hcampus, -, hparams⟩ := h
  unfold HeldOff at hheld ⊢
  rw [hcampus, hparams] at hheld
  exact hheld

theorem rechargeFromNow_same {s t : State} (h : SameClock s t) : rechargeFromNow t = rechargeFromNow s := by
  obtain ⟨hcampus, hquality, hparams⟩ := h
  unfold rechargeFromNow
  rw [hcampus, hquality, hparams]

section
variable {s : State} {b : Fin 8} {f : InFlight} {bytes : List Byte} {a : NodeFrame} {r : NodeRecord} {n : Nat} {l : Luminaire}
  {k : Nat} {sl : Slot}

/-- The state `v` from which a START's answer reaches its RESERVED slot. -/
theorem exec_startAnswer {code : StartCode} (hanswer : AnswerMatches s b f bytes a r (some code) n l)
    (hkind : f.exchange.kind = .start) (hissuer : f.exchange.issuer = .slot k n) (hk : s.slots.get k = some sl)
    (hn : sl.luminaire = n) (hstatus : sl.status = .reserved) (hst : l.state = .starting) :
    ∃ u v, u = startAnswered k sl r code v ∧ exec (.nodeAnswerFrame b bytes) s = .next (settle u) ∧ ExchangeEnded s u ∧
      RecordMoves n (some (recordAnswered s l r (some code))) s v ∧ OnlyRecords (lineFreed s b f.sends) v := by
  obtain ⟨u, v, hu, hexec, hended, hmoves, -, honly⟩ := exec_matched_quiet hanswer (.inr (by rw [hst]; rfl))
  obtain ⟨-, -, -, -, -, hrecord, -⟩ := hanswer
  have hslots : v.slots = s.slots := (records_slots honly :)
  rw [issuerAnswered_slot hissuer hrecord, hkind, slotAnswered_start (by rw [hslots]; exact hk) hn hstatus] at hu
  exact ⟨u, v, hu, hexec, hended, hmoves, honly⟩

/-- A START refused, or answered ALREADY-TESTING (R89, R91, R92, R116). -/
theorem startAnswer_refused {code : StartCode} (hanswer : AnswerMatches s b f bytes a r (some code) n l)
    (hkind : f.exchange.kind = .start) (hissuer : f.exchange.issuer = .slot k n) (hr : s.slots.Rising)
    (hk : s.slots.get k = some sl) (hn : sl.luminaire = n) (hb : sl.branch = b) (hstatus : sl.status = .reserved)
    (hst : l.state = .starting) (hcode : code ≠ .accepted) :
    ∃ u l', exec (.nodeAnswerFrame b bytes) s = .next (settle u) ∧ u.trigger = true ∧ u.slots.get k = none ∧
      (∀ j, j ≠ k → u.slots.get j = s.slots.get j) ∧ u.results = s.results ∧ u.luminaires.get n = some l' ∧
      l'.lastReport = some ⟨r, s.campus, some code⟩ ∧ l'.due = l.due ∧ l'.openMarker = false ∧
      l'.cancelPending = none ∧ l'.outAtRelease = false ∧ OnlyLuminaire n s u ∧ ExchangeEnded s u ∧
      (code ≠ .alreadyTesting → l'.state = stateWithout s l ∧ HeldOff s l l') ∧
      (code = .alreadyTesting → l'.state = .recharging ∧ l'.holdOff = l.holdOff ∧
        l'.recharge = some (rechargeFromNow s) ∧
        (s.branches[b].state = .ready → strayStopWaits s n = false →
          occupiedOn s b + (s.branches[b].queue.filter fun e => !e.reserved).length ≤ queuePlaces →
          stopExchange l.node n .stray false ∈ u.branches[b].queue)) := by
  obtain ⟨u, v, hu, hexec, hended, hmoves, honly⟩ := exec_startAnswer hanswer hkind hissuer hk hn hstatus hst
  obtain ⟨-, hf, -, -, -, -, -, hbranch, -⟩ := hanswer
  have hslots : v.slots = s.slots := (records_slots honly :)
  have hresults : v.results = s.results := (honly.results :)
  have hclock : SameClock s v := (honly.sameClock :)
  have hkv : v.slots.get k = some sl := by rw [hslots]; exact hk
  obtain ⟨hgone, hkept⟩ := get_freed hr k
  by_cases htesting : code = .alreadyTesting
  · subst htesting
    obtain ⟨l', hl', hstate, hhold, hrecharge, hreport, hdue, hmarker, hcancel, hout, htrigger, hfreed, hsame, hothers, hqueue⟩ :=
      alreadyTesting_strays r (hslots ▸ hr) hkv hn hmoves.1 (b := b) hbranch
    rw [show u = stray n r (releaseWithout k v) from hu.trans (by rw [← hn]; rfl)] at hexec hended
    refine ⟨_, l', hexec, htrigger, by rw [hfreed, hslots]; exact hgone, fun j hj => by rw [hfreed, hslots]; exact hkept j hj,
      hsame.trans hresults, hl', hreport, hdue, hmarker, hcancel, hout, fun m hm => (hothers m hm).trans (hmoves.2.1 m hm), hended,
      fun h => absurd rfl h, fun _ => ⟨hstate, hhold, hrecharge.trans (congrArg some (rechargeFromNow_same hclock)),
        fun hready hwaits hplaces => ?_⟩⟩
    have hlines : v.branches = (lineFreed s b f.sends).branches := honly.branches
    have hat : v.branches[b] = branchAnswered s b f.sends :=
      (show v.branches[b] = (lineFreed s b f.sends).branches[b] by rw [hlines]).trans (lineFreed_queue s b f.sends)
    have hnostray : isStrayStopOf n f.exchange = false := by
      unfold isStrayStopOf
      rw [hissuer]
      rfl
    have hwaits' : strayStopWaits v n = false := by
      rw [← hwaits, ← strayStopWaits_lineFreed hf hnostray]
      exact strayStopWaits_congr fun c => by rw [hlines]
    exact hqueue (by rw [hat]; exact hready) hb hwaits' (by rw [hat, occupiedOn_congr hslots]; exact hplaces)
  · rw [startAnswered_refused hcode htesting] at hu
    obtain ⟨l', hl', hleft, hheld, hothers⟩ := releaseHeldOff_left hkv hn hmoves.1
    have hfreed := releaseHeldOff_slots k sl v hkv
    have htrigger := releaseHeldOff_trigger k sl v hkv
    have hsame := releaseHeldOff_results k sl v hkv
    rw [← hu] at hl' hothers hfreed htrigger hsame
    exact ⟨u, l', hexec, htrigger, by rw [hfreed, hslots]; exact hgone, fun j hj => by rw [hfreed, hslots]; exact hkept j hj,
      hsame.trans hresults, hl', hleft.lastReport, hleft.due, hleft.openMarker, hleft.cancelPending, hleft.outAtRelease,
      fun m hm => (hothers m hm).trans (hmoves.2.1 m hm), hended,
      fun _ => ⟨hleft.state.trans (stateWithout_same hclock _), HeldOff.same hclock hheld⟩, fun h => absurd h htesting⟩

/-- A START accepted (R88). -/
theorem startAnswer_accepted (hanswer : AnswerMatches s b f bytes a r (some .accepted) n l)
    (hkind : f.exchange.kind = .start) (hissuer : f.exchange.issuer = .slot k n) (hk : s.slots.get k = some sl)
    (hn : sl.luminaire = n) (hstatus : sl.status = .reserved) (hst : l.state = .starting) :
    ∃ u sl' l', exec (.nodeAnswerFrame b bytes) s = .next (settle u) ∧ u.slots.get k = some sl' ∧
      u.luminaires.get n = some l' ∧
      sl'.campusStart = some s.campus ∧ sl'.elapsedRef = some s.ownCount ∧ sl'.nodeElapsed = some 0 ∧
      sl'.lowest = some r.millivolts ∧ l'.watchArmed = false ∧ l'.cancelPending = none ∧
      l'.lastReport = some ⟨r, s.campus, some .accepted⟩ ∧
      (∀ j, j ≠ k → u.slots.get j = s.slots.get j) ∧ OnlyLuminaire n s u ∧ ExchangeEnded s u ∧
      (l.cancelPending = none → bandAfter s.params l.band r.temperature ≠ .hot →
        sl'.status = .running ∧ l'.state = .testing ∧ sl'.endTimer = some (sl.rated * 60) ∧
        sl'.supervision = some s.params.supervisionInterval ∧ sl'.outcome = sl.outcome) ∧
      (∀ reason, l.cancelPending = some reason → sl'.status = .closing ∧ l'.state = .stopping ∧
        sl'.outcome = some (sl.outcome.getD reason.outcome)) ∧
      (l.cancelPending = none → bandAfter s.params l.band r.temperature = .hot →
        sl'.status = .closing ∧ l'.state = .stopping ∧ sl'.outcome = some (sl.outcome.getD .abortedThermal)) := by
  obtain ⟨u, v, hu, hexec, hended, hmoves, honly⟩ := exec_startAnswer hanswer hkind hissuer hk hn hstatus hst
  have hslots : v.slots = s.slots := (records_slots honly :)
  have hclock : SameClock s v := (honly.sameClock :)
  have hcount : v.ownCount = s.ownCount := by
    unfold OnlyRecords at honly
    rw [honly]
    rfl
  obtain ⟨sl', l', hk', hl', hbegun, hkept, hothers, hgoes, hcancelled, hhot⟩ := startAccepted_begins (k := k) r hn hmoves.1
  rw [show startAccepted k sl r v = u from hu.symm] at hk' hl' hkept hothers
  refine ⟨u, sl', l', hexec, hk', hl', hbegun.campusStart.trans (congrArg some hclock.1),
    hbegun.elapsedRef.trans (congrArg some hcount), hbegun.nodeElapsed, hbegun.lowest, hbegun.watchArmed, hbegun.cancelPending,
    hbegun.lastReport, fun j hj => (hkept j hj).trans (by rw [hslots]), fun m hm => (hothers m hm).trans (hmoves.2.1 m hm), hended,
    fun hclear hcool => ?_, fun reason hreason => ?_, fun hclear hband => ?_⟩
  · obtain ⟨rfl, hstate⟩ := hgoes hclear hcool
    exact ⟨rfl, hstate, rfl, congrArg (fun p : Params => some p.supervisionInterval) hclock.2.2, rfl⟩
  · exact ⟨(hcancelled reason hreason).status, (hcancelled reason hreason).state, (hcancelled reason hreason).outcome⟩
  · exact ⟨(hhot hclear hband).status, (hhot hclear hband).state, (hhot hclear hband).outcome⟩

end

/-- Settles O46: an accepted START begins the test, recalled at once by a cancel pending or a HOT band; a refused one releases the
slot, and ALREADY-TESTING is a stray test. -/
theorem anAcceptedStartBeginsTheTest : Obligations.AnAcceptedStartBeginsTheTest := by
  unfold Obligations.AnAcceptedStartBeginsTheTest
  refine ⟨fun s b f bytes a r code n l k sl hanswer hkind hissuer hr hk hn hb hstatus hst hcode =>
      startAnswer_refused hanswer hkind hissuer hr hk hn hb hstatus hst hcode,
    fun s b f bytes a r k n sl l hop hf hkind hissuer he ha hnode hform hrecord hk hn hstatus hl hst hb haddress => ?_⟩
  have hsuits : a.suits f.exchange = true := by
    unfold NodeFrame.suits
    rw [hkind, hnode, hform, hrecord]
    simp
  exact startAnswer_accepted ⟨hop, hf, he, ha, hsuits, hrecord, hl, hb, haddress⟩ hkind hissuer hk hn hstatus hst

end Sys2Proof.Machine
end

section
/-! PROOFS. Campaigns and releases only add to the outbox (R185): a notice that stands there stays where it is. -/

namespace Sys2Proof.Machine

namespace OutboxGrows

theorem refl (s : State) : OutboxGrows s s := .same rfl

theorem raised (b : NoticeBody) (s : State) : OutboxGrows s (raise b s) := (raise_raises b s).grows

theorem written (i : Item) (s : State) : OutboxGrows s (writeItem i s) := (writeItem_raises i s).grows

theorem relisted (n : Nat) (new : Option Luminaire) (s : State) : OutboxGrows s (putLum n new s) :=
  (putLum_tables n new s).raises.grows

theorem changed (n : Nat) (f : Luminaire → Luminaire) (s : State) : OutboxGrows s (modLum n f s) :=
  (modLum_tables n f s).raises.grows

/-- What stands at a place of the outbox stays there. -/
theorem getElem? {s t : State} (h : OutboxGrows s t) {i : Nat} {x : Notice} (hx : s.outbox[i]? = some x) :
    t.outbox[i]? = some x := by
  obtain ⟨rest, hrest⟩ := h
  obtain ⟨hi, -⟩ := List.getElem?_eq_some_iff.mp hx
  rw [← hrest, List.getElem?_append_left hi]
  exact hx

end OutboxGrows

/-! ### Campaigns -/

theorem checkWatch_grows (c : Fin 4) (s : State) : OutboxGrows s (checkWatch c s) := by
  unfold checkWatch
  exact OutboxGrows.trans (t := modChan c _ s) (.same rfl)
    (foldl_only OutboxGrows.refl (fun h1 h2 => h1.trans h2) (fun t e => OutboxGrows.raised _ t) _ _)

theorem campaignDone_grows (c : Fin 4) (s : State) : OutboxGrows s (campaignDone c s) := by
  have h : OutboxGrows s (raise (.done c s.channels[c].run s.channels[c].skipped s.channels[c].unstarted)
      (modChan c (fun ch => { ch with state := .done }) s)) :=
    OutboxGrows.trans (t := modChan c (fun ch => { ch with state := .done }) s) (.same rfl) (.raised _ _)
  unfold campaignDone
  dsimp only
  split
  · refine (h.trans ?_).trans (.same (triggerPass_outbox _))
    exact OutboxGrows.trans (t := modChan c (fun ch => ch.started ch.restartBypass) _) (.same rfl) (.raised _ _)
  · exact h

theorem drainedDone_grows (c : Fin 4) (s : State) : OutboxGrows s (drainedDone c s) := by
  unfold drainedDone
  dsimp only
  split
  · exact campaignDone_grows c s
  · exact .refl s

theorem endOfList_grows (c : Fin 4) (last cursor : Nat) (s : State) : OutboxGrows s (endOfList c last cursor s) :=
  (OutboxGrows.trans (t := modChan c _ s) (.same rfl) (checkWatch_grows c _)).trans (drainedDone_grows c _)

theorem finishEntry_grows (c : Fin 4) (s : State) : OutboxGrows s (finishEntry c s) := by
  unfold finishEntry
  dsimp only
  split
  · exact endOfList_grows _ _ _ _
  · split
    · exact OutboxGrows.trans (t := modChan c _ s) (.same rfl) (checkWatch_grows c _)
    · split <;> exact .same rfl

theorem halt_grows (c : Fin 4) (r : HaltReason) (s : State) : OutboxGrows s (halt c r s) :=
  OutboxGrows.trans (t := modChan c _ s) (.same rfl) (.raised _ _)

theorem reachMember_grows (c : Fin 4) (s : State) : OutboxGrows s (reachMember c s) := by
  unfold reachMember
  dsimp only
  split
  · exact OutboxGrows.trans (t := modChan c _ s) (.same rfl) (finishEntry_grows c _)
  · exact .same rfl

theorem examineTest_grows (c : Fin 4) (n : Nat) (s : State) : OutboxGrows s (examineTest c n s) := by
  unfold examineTest
  split
  · exact halt_grows _ _ _
  · split
    · exact halt_grows _ _ _
    · exact .refl s

theorem markTakenUp_grows (c : Fin 4) (s : State) : OutboxGrows s (markTakenUp c s) := by
  unfold markTakenUp
  dsimp only
  split
  · exact OutboxGrows.trans (t := modChan c _ s) (.same rfl) (.raised _ _)
  · exact .same rfl

theorem takeUpOne_grows (c : Fin 4) (s : State) : OutboxGrows s (takeUpOne c s) := by
  unfold takeUpOne
  dsimp only
  split
  · exact endOfList_grows _ _ _ _
  · refine (markTakenUp_grows c s).trans ?_
    split
    · exact examineTest_grows _ _ _
    · split
      · exact halt_grows _ _ _
      · exact OutboxGrows.trans (t := modChan c _ (markTakenUp c s)) (.same rfl) (reachMember_grows c _)
    · exact (OutboxGrows.raised _ _).trans (finishEntry_grows c _)

theorem takeUpAll_grows (fuel : Nat) (c : Fin 4) (s : State) : OutboxGrows s (takeUpAll fuel c s) := by
  induction fuel generalizing s with
  | zero => exact .refl s
  | succ fuel ih =>
    unfold takeUpAll
    split
    · exact (takeUpOne_grows c s).trans (ih _)
    · exact .refl s

theorem takeUp_grows (c : Fin 4) (s : State) : OutboxGrows s (takeUp c s) := takeUpAll_grows _ c s

theorem endHold_grows (c : Fin 4) (s : State) : OutboxGrows s (endHold c s) := by
  unfold endHold
  dsimp only
  split
  · exact .refl s
  · split
    · exact .refl s
    · split
      · exact ((OutboxGrows.trans (t := modChan c _ s) (.same rfl) (.raised _ _)).trans (.same (triggerPass_outbox _))).trans
          (takeUp_grows c _)
      · exact .same rfl

theorem campaignReleased_grows (c : Fin 4) (k : Nat) (hasResult : Bool) (s : State) :
    OutboxGrows s (campaignReleased c k hasResult s) := by
  unfold campaignReleased
  split
  · exact (((OutboxGrows.trans (t := modChan c _ s) (.same rfl) (endHold_grows c _)).trans (checkWatch_grows c _)).trans
      (drainedDone_grows c _)).trans (takeUp_grows c _)
  · exact .refl s

theorem tellReleased_grows (o : Origin) (k : Nat) (hasResult : Bool) (s : State) :
    OutboxGrows s (tellReleased o k hasResult s) := by
  unfold tellReleased
  split
  · exact campaignReleased_grows _ _ _ _
  · exact .refl s

/-! ### Releases -/

theorem addResult_grows (r : ResultRecord) (s : State) : OutboxGrows s (addResult r s) :=
  OutboxGrows.trans (t := followAttn { s with results := s.results ++ [r], resultCounter := (s.resultCounter + 1) % 65536 })
    (.same rfl) (.written _ _)

theorem raiseOutcomeLatch_grows (n : Nat) (l : Luminaire) (o : TestOutcome) (s : State) :
    OutboxGrows s (raiseOutcomeLatch n l o s) := by
  unfold raiseOutcomeLatch
  split
  · split
    · exact .refl s
    · exact .raised _ s
  · exact .refl s

theorem checkedWith_grows (k : Nat) (sl : Slot) (l : Luminaire) (o : TestOutcome) (s : State) :
    OutboxGrows s (checkedWith k sl l o s) := by
  have hfreed : OutboxGrows s (freedWith k sl l o s) :=
    ((addResult_grows _ s).trans (.relisted _ _ _)).trans (.same rfl)
  exact ((hfreed.trans (.written _ _)).trans (raiseOutcomeLatch_grows _ l o _)).trans (checkOverdue_grows _ _)

theorem releaseResult_grows (k : Nat) (s : State) : OutboxGrows s (releaseResult k s) := by
  cases hk : s.slots.get k with
  | none =>
    rw [releaseResult_none hk]
    exact .refl s
  | some sl =>
    cases hl : s.luminaires.get sl.luminaire with
    | none =>
      rw [releaseResult_orphan hk hl]
      exact .same rfl
    | some l =>
      rw [releaseResult_checked hk hl]
      exact ((checkedWith_grows _ _ _ _ _).trans (tellReleased_grows _ _ _ _)).trans (.same (triggerPass_outbox _))

theorem releaseWithout_grows (k : Nat) (s : State) : OutboxGrows s (releaseWithout k s) := by
  cases hk : s.slots.get k with
  | none =>
    unfold releaseWithout
    rw [hk]
    exact .refl s
  | some sl =>
    have hwritten : OutboxGrows s (writtenRelease k sl s) :=
      (OutboxGrows.trans (t := freeSlot k sl s) (.same rfl) (.changed _ _ _)).trans (.written _ _)
    rw [releaseWithout_eq k sl s hk]
    exact ((hwritten.trans (checkOverdue_grows _ _)).trans (tellReleased_grows _ _ _ _)).trans (.same (triggerPass_outbox _))

theorem releaseHeldOff_grows (k : Nat) (s : State) : OutboxGrows s (releaseHeldOff k s) := by
  cases hk : s.slots.get k with
  | none =>
    unfold releaseHeldOff
    rw [hk]
    exact .refl s
  | some sl =>
    rw [releaseHeldOff_eq k sl s hk]
    exact (OutboxGrows.changed _ _ _).trans (releaseWithout_grows k _)

end Sys2Proof.Machine
end

section
/-! PROOFS. What the end of an unanswered exchange can do to a slot, its luminaire and the lines (R90, R97, R98, R101). -/

namespace Sys2Proof.Machine

/-! ### The lines after a release -/

theorem freeSlot_branches_congr {k : Nat} {sl sl' : Slot} {s t : State} (h : t.branches = s.branches)
    (hb : sl'.branch = sl.branch) (hn : sl'.luminaire = sl.luminaire) :
    (freeSlot k sl' t).branches = (freeSlot k sl s).branches := by
  unfold freeSlot unqueue modBranch
  dsimp only
  rw [h, hn]
  obtain ⟨status, lum, b⟩ := sl'
  subst hb
  rfl

theorem releaseResult_branches {k : Nat} {sl : Slot} {l : Luminaire} {s : State} (hk : s.slots.get k = some sl)
    (hl : s.luminaires.get sl.luminaire = some l) : (releaseResult k s).branches = (freeSlot k sl s).branches := by
  have hput := (putLum_only (sl.lost s).luminaire (some (l.released s (sl.lost s) sl.outcomeLeft))
    (addResult (releaseRecord s (sl.lost s) l sl.outcomeLeft) s)).branches
  have hadd : (addResult (releaseRecord s (sl.lost s) l sl.outcomeLeft) s).branches = s.branches := by
    unfold addResult
    rw [writeItem_only .results (followAttn _)]
    rfl
  rw [releaseResult_checked hk hl, triggerPass_branches,
    show tellReleased sl.origin k true (checkedLost k sl l s) = _ from tellReleased_only _ _ _ _,
    show checkedLost k sl l s = _ from checkedWith_records _ _ _ _ _]
  exact freeSlot_branches_congr (hput.trans hadd) (fix_branch _ _ _) (fix_luminaire _ _ _)

theorem freeSlot_inFlight (k : Nat) (sl : Slot) (s : State) (a : Fin 8) :
    (freeSlot k sl s).branches[a].inFlight = s.branches[a].inFlight := by
  by_cases ha : sl.branch = a
  · rw [freeSlot_branch k sl s ha]
  · rw [freeSlot_branch_other k sl s fun h => ha h.symm]

/-! ### What an end can do -/

/-- Between `s` and `u` only luminaire `n`'s record differs, and neither what its exchanges came to nor an in-flight exchange nor a
notice that stands. -/
structure EndTold (n : Nat) (s u : State) : Prop where
  others : OnlyLuminaire n s u
  record : ∀ l, s.luminaires.get n = some l → ∃ l', u.luminaires.get n = some l' ∧ l'.lastExchange = l.lastExchange ∧
    l'.latches.noAnswer = l.latches.noAnswer
  inFlight : ∀ a : Fin 8, u.branches[a].inFlight = s.branches[a].inFlight
  grows : OutboxGrows s u

theorem EndTold.unmoved {n : Nat} {s u : State} (hl : u.luminaires = s.luminaires) (hb : u.branches = s.branches)
    (ho : u.outbox = s.outbox) : EndTold n s u :=
  ⟨fun _ _ => by rw [hl], fun l h => ⟨l, by rw [hl]; exact h, rfl, rfl⟩, fun a => by rw [hb], .same ho⟩

theorem latchesAfter_noAnswer (l : Latches) (o : TestOutcome) : (latchesAfter l o).noAnswer = l.noAnswer := by
  cases o <;> rfl

theorem releaseResult_told {k n : Nat} {sl : Slot} {s : State} (hk : s.slots.get k = some sl) (hn : sl.luminaire = n) :
    EndTold n s (releaseResult k s) := by
  subst hn
  cases hl : s.luminaires.get sl.luminaire with
  | none =>
    rw [releaseResult_orphan hk hl]
    exact ⟨fun _ _ => rfl, fun l h => ⟨l, h, rfl, rfl⟩, fun a => (freeSlot_inFlight _ _ s a), .same rfl⟩
  | some l =>
    obtain ⟨-, -, -, -, -, ⟨l', hl', hleft⟩, hothers, -⟩ := releaseResult_released hk hl
    refine ⟨hothers, fun x hx => ?_, fun a => ?_, releaseResult_grows k s⟩
    · obtain rfl := Option.some.inj (hl.symm.trans hx)
      exact ⟨l', hl', hleft.lastExchange, by rw [hleft.latches]; exact latchesAfter_noAnswer _ _⟩
    · rw [show (releaseResult k s).branches[a] = (freeSlot k sl s).branches[a] by rw [releaseResult_branches hk hl]]
      exact freeSlot_inFlight k sl s a

theorem releaseHeldOff_branches {k : Nat} {sl : Slot} {s : State} (h : s.slots.get k = some sl) :
    (releaseHeldOff k s).branches = (freeSlot k sl s).branches := by
  rw [releaseHeldOff_eq k sl s h, releaseWithout_branches (by rw [modLum_slots]; exact h)]
  exact freeSlot_branches_congr (modLum_only _ _ s).branches rfl rfl

theorem releaseHeldOff_told {k n : Nat} {sl : Slot} {s : State} (hk : s.slots.get k = some sl) (hn : sl.luminaire = n) :
    EndTold n s (releaseHeldOff k s) := by
  refine ⟨fun m hm => ?_, fun l hl => ?_, fun a => ?_, releaseHeldOff_grows k s⟩
  · rw [get_releaseHeldOff k m sl s hk, if_neg (hn ▸ hm)]
  · obtain ⟨l', hl', hleft, -, -⟩ := releaseHeldOff_left hk hn hl
    exact ⟨l', hl', hleft.lastExchange, by rw [hleft.latches]; rfl⟩
  · rw [show (releaseHeldOff k s).branches[a] = (freeSlot k sl s).branches[a] by rw [releaseHeldOff_branches hk]]
    exact freeSlot_inFlight k sl s a

theorem EndTold.of_slots {n : Nat} {t : Table Slot} {s u : State} (h : EndTold n { s with slots := t } u) : EndTold n s u :=
  ⟨h.others, h.record, h.inFlight, h.grows⟩

theorem readMissed_told {k n : Nat} {sl : Slot} {s : State} (hn : sl.luminaire = n) : EndTold n s (readMissed k sl s) := by
  unfold readMissed
  dsimp only
  split
  · exact .unmoved rfl rfl rfl
  · exact EndTold.of_slots (releaseResult_told (sl := { sl with missedPolls := sl.missedPolls + 1 })
      (Table.get_put_self _ _ _) hn)

theorem stopMissed_told {k n : Nat} {sl : Slot} {s : State} (hk : s.slots.get k = some sl) (hn : sl.luminaire = n) :
    EndTold n s (stopMissed k sl s) := by
  unfold stopMissed
  split
  · exact .unmoved rfl rfl rfl
  · exact releaseResult_told hk hn

theorem slotUnanswered_told (k n : Nat) (kind : ExchangeKind) (s : State) : EndTold n s (slotUnanswered k n kind s) := by
  unfold slotUnanswered
  split
  · exact .unmoved rfl rfl rfl
  · rename_i sl hk
    split
    · exact .unmoved rfl rfl rfl
    · rename_i hn
      have hlum := not_not.mp hn
      split
      · exact releaseHeldOff_told hk hlum
      · exact readMissed_told hlum
      · exact stopMissed_told hk hlum
      · exact .unmoved rfl rfl rfl

/-! ### The ends of a slot's exchanges -/

section
variable {k n : Nat} {sl : Slot} {s : State}

theorem slotUnanswered_read (hk : s.slots.get k = some sl) (hn : sl.luminaire = n) (hstatus : sl.status = .running) :
    slotUnanswered k n .read s = readMissed k sl s := by
  unfold slotUnanswered
  rw [hk]
  dsimp only
  rw [if_neg (not_not_intro hn), hstatus]

theorem slotUnanswered_stop (hk : s.slots.get k = some sl) (hn : sl.luminaire = n) (hstatus : sl.status = .closing) :
    slotUnanswered k n .stop s = stopMissed k sl s := by
  unfold slotUnanswered
  rw [hk]
  dsimp only
  rw [if_neg (not_not_intro hn), hstatus]

theorem slotUnanswered_start (hk : s.slots.get k = some sl) (hn : sl.luminaire = n) (hstatus : sl.status = .reserved) :
    slotUnanswered k n .start s = releaseHeldOff k s := by
  unfold slotUnanswered
  rw [hk]
  dsimp only
  rw [if_neg (not_not_intro hn), hstatus]

/-- The third missed poll, or the third STOP, releases the slot with its fixed outcome or LOST (R97, R101). -/
theorem slotUnanswered_released {l : Luminaire} {kind : ExchangeKind} (hr : s.slots.Rising) (hk : s.slots.get k = some sl)
    (hn : sl.luminaire = n) (hl : s.luminaires.get n = some l)
    (h : (kind = .read ∧ sl.status = .running ∧ 3 ≤ sl.missedPolls + 1) ∨
      (kind = .stop ∧ sl.status = .closing ∧ 3 ≤ sl.stopAttempts)) :
    (slotUnanswered k n kind s).slots.get k = none ∧ (slotUnanswered k n kind s).trigger = true ∧
      (∃ l', (slotUnanswered k n kind s).luminaires.get n = some l' ∧ l'.state = stateWith l) ∧
      (slotUnanswered k n kind s).results =
        s.results ++ [resultOf s n l sl (sl.outcome.getD .lost) (minutesOf s sl) sl.endVoltage] := by
  obtain ⟨sl', t, hslot, ht, hlum, hsame, hfreed⟩ : ∃ sl' t, slotUnanswered k n kind s = releaseResult k { s with slots := t } ∧
      t.get k = some sl' ∧ sl'.luminaire = n ∧
      (∀ x : State, resultOf s n l sl' sl'.outcomeLeft (minutesOf x sl') sl'.endVoltage =
        resultOf s n l sl (sl.outcome.getD .lost) (minutesOf x sl) sl.endVoltage) ∧ (t.drop k).get k = none := by
    rcases h with ⟨rfl, hstatus, hmissed⟩ | ⟨rfl, hstatus, hattempts⟩
    · exact ⟨{ sl with missedPolls := sl.missedPolls + 1 }, s.slots.put k { sl with missedPolls := sl.missedPolls + 1 },
        (slotUnanswered_read hk hn hstatus).trans (if_neg (Nat.not_lt.mpr hmissed)), Table.get_put_self _ _ _, hn, fun _ => rfl,
        (get_rewritten_freed hr k _).1⟩
    · exact ⟨sl, s.slots, (slotUnanswered_stop hk hn hstatus).trans (if_neg (Nat.not_lt.mpr hattempts)), hk, hn, fun _ => rfl,
        (get_freed hr k).1⟩
  subst hlum
  obtain ⟨htrigger, hslots, hqueued, -, -, ⟨l', hl', hleft⟩, -, -⟩ :=
    releaseResult_released (s := { s with slots := t }) ht hl
  rw [hslot]
  exact ⟨by rw [hslots]; exact hfreed, htrigger, ⟨l', hl', hleft.state⟩,
    hqueued.trans (congrArg (fun x => s.results ++ [x]) (hsame s))⟩

end

end Sys2Proof.Machine
end

section
/-! PROOFS. The third failure of a send ends the exchange unanswered (R19, R75, R90, R97, R101, R164, R165, R175). -/

namespace Sys2Proof.Machine

/-! ### The table takes the end -/

/-- The part in which an unanswered exchange has left its branch (R165). -/
def lineEnded (s : State) (b : Fin 8) : State :=
  { opened s with branches := s.branches.set b { s.branches[b] with inFlight := none } }

theorem exec_unanswered {s : State} {b : Fin 8} {f : InFlight} {c : Instr} (hop : s.phase = .operating)
    (hf : s.branches[b].inFlight = some f) (h3 : 3 ≤ f.sends) (hc : SendFailure b f c) :
    exec c s = .next (settle (issuerUnanswered f.exchange (tableUnanswered b f.exchange (lineEnded s b)))) :=
  exec_sendFailure hop hf h3 hc

/-- The record after an unanswered exchange (R19). -/
def Luminaire.unanswered (l : Luminaire) : Luminaire :=
  { l with lastExchange := some .unanswered, latches := { l.latches with noAnswer := true } }

section
variable {b : Fin 8} {e : Exchange} {n : Nat} {l : Luminaire} {s : State}

theorem tableUnanswered_some (he : e.luminaire = some n) (hl : s.luminaires.get n = some l) (hb : l.branch = b)
    (hnode : l.node = e.node) : tableUnanswered b e s =
      latchFault n .noAnswer true (putLum n (some { l with lastExchange := some .unanswered }) s) := by
  unfold tableUnanswered
  rw [tableTakes_some he hl hb hnode]
  dsimp only
  rw [modLum_some hl]

/-- The table takes an unanswered exchange (R19). -/
theorem tableUnanswered_record (he : e.luminaire = some n) (hl : s.luminaires.get n = some l) (hb : l.branch = b)
    (hnode : l.node = e.node) : RecordMoves n (some l.unanswered) s (tableUnanswered b e s) := by
  rw [tableUnanswered_some he hl hb hnode]
  exact (latchFault_moves .noAnswer true hl (recordMoves_putLum n { l with lastExchange := some .unanswered } s) rfl rfl
    rfl).1

/-- NO-ANSWER that was clear is told first (R20). -/
theorem tableUnanswered_notice (he : e.luminaire = some n) (hl : s.luminaires.get n = some l) (hb : l.branch = b)
    (hnode : l.node = e.node) (hclear : l.latches.noAnswer = false) (hmask : s.mask.getLsbD 0 = false)
    (hroom : s.outbox.length < 32) :
    (tableUnanswered b e s).outbox[s.outbox.length]? = some ⟨knownTime s, .faultLatched n .noAnswer⟩ := by
  let l1 : Luminaire := { l with lastExchange := some .unanswered }
  have hl1 : (putLum n (some l1) s).luminaires.get n = some l1 := (get_putLum n n l1 s).trans (if_pos rfl)
  have hput := (putLum_tables n (some l1) s).trans (putLum_tables n (some { l1 with latches := l1.latches.put true .noAnswer }) _)
  have hlatched : tableUnanswered b e s = writeItem (.luminaire n) (raise (.faultLatched n .noAnswer)
      (putLum n (some { l1 with latches := l1.latches.put true .noAnswer }) (putLum n (some l1) s))) := by
    rw [tableUnanswered_some he hl hb hnode]
    unfold latchFault setLatch
    rw [hl1]
    simp [l1, Latches.has, hclear]
  rw [hlatched]
  generalize putLum n (some { l1 with latches := l1.latches.put true .noAnswer }) (putLum n (some l1) s) = t at *
  unfold OnlyTables at hput
  have houtbox : t.outbox = s.outbox := by rw [hput]; rfl
  have htime : knownTime t = knownTime s := by rw [hput]; rfl
  have hfirst := notice_first (b := .faultLatched n .noAnswer) (t := t) (by rw [hput]; exact hmask)
    (by rw [houtbox]; exact hroom) (OutboxGrows.written (.luminaire n) _)
  rw [houtbox, htime] at hfirst
  exact hfirst

end

/-! ### The end reaches its issuer -/

theorem endService_kept (refused : Bool) (body : List Byte) (s : State) :
    (endService refused body s).luminaires = s.luminaires ∧ (endService refused body s).branches = s.branches ∧
      (endService refused body s).outbox = s.outbox := by
  unfold endService reply
  repeat' split
  all_goals exact ⟨rfl, rfl, rfl⟩

section
variable {n : Nat} {l : Luminaire} {e : Exchange} {s : State}

theorem checkUnanswered_eq (hn : e.luminaire = some n) (hl : s.luminaires.get n = some l) : checkUnanswered e s =
    writeItem (.luminaire n) (modLum n (fun x => x.withHoldOff s)
      (triggerPass { s with checkPending := s.checkPending.erase n })) := by
  unfold checkUnanswered checkEnds
  rw [hn, show (some n).filter s.luminaires.has = some n by simp [Option.filter, Table.has, hl]]

/-- An unanswered CHECK: the hold-off, the check-pending set, the trigger (R75). -/
theorem checkUnanswered_told (hn : e.luminaire = some n) (hl : s.luminaires.get n = some l) :
    EndTold n s (checkUnanswered e s) ∧ (∃ l' h, (checkUnanswered e s).luminaires.get n = some l' ∧ l'.holdOff = some h) ∧
      (checkUnanswered e s).checkPending = s.checkPending.erase n ∧ (checkUnanswered e s).trigger = true := by
  rw [checkUnanswered_eq hn hl]
  have hrecords := (modLum_only n (fun x => x.withHoldOff s) (triggerPass { s with checkPending := s.checkPending.erase n }))
  have hget (m : Nat) : (writeItem (.luminaire n) (modLum n (fun x => x.withHoldOff s)
      (triggerPass { s with checkPending := s.checkPending.erase n }))).luminaires.get m =
        if m = n then some (l.withHoldOff s) else s.luminaires.get m := by
    rw [writeItem_luminaires, get_modLum]
    by_cases hm : m = n
    · rw [if_pos hm, if_pos hm]
      exact congrArg (Option.map fun x => Luminaire.withHoldOff x s) hl
    · rw [if_neg hm, if_neg hm]
      rfl
  have hwrites := writeItem_only (.luminaire n) (modLum n (fun x => x.withHoldOff s)
    (triggerPass { s with checkPending := s.checkPending.erase n }))
  have hgrows : OutboxGrows s (writeItem (.luminaire n) (modLum n (fun x => x.withHoldOff s)
      (triggerPass { s with checkPending := s.checkPending.erase n }))) :=
    (OutboxGrows.trans (t := triggerPass { s with checkPending := s.checkPending.erase n }) (.same rfl)
      (.changed _ _ _)).trans (.written _ _)
  have htrigger : (modLum n (fun x => x.withHoldOff s)
      (triggerPass { s with checkPending := s.checkPending.erase n })).trigger = true := by
    rw [modLum_some (s := triggerPass { s with checkPending := s.checkPending.erase n }) hl]
    exact putLum_keeps_trigger _ _ (Bool.or_true _)
  generalize modLum n (fun x => x.withHoldOff s) (triggerPass { s with checkPending := s.checkPending.erase n }) = t at *
  unfold OnlyWrites at hwrites
  generalize writeItem (.luminaire n) t = u at *
  have hbranches : u.branches = s.branches := by
    rw [hwrites]
    exact hrecords.branches
  have hchecks : t.checkPending = s.checkPending.erase n := by
    unfold OnlyRecords at hrecords
    rw [hrecords]
    rfl
  refine ⟨⟨fun m hm => (hget m).trans (if_neg hm), fun x hx => ?_, fun a => by rw [hbranches], hgrows⟩,
    ⟨_, _, (hget n).trans (if_pos rfl), rfl⟩, by rw [hwrites]; exact hchecks, by rw [hwrites]; exact htrigger⟩
  obtain rfl := Option.some.inj (hl.symm.trans hx)
  exact ⟨_, (hget n).trans (if_pos rfl), rfl, rfl⟩

/-- What the issuer of an unanswered exchange makes of it, seen from the luminaire of the exchange (R165). -/
theorem issuerUnanswered_told (hn : e.luminaire = some n) (hl : s.luminaires.get n = some l) :
    (∃ l', (issuerUnanswered e s).luminaires.get n = some l' ∧ l'.lastExchange = l.lastExchange ∧
      l'.latches.noAnswer = l.latches.noAnswer ∧ (e.issuer = .placement → ∃ h, l'.holdOff = some h)) ∧
      (∀ a : Fin 8, (issuerUnanswered e s).branches[a].inFlight = s.branches[a].inFlight) ∧
      OutboxGrows s (issuerUnanswered e s) ∧
      ((∀ k m, e.issuer = .slot k m → m = n) → OnlyLuminaire n s (issuerUnanswered e s)) := by
  have same {u : State} (h : EndTold n s u) (hissuer : e.issuer ≠ .placement) :
      (∃ l', u.luminaires.get n = some l' ∧ l'.lastExchange = l.lastExchange ∧
        l'.latches.noAnswer = l.latches.noAnswer ∧ (e.issuer = .placement → ∃ h, l'.holdOff = some h)) ∧
        (∀ a : Fin 8, u.branches[a].inFlight = s.branches[a].inFlight) ∧ OutboxGrows s u ∧
        ((∀ k m, e.issuer = .slot k m → m = n) → OnlyLuminaire n s u) := by
    obtain ⟨l', hl', hexchange, hlatch⟩ := h.record l hl
    exact ⟨⟨l', hl', hexchange, hlatch, fun hp => absurd hp hissuer⟩, h.inFlight, h.grows, fun _ => h.others⟩
  unfold issuerUnanswered
  cases hissuer : e.issuer with
  | slot k m =>
    dsimp only
    have htold := slotUnanswered_told k m e.kind s
    by_cases hm : m = n
    · subst hm
      rw [hissuer] at same
      exact same htold (fun h => nomatch h)
    · exact ⟨⟨l, (htold.others n fun h => hm h.symm).trans hl, rfl, rfl, fun h => (nomatch h)⟩, htold.inFlight, htold.grows,
        fun h => absurd (h k m rfl) hm⟩
  | placement =>
    dsimp only
    obtain ⟨htold, ⟨l', h, hl', hheld⟩, -, -⟩ := checkUnanswered_told hn hl
    obtain ⟨l'', hl'', hexchange, hlatch⟩ := htold.record l hl
    obtain rfl := Option.some.inj (hl'.symm.trans hl'')
    exact ⟨⟨l', hl', hexchange, hlatch, fun _ => ⟨h, hheld⟩⟩, htold.inFlight, htold.grows, fun _ => htold.others⟩
  | host =>
    rw [hissuer] at same
    obtain ⟨hrecords, hbranches, houtbox⟩ := endService_kept false (flag false ++ u8 3) s
    exact same (.unmoved hrecords hbranches houtbox) (fun h => nomatch h)
  | _ =>
    rw [hissuer] at same
    exact same (.unmoved rfl rfl rfl) (fun h => nomatch h)

end

end Sys2Proof.Machine
end

section
/-! PROOFS. The obligation on exchanges that end unanswered (R19, R75, R90, R97, R101, R164, R165, R175). -/

namespace Sys2Proof.Machine

theorem endService_free {s : State} {sv : Service} (refused : Bool) (body : List Byte) (hservice : s.service = some sv)
    (hsend : s.sending = none) :
    endService refused body s = { s with service := none, sending := some ⟨refused, sv.tag, body⟩ } := by
  unfold endService
  rw [hservice]
  exact reply_free _ _ hsend

/-! ### Ends that no record takes -/

section
variable {s : State} {b : Fin 8} {f : InFlight} {c : Instr}

theorem exec_unanswered_unknown (hop : s.phase = .operating) (hf : s.branches[b].inFlight = some f) (h3 : 3 ≤ f.sends)
    (hc : SendFailure b f c) (h : NoRecordTakes b f.exchange s) :
    exec c s = .next (settle (issuerUnanswered f.exchange (lineEnded s b))) := by
  have htable : tableUnanswered b f.exchange (lineEnded s b) = lineEnded s b := tableUnanswered_none (s := lineEnded s b) h
  rw [exec_unanswered hop hf h3 hc, htable]

theorem unanswered_host {e : Exchange} {v : State} {sv : Service} (hi : e.issuer = .host) (hservice : v.service = some sv)
    (hsend : v.sending = none) : issuerUnanswered e v =
      { v with service := none, sending := some (doneReply sv.tag [0, 3]) } := by
  unfold issuerUnanswered
  rw [hi]
  exact endService_free false _ hservice hsend

theorem unanswered_check_unknown {e : Exchange} {v : State} {n : Nat} (hi : e.issuer = .placement) (hn : e.luminaire = some n)
    (hl : v.luminaires.get n = none) :
    issuerUnanswered e v = triggerPass { v with checkPending := v.checkPending.erase n } := by
  unfold issuerUnanswered checkUnanswered checkEnds
  rw [hi]
  dsimp only
  rw [hn, show (some n).filter v.luminaires.has = none by simp [Option.filter, Table.has, hl]]

theorem unanswered_alone {e : Exchange} (v : State) (hi : e.issuer = .stray ∨ e.issuer = .recall) :
    issuerUnanswered e v = v := by
  unfold issuerUnanswered
  rcases hi with hi | hi <;> rw [hi]

theorem endsUnknown (hop : s.phase = .operating) (hf : s.branches[b].inFlight = some f) (h3 : 3 ≤ f.sends)
    (hc : SendFailure b f c) (h : NoRecordTakes b f.exchange s) :
    (∀ sv, f.exchange.issuer = .host → s.service = some sv → s.sending = none →
      exec c s = .next { lineEnded s b with service := none, sending := some (doneReply sv.tag [0, 3]) }) ∧
    (f.exchange.issuer = .stray ∨ f.exchange.issuer = .recall → exec c s = .next (lineEnded s b)) ∧
    (∀ n, f.exchange.issuer = .placement → f.exchange.luminaire = some n → s.luminaires.get n = none →
      exec c s = .next (settle { lineEnded s b with checkPending := s.checkPending.erase n, trigger := true })) := by
  have hexec := exec_unanswered_unknown hop hf h3 hc h
  refine ⟨fun sv hi hservice hsend => ?_, fun hi => ?_, fun n hi hn hl => ?_⟩
  · rw [hexec, unanswered_host (v := lineEnded s b) hi hservice hsend, settle_of_no_trigger _ rfl]
    rfl
  · rw [hexec, unanswered_alone _ hi, settle_of_no_trigger _ rfl]
    rfl
  · rw [hexec, unanswered_check_unknown (v := lineEnded s b) hi hn hl]
    rfl

/-! ### Ends that a record takes -/

variable {n : Nat} {l : Luminaire}

/-- The state `v` from which an unanswered end reaches its issuer. -/
theorem exec_unanswered_told (hop : s.phase = .operating) (hf : s.branches[b].inFlight = some f) (h3 : 3 ≤ f.sends)
    (hc : SendFailure b f c) (he : f.exchange.luminaire = some n) (hl : s.luminaires.get n = some l) (hb : l.branch = b)
    (hnode : l.node = f.exchange.node) :
    ∃ v, exec c s = .next (settle (issuerUnanswered f.exchange v)) ∧ RecordMoves n (some l.unanswered) s v ∧
      OnlyRecords (lineEnded s b) v ∧ ExchangeEnded s (issuerUnanswered f.exchange v) ∧
      (f.exchange.issuer ≠ .placement → (issuerUnanswered f.exchange v).checkPending = s.checkPending) ∧
      (f.exchange.issuer ≠ .host → LinkKept s (issuerUnanswered f.exchange v)) ∧
      (l.latches.noAnswer = false → s.mask.getLsbD 0 = false → s.outbox.length < 32 →
        v.outbox[s.outbox.length]? = some ⟨knownTime s, .faultLatched n .noAnswer⟩) :=
  ⟨_, exec_unanswered hop hf h3 hc, (tableUnanswered_record (s := lineEnded s b) he hl hb hnode).of_base rfl rfl,
    tableUnanswered_only _ _ _, OnlyEnds.exchangeEnded (endUnanswered_only b f (opened s)),
    endUnanswered_checkPending b f (opened s), endUnanswered_linkKept b f (opened s),
    fun hclear hmask hroom => tableUnanswered_notice (s := lineEnded s b) he hl hb hnode hclear hmask hroom⟩

theorem issuerUnanswered_slot {e : Exchange} {k m : Nat} (v : State) (hi : e.issuer = .slot k m) :
    issuerUnanswered e v = slotUnanswered k m e.kind v := by
  unfold issuerUnanswered
  rw [hi]

theorem issuerUnanswered_check {e : Exchange} (v : State) (hi : e.issuer = .placement) :
    issuerUnanswered e v = checkUnanswered e v := by
  unfold issuerUnanswered
  rw [hi]

/-- The end of a slot's exchange that was its last (R97, R101). -/
theorem unanswered_released {e : Exchange} {v : State} {k : Nat} {sl : Slot} (honly : OnlyRecords (lineEnded s b) v)
    (hmoves : RecordMoves n (some l.unanswered) s v) (hi : e.issuer = .slot k n) (hr : s.slots.Rising)
    (hk : s.slots.get k = some sl) (hn : sl.luminaire = n)
    (h : (e.kind = .read ∧ sl.status = .running ∧ 3 ≤ sl.missedPolls + 1) ∨
      (e.kind = .stop ∧ sl.status = .closing ∧ 3 ≤ sl.stopAttempts)) :
    (issuerUnanswered e v).slots.get k = none ∧ (issuerUnanswered e v).trigger = true ∧
      (∃ l', (issuerUnanswered e v).luminaires.get n = some l' ∧ l'.state = stateWith l) ∧
      (issuerUnanswered e v).results =
        s.results ++ [resultOf s n l sl (sl.outcome.getD .lost) (minutesOf s sl) sl.endVoltage] := by
  have hslots : v.slots = s.slots := (records_slots honly :)
  have hresults : v.results = s.results := (honly.results :)
  have hminutes : minutesOf v sl = minutesOf s sl := by
    unfold minutesOf
    rw [elapsedNow_records honly]
    rfl
  have hcounter : v.resultCounter = s.resultCounter := by
    unfold OnlyRecords at honly
    rw [honly]
    rfl
  obtain ⟨hgone, htrigger, hrecord, hqueued⟩ :=
    slotUnanswered_released (hslots ▸ hr) (by rw [hslots]; exact hk) hn hmoves.1 h
  rw [issuerUnanswered_slot v hi]
  refine ⟨hgone, htrigger, hrecord, hqueued.trans ?_⟩
  rw [hresults, hminutes]
  exact congrArg (fun x => s.results ++ [x]) (resultOf_congr hcounter honly.sameClock.1 rfl rfl rfl rfl rfl)

/-- The end of a START that was never answered (R90, R92). -/
theorem unanswered_start {e : Exchange} {v : State} {k : Nat} {sl : Slot} (honly : OnlyRecords (lineEnded s b) v)
    (hmoves : RecordMoves n (some l.unanswered) s v) (hi : e.issuer = .slot k n) (hkind : e.kind = .start)
    (hr : s.slots.Rising) (hk : s.slots.get k = some sl) (hn : sl.luminaire = n) (hstatus : sl.status = .reserved) :
    (issuerUnanswered e v).slots.get k = none ∧ (issuerUnanswered e v).trigger = true ∧
      (issuerUnanswered e v).results = s.results ∧
      ∃ l', (issuerUnanswered e v).luminaires.get n = some l' ∧ l'.state = stateWithout s l ∧ l'.openMarker = false ∧
        l'.cancelPending = none ∧ l'.outAtRelease = false ∧ HeldOff s l l' := by
  have hslots : v.slots = s.slots := (records_slots honly :)
  have hclock : SameClock s v := (honly.sameClock :)
  have hkv : v.slots.get k = some sl := by rw [hslots]; exact hk
  have heq : issuerUnanswered e v = releaseHeldOff k v := by
    rw [issuerUnanswered_slot v hi, hkind, slotUnanswered_start hkv hn hstatus]
  obtain ⟨l', hl', hleft, hheld, -⟩ := releaseHeldOff_left hkv hn hmoves.1
  rw [heq]
  refine ⟨?_, releaseHeldOff_trigger k sl v hkv, (releaseHeldOff_results k sl v hkv).trans honly.results, l', hl',
    hleft.state.trans (stateWithout_same hclock _), hleft.openMarker, hleft.cancelPending, hleft.outAtRelease,
    HeldOff.same hclock hheld⟩
  rw [releaseHeldOff_slots k sl v hkv, hslots]
  exact (get_freed hr k).1

end

/-- Settles O44: the third failure ends the exchange: the record's end and latch, then what its issuer makes of it. -/
theorem aThirdFailureEndsUnanswered : Obligations.AThirdFailureEndsUnanswered := by
  unfold Obligations.AThirdFailureEndsUnanswered
  refine ⟨fun s b f c hop hf h3 hc h => endsUnknown hop hf h3 hc h,
    fun s b f n l c hop hf h3 hc he hl hb hnode => ?_⟩
  obtain ⟨v, hexec, hmoves, honly, hended, hchecks, hlink, hnotice⟩ := exec_unanswered_told hop hf h3 hc he hl hb hnode
  obtain ⟨⟨l', hl', hexchange, hlatch, hheld⟩, hflight, hgrows, hothers⟩ := issuerUnanswered_told he hmoves.1
  have hslots : v.slots = s.slots := (records_slots honly :)
  have hinFlight : v.branches[b].inFlight = none := by
    rw [show v.branches[b] = (lineEnded s b).branches[b] by rw [honly.branches],
      show (lineEnded s b).branches[b] = _ from Vector.getElem_set_self _]
  refine ⟨_, hexec, (hflight b).trans hinFlight, hended, hchecks, hlink,
    fun hown m hm => (hothers hown m hm).trans (hmoves.2.1 m hm), ⟨l', hl', hexchange, hlatch, hheld⟩,
    fun hclear hmask hroom => hgrows.getElem? (hnotice hclear hmask hroom), fun hi => ?_,
    fun k sl hi hkind hk hn hstatus hmissed => ?_,
    fun k sl hi hr hk hn h => unanswered_released honly hmoves hi hr hk hn h,
    fun k sl hi hkind hk hn hstatus hattempts => ?_,
    fun k sl hi hkind hr hk hn hstatus => unanswered_start honly hmoves hi hkind hr hk hn hstatus,
    fun sv hi hservice hsend => ?_⟩
  · obtain ⟨-, -, herased, htrigger⟩ := checkUnanswered_told he hmoves.1
    rw [issuerUnanswered_check v hi]
    refine ⟨herased.trans (congrArg (fun xs => List.erase xs n) ?_), htrigger⟩
    unfold OnlyRecords at honly
    rw [honly]
    rfl
  · rw [issuerUnanswered_slot v hi, hkind, slotUnanswered_read (by rw [hslots]; exact hk) hn hstatus]
    exact (congrArg (fun u : State => u.slots.get k) (if_pos hmissed)).trans (Table.get_put_self _ _ _)
  · rw [issuerUnanswered_slot v hi, hkind, slotUnanswered_stop (by rw [hslots]; exact hk) hn hstatus]
    refine (congrArg (fun u : State => u.slots.get k) (if_pos hattempts)).trans ((Table.get_put_self _ _ _).trans ?_)
    unfold OnlyRecords at honly
    rw [honly]
    rfl
  · unfold OnlyRecords at honly
    rw [unanswered_host hi (by rw [honly]; exact hservice) (by rw [honly]; exact hsend)]
    exact ⟨rfl, rfl⟩

end Sys2Proof.Machine
end

section
/-! PROOFS. What becomes of the slots on a branch that leaves READY (R168 to R170). -/

namespace Sys2Proof.Machine

/-! ### The clock of a test -/

/-- Campus time, time quality, parameters and the own count are the same. -/
structure SameRun (s t : State) : Prop where
  clock : SameClock s t
  ownCount : t.ownCount = s.ownCount

theorem OnlyTests.sameRun {s t : State} (h : OnlyTests s t) : SameRun s t := by
  unfold OnlyTests at h
  rw [h]
  exact ⟨⟨rfl, rfl, rfl⟩, rfl⟩

theorem minutesOf_same {s t : State} (h : t.ownCount = s.ownCount) (sl : Slot) : minutesOf t sl = minutesOf s sl := by
  unfold minutesOf elapsedNow
  rw [h]

/-! ### One slot -/

/-- What the release of slot contents `sl` as their branch leaves READY makes of the record (R169, R170). -/
structure LostLeft (s : State) (sl : Slot) (l l' : Luminaire) : Prop where
  openMarker : l'.openMarker = false
  cancelPending : l'.cancelPending = none
  outAtRelease : l'.outAtRelease = false
  result : sl.status ≠ .reserved → l'.state = stateWith l ∧
    l'.lastResult = some ⟨sl.outcome.getD .lost, s.campus, minutesOf s sl, sl.endVoltage⟩
  without : sl.status = .reserved → l'.state = stateWithout s l ∧ l'.due = l.due ∧ l'.latches = l.latches ∧ HeldOff s l l'

theorem LostLeft.same {s t : State} {sl : Slot} {l l' : Luminaire} (h : SameRun s t) (hleft : LostLeft t sl l l') :
    LostLeft s sl l l' where
  openMarker := hleft.openMarker
  cancelPending := hleft.cancelPending
  outAtRelease := hleft.outAtRelease
  result := fun hs => by
    obtain ⟨hstate, hlast⟩ := hleft.result hs
    rw [h.clock.1, minutesOf_same h.ownCount] at hlast
    exact ⟨hstate, hlast⟩
  without := fun hs => by
    obtain ⟨hstate, hdue, hlatches, hheld⟩ := hleft.without hs
    exact ⟨hstate.trans (stateWithout_same h.clock l), hdue, hlatches, hheld.same h.clock⟩

/-- What a result record tells of a release at which nothing else is compared (R110, R169). -/
def lostTold (s : State) (sl : Slot) : Nat × TestOutcome × Option Nat := (sl.luminaire, sl.outcome.getD .lost, some s.campus)

/-- The part of a result record that such a release is known by. -/
def ResultRecord.told (r : ResultRecord) : Nat × TestOutcome × Option Nat := (r.luminaire, r.outcome, r.endTime)

section
variable {k : Nat} {sl : Slot} {s : State}

theorem releaseLost_reserved (hk : s.slots.get k = some sl) (hstatus : sl.status = .reserved) :
    releaseLost k s = releaseHeldOff k s := by
  unfold releaseLost
  rw [hk]
  exact if_pos hstatus

theorem releaseLost_result (hk : s.slots.get k = some sl) (hstatus : sl.status ≠ .reserved) :
    releaseLost k s = releaseResult k s := by
  unfold releaseLost
  rw [hk]
  exact if_neg hstatus

theorem releaseLost_none (hk : s.slots.get k = none) : releaseLost k s = s := by
  unfold releaseLost
  rw [hk]

theorem releaseLost_branches (hk : s.slots.get k = some sl) : (releaseLost k s).branches = (freeSlot k sl s).branches := by
  by_cases hstatus : sl.status = .reserved
  · rw [releaseLost_reserved hk hstatus, releaseHeldOff_branches hk]
  · rw [releaseLost_result hk hstatus]
    cases hl : s.luminaires.get sl.luminaire with
    | none =>
      rw [releaseResult_orphan hk hl]
      exact freeSlot_branches_congr rfl (fix_branch _ _ _) (fix_luminaire _ _ _)
    | some l => exact releaseResult_branches hk hl

theorem releaseLost_grows (k : Nat) (s : State) : OutboxGrows s (releaseLost k s) := by
  unfold releaseLost
  split
  · exact .refl s
  · split
    · exact releaseHeldOff_grows k s
    · exact releaseResult_grows k s

/-- The release of one slot of such a branch (R169, R170). -/
theorem releaseLost_left {l : Luminaire} (hk : s.slots.get k = some sl) (hl : s.luminaires.get sl.luminaire = some l) :
    (∃ l', (releaseLost k s).luminaires.get sl.luminaire = some l' ∧ LostLeft s sl l l') ∧
      OnlyLuminaire sl.luminaire s (releaseLost k s) ∧ (releaseLost k s).trigger = true ∧
      (releaseLost k s).results.map ResultRecord.told =
        s.results.map ResultRecord.told ++ if sl.status = .reserved then [] else [lostTold s sl] := by
  by_cases hstatus : sl.status = .reserved
  · obtain ⟨l', hl', hleft, hheld, hothers⟩ := releaseHeldOff_left hk rfl hl
    rw [releaseLost_reserved hk hstatus, if_pos hstatus, List.append_nil, releaseHeldOff_results k sl s hk]
    exact ⟨⟨l', hl', hleft.openMarker, hleft.cancelPending, hleft.outAtRelease, fun h => absurd hstatus h,
      fun _ => ⟨hleft.state, hleft.due, hleft.latches, hheld⟩⟩, hothers, releaseHeldOff_trigger k sl s hk, rfl⟩
  · obtain ⟨htrigger, -, hqueued, -, -, ⟨l', hl', hleft⟩, hothers, -⟩ := releaseResult_released hk hl
    rw [releaseLost_result hk hstatus, if_neg hstatus, hqueued, List.map_append]
    exact ⟨⟨l', hl', hleft.openMarker, hleft.cancelPending, hleft.outAtRelease, fun _ => ⟨hleft.state, hleft.lastResult⟩,
      fun h => absurd h hstatus⟩, hothers, htrigger, rfl⟩

end

/-! ### All the slots of a branch -/

/-- The slots of the list `ks` are released, one after the other. -/
def releasedAll (ks : List Nat) (s : State) : State := ks.foldl (fun u k => releaseLost k u) s

theorem releasedAll_tests (ks : List Nat) (s : State) : OnlyTests s (releasedAll ks s) :=
  foldl_only OnlyTests.rfl' OnlyTests.trans (fun u k => releaseLost_only k u) ks s

theorem releasedAll_grows (ks : List Nat) (s : State) : OutboxGrows s (releasedAll ks s) :=
  foldl_only OutboxGrows.refl (fun h1 h2 => h1.trans h2) (fun u k => releaseLost_grows k u) ks s

theorem get_releaseLost_other {j k : Nat} (h : j ≠ k) (s : State) :
    (releaseLost k s).slots.get j = s.slots.get j := by
  rw [releaseLost_slots]
  exact Table.get_drop_other _ h

theorem get_releasedAll_other {j : Nat} {ks : List Nat} (h : j ∉ ks) (s : State) :
    (releasedAll ks s).slots.get j = s.slots.get j := by
  induction ks generalizing s with
  | nil => rfl
  | cons k ks ih =>
    obtain ⟨hk, hks⟩ := not_or.mp (mt List.mem_cons.mpr h)
    exact (ih hks (releaseLost k s)).trans (get_releaseLost_other hk s)

theorem get_releasedAll {j : Nat} {ks : List Nat} (hr : s.slots.Rising) (h : j ∈ ks) :
    (releasedAll ks s).slots.get j = none := by
  have hslots : (releasedAll ks s).slots = _ := releasedAll_slots ks s
  obtain ⟨hrising, hmem⟩ := dropAll_spec ks hr
  rw [hslots]
  cases hget : Table.get (ks.foldl (fun t k => Table.drop t k) s.slots) j with
  | none => rfl
  | some sl => exact absurd h (hmem _ (Table.mem_of_get hget)).2

theorem rising_releaseLost {s : State} (hr : s.slots.Rising) (k : Nat) : (releaseLost k s).slots.Rising := by
  rw [releaseLost_slots]
  exact Table.rising_drop hr k

/-- Slots released on a branch whose queue is empty leave the lines as they were. -/
theorem releasedAll_branches {b : Fin 8} {ks : List Nat} {s : State} (hr : s.slots.Rising) (hqueue : s.branches[b].queue = [])
    (hks : ∀ k ∈ ks, ∀ sl, s.slots.get k = some sl → sl.branch = b) : (releasedAll ks s).branches = s.branches := by
  induction ks generalizing s with
  | nil => rfl
  | cons k ks ih =>
    have hone : (releaseLost k s).branches = s.branches := by
      cases hk : s.slots.get k with
      | none => rw [releaseLost_none hk]
      | some sl =>
        have hb := hks k List.mem_cons_self sl hk
        rw [releaseLost_branches hk]
        refine (branches_set_ext (x := s.branches[b]) ?_ fun a ha => freeSlot_branch_other k sl s (hb ▸ ha)).trans
          (Vector.set_getElem_self _)
        rw [freeSlot_branch k sl s hb, hqueue]
        exact congrArg (fun q => ({ s.branches[b] with queue := q } : Branch)) hqueue.symm
    have hqueue' : (releaseLost k s).branches[b].queue = [] := by
      rw [show (releaseLost k s).branches[b] = s.branches[b] by rw [hone]]
      exact hqueue
    refine (ih (rising_releaseLost hr k) hqueue' fun j hj sl hsl => ?_).trans hone
    rw [releaseLost_slots, get_drop hr] at hsl
    split at hsl
    · cases hsl
    · exact hks j (List.mem_cons_of_mem _ hj) sl hsl

/-- What the releases of the slots `ps` on one branch come to (R169, R170). -/
structure AllLost (ps : List (Nat × Slot)) (s u : State) : Prop where
  records : ∀ p ∈ ps, ∀ l, s.luminaires.get p.2.luminaire = some l →
    ∃ l', u.luminaires.get p.2.luminaire = some l' ∧ LostLeft s p.2 l l'
  others : ∀ n, (∀ p ∈ ps, p.2.luminaire ≠ n) → u.luminaires.get n = s.luminaires.get n
  results : u.results.map ResultRecord.told = s.results.map ResultRecord.told ++
    (ps.filter fun p => p.2.status != .reserved).map fun p => lostTold s p.2
  trigger : ps ≠ [] → u.trigger = true

theorem lostTold_same {s t : State} (h : SameRun s t) (sl : Slot) : lostTold t sl = lostTold s sl := by
  unfold lostTold
  rw [h.clock.1]

theorem releasedAll_lost (ps : List (Nat × Slot)) {s : State} (hr : s.slots.Rising)
    (hslots : ∀ p ∈ ps, s.slots.get p.1 = some p.2) (hkeys : (ps.map Prod.fst).Nodup)
    (hlums : (ps.map fun p => p.2.luminaire).Nodup) (hrecords : ∀ p ∈ ps, ∃ l, s.luminaires.get p.2.luminaire = some l) :
    AllLost ps s (releasedAll (ps.map Prod.fst) s) := by
  induction ps generalizing s with
  | nil => exact ⟨fun _ h => (nomatch h), fun _ _ => rfl, (List.append_nil _).symm, fun h => absurd rfl h⟩
  | cons p ps ih =>
    obtain ⟨hkey, hkeys'⟩ := List.nodup_cons.mp hkeys
    obtain ⟨hlum, hlums'⟩ := List.nodup_cons.mp hlums
    obtain ⟨l, hl⟩ := hrecords p List.mem_cons_self
    obtain ⟨⟨l', hl', hleft⟩, hothers, htrigger, hresults⟩ := releaseLost_left (hslots p List.mem_cons_self) hl
    have hrun : SameRun s (releaseLost p.1 s) := (releaseLost_only p.1 s).sameRun
    have hkept (q : Nat × Slot) (hq : q ∈ ps) : (releaseLost p.1 s).luminaires.get q.2.luminaire =
        s.luminaires.get q.2.luminaire :=
      hothers q.2.luminaire fun h => hlum (List.mem_map.mpr ⟨q, hq, h⟩)
    have hrest := ih (s := releaseLost p.1 s) (rising_releaseLost hr p.1)
      (fun q hq => (get_releaseLost_other (fun h => hkey (List.mem_map.mpr ⟨q, hq, h⟩)) s).trans
        (hslots q (List.mem_cons_of_mem _ hq))) hkeys' hlums'
      (fun q hq => by rw [hkept q hq]; exact hrecords q (List.mem_cons_of_mem _ hq))
    have hall : releasedAll ((p :: ps).map Prod.fst) s = releasedAll (ps.map Prod.fst) (releaseLost p.1 s) := rfl
    rw [hall]
    refine ⟨fun q hq x hx => ?_, fun n hn => ?_, ?_, fun _ => ?_⟩
    · rcases List.mem_cons.mp hq with rfl | hq
      · obtain rfl := Option.some.inj (hl.symm.trans hx)
        exact ⟨l', (hrest.others _ fun q' hq' h => hlum (List.mem_map.mpr ⟨q', hq', h⟩)).trans hl', hleft⟩
      · obtain ⟨x', hx', hleft'⟩ := hrest.records q hq x ((hkept q hq).trans hx)
        exact ⟨x', hx', hleft'.same hrun⟩
    · exact (hrest.others n fun q hq => hn q (List.mem_cons_of_mem _ hq)).trans
        (hothers n fun h => hn p List.mem_cons_self h.symm)
    · rw [hrest.results, hresults, List.append_assoc]
      refine congrArg (s.results.map ResultRecord.told ++ ·) ?_
      simp only [lostTold_same hrun]
      by_cases hstatus : p.2.status = .reserved
      · rw [if_pos hstatus, List.nil_append, List.filter_cons_of_neg (by simp [hstatus])]
      · rw [if_neg hstatus, List.filter_cons_of_pos (by simp [hstatus])]
        rfl
    · by_cases hnil : ps = []
      · rw [hnil]
        exact htrigger
      · exact hrest.trigger hnil

end Sys2Proof.Machine
end

section
/-! PROOFS. A branch leaves READY or DIRECT: its exchanges, its slots and its state (R168 to R170). -/

namespace Sys2Proof.Machine

/-! ### The flush -/

/-- Only the check-pending set and the host link differ, as after exchanges removed (R165, R168). -/
def OnlyRemoved (s t : State) : Prop :=
  t = { s with checkPending := t.checkPending, service := t.service, sending := t.sending, ready := t.ready }

theorem OnlyRemoved.refl (s : State) : OnlyRemoved s s := rfl

theorem OnlyRemoved.trans {s t u : State} (h1 : OnlyRemoved s t) (h2 : OnlyRemoved t u) : OnlyRemoved s u := by
  unfold OnlyRemoved at h1 h2
  rw [h1] at h2
  exact h2

theorem removeAll_removed (code : Byte) (es : List Exchange) (s : State) : OnlyRemoved s (removeAll code es s) :=
  foldl_only OnlyRemoved.refl OnlyRemoved.trans (fun u e => issuerRemoved_eq code e u) es s

/-- Branch `b` is in state `st` and nothing is queued or in flight on it; its slots still stand. -/
def emptied (b : Fin 8) (st : BranchState) (s : State) : State := flush b (modBranch b (fun br => { br with state := st }) s)

theorem emptied_removed (b : Fin 8) (st : BranchState) (s : State) :
    OnlyRemoved (modBranch b (fun br => br.left st) s) (emptied b st s) := by
  unfold emptied flush
  simp only [modBranch_modBranch]
  exact removeAll_removed _ _ _

theorem leaveReady_eq (b : Fin 8) (st : BranchState) (s : State) :
    leaveReady b st s = releasedAll (slotsOn (emptied b st s) b) (emptied b st s) := rfl

section
variable (b : Fin 8) (st : BranchState) (s : State)

theorem emptied_slots : (emptied b st s).slots = s.slots := by
  have h := emptied_removed b st s
  unfold OnlyRemoved at h
  rw [h]
  rfl

theorem emptied_branches : (emptied b st s).branches = s.branches.set b (s.branches[b].left st) := by
  have h := emptied_removed b st s
  unfold OnlyRemoved at h
  rw [h]
  rfl

theorem leaveReady_grows : OutboxGrows s (leaveReady b st s) := by
  have h := emptied_removed b st s
  unfold OnlyRemoved at h
  rw [leaveReady_eq]
  refine OutboxGrows.trans (.same ?_) (releasedAll_grows _ _)
  rw [h]
  rfl

end

/-! ### The slots on the branch -/

/-- The occupied slots on branch `b`, ascending. -/
def slotsAt (s : State) (b : Fin 8) : List (Nat × Slot) := s.slots.filter fun p => p.2.branch == b

section
variable {b : Fin 8} {s : State}

theorem slotsOn_eq (s : State) (b : Fin 8) : slotsOn s b = (slotsAt s b).map Prod.fst := rfl

theorem slotsAt_congr {s t : State} (h : t.slots = s.slots) (b : Fin 8) : slotsAt t b = slotsAt s b := by
  unfold slotsAt
  rw [h]

theorem mem_slotsAt {p : Nat × Slot} : p ∈ slotsAt s b ↔ p ∈ s.slots ∧ p.2.branch = b := by
  unfold slotsAt
  rw [List.mem_filter, beq_iff_eq]

theorem get_slotsAt (hr : s.slots.Rising) {p : Nat × Slot} (hp : p ∈ slotsAt s b) :
    s.slots.get p.1 = some p.2 ∧ p.2.branch = b := by
  obtain ⟨hin, hb⟩ := mem_slotsAt.mp hp
  exact ⟨Table.get_of_mem hr hin, hb⟩

theorem slotsAt_of_get {k : Nat} {sl : Slot} (hk : s.slots.get k = some sl) (hb : sl.branch = b) : (k, sl) ∈ slotsAt s b :=
  mem_slotsAt.mpr ⟨Table.mem_of_get hk, hb⟩

theorem branch_of_mem_slotsOn (hr : s.slots.Rising) {k : Nat} {sl : Slot} (hin : k ∈ slotsOn s b)
    (hk : s.slots.get k = some sl) : sl.branch = b := by
  obtain ⟨p, hp, rfl⟩ := List.mem_map.mp hin
  obtain ⟨hget, hb⟩ := get_slotsAt hr hp
  obtain rfl := Option.some.inj (hk.symm.trans hget)
  exact hb

theorem slotsAt_keys (hr : s.slots.Rising) : ((slotsAt s b).map Prod.fst).Nodup :=
  (hr.imp Nat.ne_of_lt).sublist (List.filter_sublist.map _)

theorem slotsAt_luminaires (hsound : SlotsSound s) : ((slotsAt s b).map fun p => p.2.luminaire).Nodup :=
  hsound.2.1.sublist (List.filter_sublist.map _)

theorem slotsAt_record (hsound : SlotsSound s) {p : Nat × Slot} (hp : p ∈ slotsAt s b) :
    ∃ l, s.luminaires.get p.2.luminaire = some l := by
  have hany := hsound.1 p (mem_slotsAt.mp hp).1
  cases hl : s.luminaires.get p.2.luminaire with
  | none =>
    rw [hl] at hany
    cases hany
  | some l => exact ⟨l, rfl⟩

/-- All slots on a branch released make up what R169 and R170 ask for. -/
theorem AllLost.slotsReleased {s t u : State} (hr : s.slots.Rising) (h : AllLost (slotsAt s b) t u)
    (hslots : ∀ k ∈ slotsOn s b, u.slots.get k = none) (hrecords : t.luminaires = s.luminaires)
    (hresults : t.results = s.results) (hrun : SameRun s t) : SlotsReleased b s u := by
  refine ⟨fun k sl l hk hb hl => ?_, fun n hn => ?_, ?_⟩
  · have hin := slotsAt_of_get hk hb
    obtain ⟨l', hl', hleft⟩ := h.records _ hin l (by rw [hrecords]; exact hl)
    obtain ⟨hopen, hcancel, hout, hresult, hwithout⟩ := hleft.same hrun
    exact ⟨hslots k (List.mem_map.mpr ⟨_, hin, rfl⟩), l', hl', hopen, hcancel, hout, hresult, hwithout⟩
  · rw [← hrecords]
    refine h.others n fun p hp => ?_
    obtain ⟨hget, hb⟩ := get_slotsAt hr hp
    exact hn p.1 p.2 hget hb
  · refine h.results.trans ?_
    rw [hresults]
    refine congrArg (s.results.map ResultRecord.told ++ ·) ?_
    unfold slotsAt
    rw [List.filter_filter]
    simp only [Bool.and_comm (x := _ != _), lostTold_same hrun]
    rfl

end

/-! ### The branch has left -/

/-- Branch `b` has left READY or DIRECT for `st` (R168 to R170). -/
structure HasLeft (b : Fin 8) (st : BranchState) (s u : State) : Prop where
  branches : u.branches = s.branches.set b (s.branches[b].left st)
  free : occupiedOn u b = 0
  elsewhere : ∀ k sl, s.slots.get k = some sl → sl.branch ≠ b → u.slots.get k = some sl
  checks : ChecksRemoved b s u
  link : s.service = none ∨ (∀ e ∈ exchangesOn s b, e.issuer ≠ .host) → LinkKept s u
  host : ∀ sv e, s.service = some sv → s.sending = none → e ∈ exchangesOn s b → e.issuer = .host →
    u.service = none ∧ u.ready = s.ready ∧ u.sending = some ⟨true, sv.tag, [Reason.state.code, st.code]⟩
  released : SlotsSound s → SlotsReleased b s u ∧ (occupiedOn s b ≠ 0 → u.trigger = true)

section
variable {b : Fin 8} {s : State} (st : BranchState)

theorem leaveReady_branches (hr : s.slots.Rising) :
    (leaveReady b st s).branches = s.branches.set b (s.branches[b].left st) := by
  have hslots := emptied_slots b st s
  have hbranches := emptied_branches b st s
  rw [leaveReady_eq, releasedAll_branches (b := b) (by rw [hslots]; exact hr)
    (by simp only [hbranches, Fin.getElem_fin, Vector.getElem_set_self]; rfl) ?_, hbranches]
  intro k hk sl hsl
  rw [slotsOn_eq, slotsAt_congr hslots, ← slotsOn_eq] at hk
  rw [hslots] at hsl
  exact branch_of_mem_slotsOn hr hk hsl

theorem leaveReady_elsewhere (hr : s.slots.Rising) {k : Nat} {sl : Slot} (hk : s.slots.get k = some sl) (hb : sl.branch ≠ b) :
    (leaveReady b st s).slots.get k = some sl := by
  have hslots := emptied_slots b st s
  rw [leaveReady_eq, get_releasedAll_other ?_, hslots, hk]
  intro hin
  rw [slotsOn_eq, slotsAt_congr hslots, ← slotsOn_eq] at hin
  exact hb (branch_of_mem_slotsOn hr hin hk)

theorem leaveReady_checks (b : Fin 8) (st : BranchState) (s : State) : ChecksRemoved b s (leaveReady b st s) := by
  obtain ⟨t, hpending, -, hremoved, -⟩ := leaveReady_removes b st s
  intro n
  rw [hremoved, removeAll_count, hpending]

theorem leaveReady_linkKept (h : s.service = none ∨ ∀ e ∈ exchangesOn s b, e.issuer ≠ .host) :
    LinkKept s (leaveReady b st s) := by
  obtain ⟨t, -, hlink, -, hleft⟩ := leaveReady_removes b st s
  exact (hlink.trans (removeAll_linkKept _ _ t (h.imp_left hlink.1.trans))).trans hleft

theorem leaveReady_host {sv : Service} {e : Exchange} (hs : s.service = some sv) (hfree : s.sending = none)
    (he : e ∈ exchangesOn s b) (hi : e.issuer = .host) :
    (leaveReady b st s).service = none ∧ (leaveReady b st s).ready = s.ready ∧
      (leaveReady b st s).sending = some ⟨true, sv.tag, [Reason.state.code, st.code]⟩ := by
  obtain ⟨t, -, ⟨hservice, hsending, hready⟩, -, ⟨hservice', hsending', hready'⟩⟩ := leaveReady_removes b st s
  obtain ⟨hover, hkept, hreply⟩ := removeAll_host st.code _ t sv e (hservice.trans hs) (hsending.trans hfree) he hi
  exact ⟨hservice'.trans hover, (hready'.trans hkept).trans hready, hsending'.trans hreply⟩

theorem leaveReady_slotsReleased (hr : s.slots.Rising) (hsound : SlotsSound s) :
    SlotsReleased b s (leaveReady b st s) ∧ (occupiedOn s b ≠ 0 → (leaveReady b st s).trigger = true) := by
  have hslots := emptied_slots b st s
  have hremoved := emptied_removed b st s
  unfold OnlyRemoved at hremoved
  have hrecords : (emptied b st s).luminaires = s.luminaires := by rw [hremoved]; rfl
  have hr' : (emptied b st s).slots.Rising := by rw [hslots]; exact hr
  have hon : slotsOn (emptied b st s) b = (slotsAt s b).map Prod.fst := by rw [slotsOn_eq, slotsAt_congr hslots]
  have hall : AllLost (slotsAt s b) (emptied b st s) (leaveReady b st s) := by
    rw [leaveReady_eq, hon]
    exact releasedAll_lost _ hr' (fun p hp => by rw [hslots]; exact (get_slotsAt hr hp).1) (slotsAt_keys hr)
      (slotsAt_luminaires hsound) fun p hp => by rw [hrecords]; exact slotsAt_record hsound hp
  refine ⟨hall.slotsReleased hr (fun k hk => ?_) hrecords (by rw [hremoved]; rfl)
    (by rw [hremoved]; exact ⟨⟨rfl, rfl, rfl⟩, rfl⟩), fun hocc => hall.trigger fun hnil => ?_⟩
  · rw [leaveReady_eq]
    exact get_releasedAll hr' (by rw [hon]; exact hk)
  · refine hocc ?_
    unfold occupiedOn
    exact congrArg List.length hnil

theorem leaveReady_left (b : Fin 8) (hr : s.slots.Rising) : HasLeft b st s (leaveReady b st s) where
  branches := leaveReady_branches st hr
  free := leaveReady_frees b st s hr
  elsewhere := fun _ _ => leaveReady_elsewhere st hr
  checks := leaveReady_checks b st s
  link := leaveReady_linkKept st
  host := fun _ _ => leaveReady_host st
  released := leaveReady_slotsReleased st hr

end

end Sys2Proof.Machine
end

section
/-! PROOFS. Chatter (R166, R167). -/

namespace Sys2Proof.Machine

theorem works_iff {st : BranchState} : st.works = true ↔ st = .ready ∨ st = .direct := by cases st <;> decide

theorem not_works_iff {st : BranchState} : st.works = false ↔ st = .off ∨ st = .faulted := by cases st <;> decide

/-- The event is counted on branch `b`. -/
def counted (b : Fin 8) (s : State) : State :=
  modBranch b (fun br => { br with chatter := min (br.chatter + 1) 255 }) (opened s)

/-- The event is counted, and at 8 the notice is raised. -/
def chattered (b : Fin 8) (s : State) : State :=
  if s.branches[b].chatter + 1 = 8 then
    raise (.chatter b (min (s.branches[b].chatter + 1) 255) s.params.autoDisable[b]) (counted b s)
  else counted b s

section
variable {b : Fin 8} {s : State}

theorem chatterHappens_stopped (h : s.branches[b].state.works = false) : chatterHappens b s = s :=
  if_neg (ne_true_of_eq_false h)

theorem chatterHappens_eq (h : s.branches[b].state.works = true) :
    chatterHappens b (opened s) =
      if 8 ≤ min (s.branches[b].chatter + 1) 255 ∧ s.params.autoDisable[b] = true then
        leaveReady b .faulted (chattered b s)
      else chattered b s :=
  if_pos h

theorem chattered_seven (h : s.branches[b].chatter = 7) :
    chattered b s = raise (.chatter b 8 s.params.autoDisable[b]) (counted b s) := by
  unfold chattered
  rw [h]
  rfl

theorem chattered_other (h : s.branches[b].chatter ≠ 7) : chattered b s = counted b s :=
  if_neg fun hsum => h (Nat.succ.inj hsum)

theorem chattered_only (b : Fin 8) (s : State) : OnlyNotices (counted b s) (chattered b s) := by
  unfold chattered
  split
  · exact raise_only _ _
  · rfl

theorem chattered_trigger (b : Fin 8) (s : State) : (chattered b s).trigger = false := by
  have honly := chattered_only b s
  unfold OnlyNotices at honly
  rw [honly]
  rfl

theorem chatterHappens_ended (b : Fin 8) (s : State) : ExchangeEnded s (chatterHappens b (opened s)) :=
  (chatterHappens_only b (opened s)).exchangeEnded

theorem chatterHappens_grows (h : s.branches[b].state.works = true) :
    OutboxGrows (chattered b s) (chatterHappens b (opened s)) := by
  rw [chatterHappens_eq h]
  split
  · exact leaveReady_grows _ _ _
  · exact .refl _

/-- The notice at 8 stands in the outbox (R167). -/
theorem chatterHappens_notice (h : s.branches[b].state.works = true) (hseven : s.branches[b].chatter = 7)
    (hmask : s.mask.getLsbD 17 = false) (hroom : s.outbox.length < 32) :
    (chatterHappens b (opened s)).outbox[s.outbox.length]? =
      some ⟨if s.quality = .unset then none else some s.campus, .chatter b 8 s.params.autoDisable[b]⟩ := by
  have hgrows := chatterHappens_grows h
  rw [chattered_seven hseven] at hgrows
  exact notice_first (t := counted b s) hmask hroom hgrows

theorem counted_branches (b : Fin 8) (s : State) :
    (counted b s).branches = s.branches.set b { s.branches[b] with chatter := min (s.branches[b].chatter + 1) 255 } := rfl

theorem exchangesOn_counted (b : Fin 8) (s : State) : exchangesOn (counted b s) b = exchangesOn s b := by
  unfold exchangesOn
  rw [counted_branches]
  simp only [Fin.getElem_fin, Vector.getElem_set_self]

/-- The branch goes FAULTED after the event: it has left as seen from before it. -/
theorem chattered_left {u : State} (h : HasLeft b .faulted (chattered b s) u) :
    u.branches[b] = { s.branches[b] with
        state := .faulted, chatter := min (s.branches[b].chatter + 1) 255, queue := [], inFlight := none } ∧
      (∀ a : Fin 8, a ≠ b → u.branches[a] = s.branches[a]) ∧ ChecksRemoved b s u ∧
      (s.service = none ∨ (∀ e ∈ exchangesOn s b, e.issuer ≠ .host) → LinkKept s u) ∧
      (∀ sv e, s.service = some sv → s.sending = none → e ∈ exchangesOn s b → e.issuer = .host →
        u.service = none ∧ u.ready = s.ready ∧
          u.sending = some ⟨true, sv.tag, [Reason.state.code, BranchState.faulted.code]⟩) ∧
      (SlotsSound s → SlotsReleased b s u ∧ (occupiedOn s b ≠ 0 → u.trigger = true)) ∧
      ∀ k sl, s.slots.get k = some sl → sl.branch ≠ b → u.slots.get k = some sl := by
  have honly := chattered_only b s
  unfold OnlyNotices at honly
  have hbranches : (chattered b s).branches = (counted b s).branches := by rw [honly]
  have hexchanges : exchangesOn (chattered b s) b = exchangesOn s b := by
    rw [← exchangesOn_counted b s]
    unfold exchangesOn
    rw [hbranches]
  obtain ⟨hat, -, hslots, hchecks, hlink, hhost, hreleased⟩ := h
  rw [hbranches, counted_branches] at hat
  unfold ChecksRemoved at hchecks
  rw [hexchanges] at hchecks hlink hhost
  rw [honly] at hslots hchecks hlink hhost hreleased
  refine ⟨?_, fun a ha => ?_, hchecks, hlink, hhost, hreleased, hslots⟩
  · rw [hat]
    simp only [Fin.getElem_fin, Vector.getElem_set_self]
    rfl
  · rw [hat]
    have hne : b.val ≠ a.val := fun h => ha (Fin.ext h.symm)
    simp only [Fin.getElem_fin, Vector.getElem_set_ne _ _ hne]

theorem chattered_slots (b : Fin 8) (s : State) : (chattered b s).slots = s.slots := by
  have honly := chattered_only b s
  unfold OnlyNotices at honly
  rw [honly]
  rfl

end

/-- Settles O47: a chatter event is counted where the branch works; the eighth raises the notice, and with auto-disable the
branch goes FAULTED and is emptied. -/
theorem chatterCountsAndFaults : Obligations.ChatterCountsAndFaults := by
  unfold Obligations.ChatterCountsAndFaults
  intro s b hop hslots _ br count
  have happens := exec_chatterEvent b hop
  have stays (hworks : br.state.works = true) (hstays : count < 8 ∨ s.params.autoDisable[b] = false) :
      chatterHappens b (opened s) = chattered b s := by
    rw [chatterHappens_eq hworks]
    refine if_neg fun ⟨hcount, hauto⟩ => ?_
    rcases hstays with h | h
    · exact absurd hcount (Nat.not_le.mpr h)
    · rw [h] at hauto
      cases hauto
  refine ⟨fun hstopped => ?_, fun hworks hother hstays => ?_, fun hworks hseven => ?_, fun hworks hcount hauto => ?_⟩
  · rw [happens, chatterHappens_stopped (s := opened s) (not_works_iff.mpr hstopped)]
    rfl
  · rw [happens, stays (works_iff.mpr hworks) hstays, chattered_other hother]
    rfl
  · refine ⟨_, happens, chatterHappens_notice (works_iff.mpr hworks) hseven, chatterHappens_ended b s, fun hauto => ?_⟩
    have honly := chattered_only b s
    unfold OnlyNotices at honly
    rw [stays (works_iff.mpr hworks) (.inr hauto)]
    have hbranches : (chattered b s).branches = s.branches.set b { br with chatter := 8 } := by
      rw [honly, counted_branches, hseven]
      rfl
    refine ⟨hbranches, ?_⟩
    unfold Touches
    rw [honly]
    rfl
  · have hleaves : chatterHappens b (opened s) = leaveReady b .faulted (chattered b s) := by
      rw [chatterHappens_eq (works_iff.mpr hworks)]
      exact if_pos ⟨hcount, hauto⟩
    have hleft := leaveReady_left .faulted b (s := chattered b s) (by rw [chattered_slots]; exact hslots)
    rw [← hleaves] at hleft
    obtain ⟨hbranch, hothers, hchecks, hlink, hhost, hreleased, helsewhere⟩ := chattered_left hleft
    exact ⟨_, happens, hbranch, hleft.free, hothers, chatterHappens_ended b s, hchecks, hlink, hhost, hreleased, helsewhere⟩

end Sys2Proof.Machine
end

section
/-! PROOFS. BRANCH-ENABLE and BRANCH-DISABLE (R168 to R172). -/

namespace Sys2Proof.Machine

/-! ### Releases without a failed write -/

section
variable {s : State}

theorem OnlyTables.faultless {t : State} (h : OnlyTables s t) (hs : Faultless s) : Faultless t := by
  unfold OnlyTables at h
  exact faultless_of_same hs (by rw [h]; rfl) (by rw [h]; rfl)

theorem OnlyCampaign.faultless {t : State} (h : OnlyCampaign s t) (hs : Faultless s) : Faultless t := by
  unfold OnlyCampaign at h
  exact faultless_of_same hs (by rw [h]) (by rw [h])

theorem OnlyRemoved.faultless {t : State} (h : OnlyRemoved s t) (hs : Faultless s) : Faultless t := by
  unfold OnlyRemoved at h
  exact faultless_of_same hs (by rw [h]) (by rw [h])

theorem faultless_modLum (h : Faultless s) (n : Nat) (f : Luminaire → Luminaire) : Faultless (modLum n f s) := by
  unfold modLum
  split
  · exact (putLum_tables _ _ _).faultless h
  · exact h

theorem faultless_addResult (h : Faultless s) (r : ResultRecord) : Faultless (addResult r s) :=
  faultless_writeItem (s := followAttn { s with results := s.results ++ [r], resultCounter := (s.resultCounter + 1) % 65536 })
    (faultless_of_same h rfl rfl) _

theorem faultless_checkOverdue (h : Faultless s) (n : Nat) : Faultless (checkOverdue n s) := by
  unfold checkOverdue
  split
  · split
    · exact faultless_writeItem ((putLum_tables _ _ _).faultless (faultless_raise h _)) _
    · exact h
  · exact h

theorem faultless_raiseOutcomeLatch (h : Faultless s) (n : Nat) (l : Luminaire) (o : TestOutcome) :
    Faultless (raiseOutcomeLatch n l o s) := by
  unfold raiseOutcomeLatch
  split
  · split
    · exact h
    · exact faultless_raise h _
  · exact h

theorem faultless_tellReleased (h : Faultless s) (o : Origin) (k : Nat) (hasResult : Bool) :
    Faultless (tellReleased o k hasResult s) := (tellReleased_only o k hasResult s).faultless h

theorem faultless_freeSlot (h : Faultless s) (k : Nat) (sl : Slot) : Faultless (freeSlot k sl s) := h

theorem faultless_releaseResult (h : Faultless s) (k : Nat) : Faultless (releaseResult k s) := by
  unfold releaseResult
  split
  · exact h
  · dsimp only
    split
    · exact faultless_freeSlot h _ _
    · exact faultless_tellReleased (faultless_checkOverdue (faultless_raiseOutcomeLatch (faultless_writeItem (faultless_freeSlot
        ((putLum_tables _ _ _).faultless (faultless_addResult h _)) _ _) _) _ _ _) _) _ _ _

theorem faultless_releaseWithout (h : Faultless s) (k : Nat) : Faultless (releaseWithout k s) := by
  unfold releaseWithout
  split
  · exact h
  · exact faultless_tellReleased (faultless_checkOverdue (faultless_writeItem (faultless_modLum
      (faultless_freeSlot h _ _) _ _) _) _) _ _ _

theorem faultless_releaseHeldOff (h : Faultless s) (k : Nat) : Faultless (releaseHeldOff k s) := by
  unfold releaseHeldOff
  split
  · exact h
  · exact faultless_releaseWithout (faultless_modLum h _ _) _

theorem faultless_releaseLost (h : Faultless s) (k : Nat) : Faultless (releaseLost k s) := by
  unfold releaseLost
  split
  · exact h
  · split
    · exact faultless_releaseHeldOff h k
    · exact faultless_releaseResult h k

theorem faultless_releasedAll (h : Faultless s) (ks : List Nat) : Faultless (releasedAll ks s) := by
  induction ks generalizing s with
  | nil => exact h
  | cons k ks ih => exact ih (faultless_releaseLost h k)

theorem faultless_leaveReady (h : Faultless s) (b : Fin 8) (st : BranchState) : Faultless (leaveReady b st s) :=
  faultless_releasedAll ((emptied_removed b st s).faultless h) _

end

/-! ### BRANCH-ENABLE -/

/-- The branch after BRANCH-ENABLE (R172). -/
def Branch.enabled (br : Branch) : Branch := { br with state := .ready, chatter := 0, hostOff := false }

theorem exec_branchEnable (tag : Byte) (body : List Byte) (s : State) :
    exec (.branchEnable tag body) s = request 0x70 tag body s := rfl

theorem exec_branchDisable (tag : Byte) (body : List Byte) (s : State) :
    exec (.branchDisable tag body) s = request 0x71 tag body s := rfl

section
variable {s : State} {b : Fin 8} {x : Byte}

theorem branchEnable_direct (hx : x.toNat = b) (hstate : s.branches[b].state = .direct) :
    branchEnable [x] s = (s, .refused .state) := by
  unfold branchEnable
  dsimp only
  rw [hx, branchOf_val]
  dsimp only
  rw [hstate]

/-- BRANCH-ENABLE of a branch that is not in DIRECT: enabled and recorded so, and a pass unless it was READY. -/
theorem branchEnable_done (hx : x.toNat = b) (hstate : s.branches[b].state ≠ .direct) : branchEnable [x] s =
    (triggerIf (decide (s.branches[b].state ≠ .ready)) (writeItem (.branch b) (modBranch b Branch.enabled s)), .done []) := by
  unfold branchEnable recordOff
  dsimp only
  rw [hx, branchOf_val]
  dsimp only
  cases hst : s.branches[b].state with
  | direct => exact absurd hst hstate
  | ready =>
    dsimp only
    rw [modBranch_modBranch, show decide (BranchState.ready ≠ .ready) = false from rfl, triggerIf_off]
    have hsame : modBranch b Branch.enabled s = modBranch b (fun br => { br with chatter := 0, hostOff := false }) s := by
      unfold modBranch Branch.enabled
      rw [← hst]
    rw [hsame]
  | off =>
    dsimp only
    rw [modBranch_modBranch, show decide (BranchState.off ≠ .ready) = true from rfl]
    rfl
  | faulted =>
    dsimp only
    rw [modBranch_modBranch, show decide (BranchState.faulted ≠ .ready) = true from rfl]
    rfl

end

/-! ### BRANCH-DISABLE -/

/-- The branch is OFF, before it is recorded so (R171). -/
def switchedOff (b : Fin 8) (s : State) : State :=
  if s.branches[b].state.works then leaveReady b .off s else modBranch b (fun br => { br with state := .off }) s

/-- The slots that stood on the branch: those RUNNING or CLOSING, and those RESERVED (R171). -/
def disabledReply (b : Fin 8) (s : State) : List Byte :=
  if s.branches[b].state = .ready ∨ s.branches[b].state = .direct then
    u8 (s.slots.filter fun p => p.2.branch == b && p.2.status != .reserved).length
      ++ u8 (s.slots.filter fun p => p.2.branch == b && p.2.status == .reserved).length
  else u8 0 ++ u8 0

theorem slotCounts_eq (s : State) (b : Fin 8) : slotCounts s b =
    ((s.slots.filter fun p => p.2.branch == b && p.2.status != .reserved).length,
      (s.slots.filter fun p => p.2.branch == b && p.2.status == .reserved).length) := by
  unfold slotCounts
  simp only [List.filter_filter, Bool.and_comm]

section
variable {s : State} {b : Fin 8} {x : Byte}

theorem branchDisable_eq (hx : x.toNat = b) (s : State) :
    branchDisable [x] s = (recordOff b true (switchedOff b s), .done (disabledReply b s)) := by
  unfold branchDisable switchedOff disabledReply
  dsimp only
  rw [hx, branchOf_val]
  dsimp only
  rw [slotCounts_eq]
  cases s.branches[b].state <;> rfl

end

end Sys2Proof.Machine
end

section
/-! PROOFS. What BRANCH-ENABLE and BRANCH-DISABLE leave behind (R168 to R172). -/

namespace Sys2Proof.Machine

theorem recordOff_only (b : Fin 8) (off : Bool) (s : State) :
    OnlyWrites (modBranch b (fun br => { br with hostOff := off }) s) (recordOff b off s) := writeItem_only _ _

theorem recordOff_image {s : State} (h : Faultless s) (b : Fin 8) (off : Bool) :
    (recordOff b off s).image.branchOff[b] = off ∧ (recordOff b off s).writeFailed = false := by
  have hmod : Faultless (modBranch b (fun br => { br with hostOff := off }) s) := h
  refine ⟨?_, (faultless_writeItem hmod _).2⟩
  unfold recordOff
  rw [writeItem_lands _ _ hmod.writeFails]
  simp only [landWrite, storeItem_branch, modBranch, Fin.getElem_fin, Vector.getElem_set_self]

/-! ### BRANCH-DISABLE -/

section
variable {s : State} {b : Fin 8}

theorem switchedOff_working (h : s.branches[b].state.works = true) : switchedOff b s = leaveReady b .off s := if_pos h

theorem switchedOff_stopped (h : s.branches[b].state.works = false) :
    switchedOff b s = modBranch b (fun br => { br with state := .off }) s := if_neg (ne_true_of_eq_false h)

theorem switchedOff_linkKept (h : s.service = none) : LinkKept s (switchedOff b s) := by
  unfold switchedOff
  split
  · exact leaveReady_linkKept .off (.inl h)
  · exact ⟨rfl, rfl, rfl⟩

theorem switchedOff_only (b : Fin 8) (s : State) : OnlyEnds s (switchedOff b s) := by
  unfold switchedOff
  split
  · exact leaveReady_only b .off s
  · exact (modBranch_only b _ s).ends

theorem switchedOff_branches (hr : s.slots.Rising) :
    ∃ br : Branch, br.state = .off ∧ (switchedOff b s).branches = s.branches.set b br := by
  unfold switchedOff
  split
  · exact ⟨_, rfl, leaveReady_branches .off hr⟩
  · exact ⟨_, rfl, rfl⟩

theorem switchedOff_elsewhere (hr : s.slots.Rising) {k : Nat} {sl : Slot} (hk : s.slots.get k = some sl)
    (hb : sl.branch ≠ b) : (switchedOff b s).slots.get k = some sl := by
  unfold switchedOff
  split
  · exact leaveReady_elsewhere .off hr hk hb
  · exact hk

theorem faultless_switchedOff (h : Faultless s) (b : Fin 8) : Faultless (switchedOff b s) := by
  unfold switchedOff
  split
  · exact faultless_leaveReady h b .off
  · exact h

end

/-- The part after BRANCH-DISABLE of branch `b`, before its passes. -/
def disabled (b : Fin 8) (tag : Byte) (s : State) : State :=
  { recordOff b true (switchedOff b (atOwner s)) with
    sending := some (storedReply (recordOff b true (switchedOff b (atOwner s))).writeFailed tag (disabledReply b s)) }

section
variable {s : State} {b : Fin 8} {tag x : Byte}

theorem exec_branchDisable_done (hs : Serves s) (hx : x.toNat = b) :
    exec (.branchDisable tag [x]) s = .next (settle (disabled b tag s)) := by
  have honly := recordOff_only b true (switchedOff b (atOwner s))
  have hlink := switchedOff_linkKept (s := atOwner s) (b := b) hs.2.2
  have howner : branchDisable [x] (atOwner s) =
      (recordOff b true (switchedOff b (atOwner s)), .done (disabledReply b s)) := branchDisable_eq hx (atOwner s)
  rw [exec_branchDisable]
  refine request_ran 0x71 tag [x] s _ branchDisable _ hs (by simp) (by decide) rfl howner ?_
  unfold OnlyWrites at honly
  rw [honly]
  exact hlink.2.1.trans hs.2.1

theorem disabled_ended (b : Fin 8) (tag : Byte) (s : State) : ExchangeEnded { s with receiver := .hunt } (disabled b tag s) := by
  have honly := recordOff_only b true (switchedOff b (atOwner s))
  have hends := switchedOff_only b (atOwner s)
  unfold OnlyWrites at honly
  unfold OnlyEnds at hends
  unfold disabled
  generalize recordOff b true (switchedOff b (atOwner s)) = t at *
  generalize switchedOff b (atOwner s) = v at *
  unfold ExchangeEnded
  rw [honly, hends]
  rfl

/-- Beside its reply and the store, what BRANCH-DISABLE leaves is what switching the branch off leaves. -/
theorem disabled_eq (b : Fin 8) (tag : Byte) (s : State) :
    (disabled b tag s).slots = (switchedOff b (atOwner s)).slots ∧
      (disabled b tag s).luminaires = (switchedOff b (atOwner s)).luminaires ∧
      (disabled b tag s).results = (switchedOff b (atOwner s)).results ∧
      (disabled b tag s).checkPending = (switchedOff b (atOwner s)).checkPending ∧
      (disabled b tag s).trigger = (switchedOff b (atOwner s)).trigger ∧
      (disabled b tag s).service = (switchedOff b (atOwner s)).service ∧
      (disabled b tag s).ready = (switchedOff b (atOwner s)).ready ∧
      (disabled b tag s).branches = (switchedOff b (atOwner s)).branches.set b
        { (switchedOff b (atOwner s)).branches[b] with hostOff := true } := by
  have honly := recordOff_only b true (switchedOff b (atOwner s))
  unfold OnlyWrites at honly
  unfold disabled
  generalize recordOff b true (switchedOff b (atOwner s)) = t at *
  rw [honly]
  exact ⟨rfl, rfl, rfl, rfl, rfl, rfl, rfl, rfl⟩

theorem disabled_branch (hr : s.slots.Rising) :
    (disabled b tag s).branches[b].state = .off ∧ (disabled b tag s).branches[b].hostOff = true ∧
      ∀ a : Fin 8, a ≠ b → (disabled b tag s).branches[a] = s.branches[a] := by
  obtain ⟨-, -, -, -, -, -, -, hbranches⟩ := disabled_eq b tag s
  obtain ⟨br, hoff, hswitched⟩ := switchedOff_branches (s := atOwner s) (b := b) hr
  rw [hbranches, hswitched]
  simp only [Fin.getElem_fin, Vector.getElem_set_self]
  refine ⟨hoff, trivial, fun a ha => ?_⟩
  have hne : b.val ≠ a.val := fun h => ha (Fin.ext h.symm)
  rw [Vector.getElem_set_ne _ _ hne, Vector.getElem_set_ne _ _ hne]
  rfl

/-- A branch that worked is emptied and its slots are released (R168 to R171). -/
theorem disabled_working (hr : s.slots.Rising) (hworks : s.branches[b].state.works = true) :
    (disabled b tag s).branches[b].queue = [] ∧ (disabled b tag s).branches[b].inFlight = none ∧
      occupiedOn (disabled b tag s) b = 0 ∧ ChecksRemoved b s (disabled b tag s) ∧
      (SlotsSound s → SlotsReleased b s (disabled b tag s) ∧
        (occupiedOn s b ≠ 0 → (disabled b tag s).trigger = true)) := by
  obtain ⟨hslots, hrecords, hresults, hpending, htrigger, -, -, hbranches⟩ := disabled_eq b tag s
  obtain ⟨hleft, hfree, -, hchecks, -, -, hreleased⟩ := leaveReady_left .off b (s := atOwner s) hr
  rw [switchedOff_working (s := atOwner s) hworks] at hslots hrecords hresults hpending htrigger hbranches
  rw [hleft] at hbranches
  refine ⟨?_, ?_, (occupiedOn_congr hslots b).trans hfree, fun n => ?_, fun hsound => ?_⟩
  · rw [hbranches]
    simp only [Fin.getElem_fin, Vector.getElem_set_self]
    rfl
  · rw [hbranches]
    simp only [Fin.getElem_fin, Vector.getElem_set_self]
    rfl
  · rw [hpending]
    exact hchecks n
  · obtain ⟨hrel, htrig⟩ := hreleased hsound
    refine ⟨?_, fun hocc => htrigger.trans (htrig hocc)⟩
    unfold SlotsReleased
    rw [hslots, hrecords, hresults]
    exact hrel

theorem disabled_faultless (hfates : s.writeFates = []) :
    (disabled b tag s).image.branchOff[b] = true ∧ (disabled b tag s).sending = some (doneReply tag (disabledReply b s)) := by
  obtain ⟨himage, hfailed⟩ := recordOff_image (faultless_switchedOff (s := atOwner s) ⟨hfates, rfl⟩ b) b true
  refine ⟨himage, ?_⟩
  unfold disabled
  rw [hfailed]
  rfl

end

/-! ### BRANCH-ENABLE -/

theorem branchEnable_served {s : State} {b : Fin 8} (tag : Byte) {x : Byte} (hs : Serves s) (hx : x.toNat = b)
    (hstate : s.branches[b].state ≠ .direct) :
    ∃ u, exec (.branchEnable tag [x]) s = .next (settle u) ∧
      u.branches = s.branches.set b s.branches[b].enabled ∧ u.trigger = decide (s.branches[b].state ≠ .ready) ∧
      (writeFails s = false → u.image.branchOff[b] = false) ∧
      Served (writeFails s) (storedReply (writeFails s) tag []) { s with branches := u.branches } u := by
  obtain ⟨u, hexec, htrigger, hserved, himage⟩ := request_written_served 0x70 tag [x] s (modBranch b Branch.enabled s)
    branchEnable [] (.branch b) (decide (s.branches[b].state ≠ .ready)) hs (by simp) (by decide) rfl
    (branchEnable_done (s := atOwner s) hx hstate) hs.2.1
  have hbranches : u.branches = s.branches.set b s.branches[b].enabled := congrArg State.branches hserved.1
  refine ⟨u, hexec, hbranches, htrigger, fun hfate => ?_, ?_⟩
  · rw [himage hfate, storeItem_branch]
    simp only [modBranch, Fin.getElem_fin, Vector.getElem_set_self]
    rfl
  · rw [hbranches]
    exact hserved

/-- Settles O41: BRANCH-ENABLE makes a branch READY; BRANCH-DISABLE makes it OFF, removes its exchanges and releases its slots. -/
theorem branchesAreEnabledAndDisabled : Obligations.BranchesAreEnabledAndDisabled := by
  unfold Obligations.BranchesAreEnabledAndDisabled
  refine ⟨fun s tag x b hs hx => ⟨fun hdirect => ?_, fun hstate => branchEnable_served tag hs hx hstate⟩,
    fun s tag x b hs hx hr _ => ?_⟩
  · exact request_refused 0x70 tag [x] s branchEnable .state hs (by simp) (by decide) rfl
      (branchEnable_direct (s := atOwner s) hx hdirect)
  · obtain ⟨hslots, -, -, hpending, -, hservice, hready, -⟩ := disabled_eq b tag s
    obtain ⟨hkept, -, hreadyKept⟩ := switchedOff_linkKept (s := atOwner s) (b := b) hs.2.2
    obtain ⟨hoff, hhost, hothers⟩ := disabled_branch (b := b) (tag := tag) hr
    refine ⟨_, exec_branchDisable_done hs hx, hoff, hhost, disabled_ended b tag s,
      fun hworks => disabled_working hr (works_iff.mpr hworks), fun hstopped => ?_, hservice.trans hkept,
      hready.trans hreadyKept, hothers, fun k sl hk hb => ?_, disabled_faultless⟩
    · rw [hpending, switchedOff_stopped (s := atOwner s) (not_works_iff.mpr hstopped)]
      rfl
    · rw [hslots]
      exact switchedOff_elsewhere (s := atOwner s) hr hk hb

end Sys2Proof.Machine
end

section
/-! PROOFS. Recalls of many slots (R105 to R108, R142, R150), and the EMG line's assertion (R149 to R151). -/

namespace Sys2Proof.Machine

/-! ### Slots after recalls -/

theorem Table.keys_put_used {α : Type} {t : Table α} (hr : t.Rising) {k : Nat} (hk : k ∈ t.keys) (a : α) :
    (t.put k a).keys = t.keys := by
  induction t with
  | nil => cases hk
  | cons p rest ih =>
    obtain ⟨j, b⟩ := p
    obtain ⟨hbefore, hrest⟩ := List.pairwise_cons.mp hr
    unfold Table.put
    rcases List.mem_cons.mp hk with rfl | hin
    · rw [if_neg (Nat.lt_irrefl _), if_pos rfl]
      rfl
    · have hlt : j < k := hbefore k hin
      rw [if_neg (Nat.lt_asymm hlt), if_neg (Nat.ne_of_gt hlt)]
      exact congrArg (j :: ·) (ih hrest hin)

/-- Slot contents after a recall has reached the slot (R105 to R108). -/
def Slot.afterRecall (sl : Slot) (r : RecallReason) (s : State) : Slot :=
  if sl.status = .running then sl.recalled r s else sl

theorem afterRecall_running {sl : Slot} (r : RecallReason) (s : State) (h : sl.status = .running) :
    sl.afterRecall r s = sl.recalled r s := if_pos h

theorem afterRecall_other {sl : Slot} (r : RecallReason) (s : State) (h : sl.status ≠ .running) :
    sl.afterRecall r s = sl := if_neg h

theorem afterRecall_status (sl : Slot) (r : RecallReason) (s : State) : (sl.afterRecall r s).status ≠ .running := by
  unfold Slot.afterRecall
  split
  · rw [recalled_eq]
    exact fun h => nomatch h
  · assumption

theorem afterRecall_again (sl : Slot) (r : RecallReason) (s t : State) :
    (sl.afterRecall r s).afterRecall r t = sl.afterRecall r s :=
  afterRecall_other r t (afterRecall_status sl r s)

theorem afterRecall_same {s t : State} (h : t.ownCount = s.ownCount) (sl : Slot) (r : RecallReason) :
    sl.afterRecall r t = sl.afterRecall r s := by
  unfold Slot.afterRecall Slot.recalled elapsedNow
  rw [h]

theorem get_recallSlot_self (r : RecallReason) (k : Nat) (s : State) :
    (recallSlot r k s).slots.get k = (s.slots.get k).map fun sl => sl.afterRecall r s := by
  cases hk : s.slots.get k with
  | none =>
    rw [recallSlot_none r k s hk, hk]
    rfl
  | some sl =>
    rw [Option.map_some]
    by_cases hstatus : sl.status = .running
    · rw [recallSlot_running r k sl s hk hstatus, close_slots, Table.get_put_self, afterRecall_running r s hstatus]
      rfl
    · rw [afterRecall_other r s hstatus]
      cases hs : sl.status with
      | running => exact absurd hs hstatus
      | reserved => rw [recallSlot_reserved r k sl s hk hs, modLum_slots, hk]
      | closing => rw [recallSlot_closing r k sl s hk hs, hk]

theorem recallSlot_keys (r : RecallReason) (k : Nat) {s : State} (hr : s.slots.Rising) :
    (recallSlot r k s).slots.keys = s.slots.keys := by
  cases hk : s.slots.get k with
  | none => rw [recallSlot_none r k s hk]
  | some sl =>
    cases hs : sl.status with
    | running =>
      rw [recallSlot_running r k sl s hk hs, close_slots]
      exact Table.keys_put_used hr (Table.mem_keys_of_get hk) _
    | reserved => rw [recallSlot_reserved r k sl s hk hs, modLum_slots]
    | closing => rw [recallSlot_closing r k sl s hk hs]

theorem recallAll_keys (r : RecallReason) (ks : List Nat) {s : State} (hr : s.slots.Rising) :
    (recallAll r ks s).slots.keys = s.slots.keys := by
  induction ks generalizing s with
  | nil => rfl
  | cons k ks ih =>
    have hkeys := recallSlot_keys r k hr
    have hr' : (recallSlot r k s).slots.Rising := by
      unfold Table.Rising
      rw [hkeys]
      exact hr
    exact (ih hr').trans hkeys

theorem recallAll_onlyTest (r : RecallReason) (ks : List Nat) (s : State) : OnlyTest s (recallAll r ks s) :=
  foldl_only (F := OnlyTest) (fun _ => rfl) OnlyTest.trans (fun u k => recallSlot_onlyTest r k u) ks s

theorem recallSlot_ownCount (r : RecallReason) (k : Nat) (s : State) : (recallSlot r k s).ownCount = s.ownCount := by
  rw [show recallSlot r k s = _ from recallSlot_onlyTest r k s]
  rfl

/-- A slot that was recalled already keeps its contents. -/
theorem get_recallAll_again (r : RecallReason) (ks : List Nat) {s t : State} {k : Nat} {sl : Slot}
    (hk : s.slots.get k = some (sl.afterRecall r t)) : (recallAll r ks s).slots.get k = some (sl.afterRecall r t) := by
  induction ks generalizing s with
  | nil => exact hk
  | cons j ks ih =>
    refine ih ?_
    by_cases hj : k = j
    · subst hj
      rw [get_recallSlot_self, hk, Option.map_some, afterRecall_again]
    · rw [recallSlot_slots r j k s hj, hk]

/-- Every recalled slot goes by its status (R105 to R108). -/
theorem get_recallAll (r : RecallReason) {ks : List Nat} {s : State} {k : Nat} {sl : Slot} (hin : k ∈ ks)
    (hk : s.slots.get k = some sl) : (recallAll r ks s).slots.get k = some (sl.afterRecall r s) := by
  induction ks generalizing s with
  | nil => cases hin
  | cons j ks ih =>
    by_cases hj : k = j
    · subst hj
      refine get_recallAll_again r ks (s := recallSlot r k s) ?_
      rw [get_recallSlot_self, hk]
      rfl
    · have hin' : k ∈ ks := (List.mem_cons.mp hin).resolve_left hj
      refine (ih (s := recallSlot r j s) hin' ?_).trans ?_
      · rw [recallSlot_slots r j k s hj, hk]
      · rw [afterRecall_same (recallSlot_ownCount r j s)]

/-! ### Recalls are no trigger -/

/-- A change of one record that keeps its groups, ends no darkness and enters no DUE is no trigger (R37, R66). -/
theorem putLum_no_trigger {n : Nat} {l l' : Luminaire} {s : State} (hl : s.luminaires.get n = some l)
    (hg : l'.groups = l.groups) (hd : l.dark = true → l'.dark = true) (hdue : l'.state = .due → l.state = .due) :
    (putLum n (some l') s).trigger = s.trigger := by
  have hfalls : (s.groups.any fun p => darkIn (some l) p.1 && !darkIn (some l') p.1) = false :=
    List.any_eq_false.mpr fun p _ => by
      simp only [darkIn, Option.any_some, hg]
      cases hdark : l.dark with
      | false => simp
      | true => simp [hd hdark]
  have henters : entersDue (some l) (some l') = false := by
    unfold entersDue
    cases hstate : l'.state == .due with
    | false => rw [Option.any_some, hstate, Bool.false_and]
    | true => rw [Option.any_some, Option.any_some, hdue (beq_iff_eq.mp hstate), hstate]; rfl
  rw [putLum_trigger_eq, hl, hfalls, henters, Bool.or_false, Bool.or_false]

theorem modLum_no_trigger {n : Nat} {f : Luminaire → Luminaire} {s : State} (hg : ∀ l, (f l).groups = l.groups)
    (hd : ∀ l, l.dark = true → (f l).dark = true) (hdue : ∀ l, (f l).state = .due → l.state = .due) :
    (modLum n f s).trigger = s.trigger := by
  cases hl : s.luminaires.get n with
  | none =>
    unfold modLum
    rw [hl]
  | some l =>
    rw [modLum_some hl]
    exact putLum_no_trigger hl (hg l) (hd l) (hdue l)

theorem close_trigger (k : Nat) (sl : Slot) (s : State) : (close k sl s).trigger = s.trigger := by
  rw [close_eq, (queueStop_tables k sl.closed (beforeStop k sl s)).2.1]
  refine modLum_no_trigger (fun l => enter_groups l _) (fun l _ => ?_) (fun l h => ?_)
  · unfold Luminaire.dark
    rw [enter_state]
    rfl
  · rw [enter_state] at h
    cases h

theorem recallSlot_trigger (r : RecallReason) (k : Nat) (s : State) : (recallSlot r k s).trigger = s.trigger := by
  cases hk : s.slots.get k with
  | none => rw [recallSlot_none r k s hk]
  | some sl =>
    cases hs : sl.status with
    | running => rw [recallSlot_running r k sl s hk hs, close_trigger]
    | reserved =>
      rw [recallSlot_reserved r k sl s hk hs]
      exact modLum_no_trigger (fun _ => rfl) (fun _ => id) fun _ => id
    | closing => rw [recallSlot_closing r k sl s hk hs]

theorem recallAll_trigger (r : RecallReason) (ks : List Nat) (s : State) : (recallAll r ks s).trigger = s.trigger := by
  induction ks generalizing s with
  | nil => rfl
  | cons k ks ih => exact (ih (recallSlot r k s)).trans (recallSlot_trigger r k s)

/-! ### Recalls where R86 holds -/

section
variable {s : State}

theorem slots_once (hsound : SlotsSound s) {k k' : Nat} {sl sl' : Slot} (hk : s.slots.get k = some sl)
    (hk' : s.slots.get k' = some sl') (h : sl.luminaire = sl'.luminaire) : k = k' :=
  congrArg Prod.fst (List.inj_on_of_nodup_map hsound.2.1 (Table.mem_of_get hk) (Table.mem_of_get hk') h)

theorem slots_pair (hsound : SlotsSound s) {k : Nat} {sl : Slot} {l : Luminaire} (hk : s.slots.get k = some sl)
    (hl : s.luminaires.get sl.luminaire = some l) : l.state = sl.status.pairs := by
  obtain ⟨x, hx, hboth⟩ := (Option.any_eq_true _ _).mp (hsound.1 (k, sl) (Table.mem_of_get hk))
  obtain ⟨hstate, -⟩ := (Bool.and_eq_true _ _).mp hboth
  obtain rfl := Option.some.inj (hl.symm.trans hx)
  exact beq_iff_eq.mp hstate

theorem slot_branch_ready (hbranches : BranchesSound s) {k : Nat} {sl : Slot} (hk : s.slots.get k = some sl) :
    s.branches[sl.branch].state = .ready := by
  by_contra hnot
  obtain ⟨-, hfree, -⟩ := hbranches sl.branch
  have hnone := List.length_eq_zero_iff.mp (hfree hnot)
  exact List.filter_eq_nil_iff.mp hnone (k, sl) (Table.mem_of_get hk) (beq_self_eq_true _)

theorem recallable (hsound : SlotsSound s) (hbranches : BranchesSound s) {k : Nat} {sl : Slot}
    (hk : s.slots.get k = some sl) : Recallable k sl.luminaire sl.branch s where
  alone := fun _ _ hj hne h => hne (slots_once hsound hj hk h)
  works := works_of_ready (slot_branch_ready hbranches hk)

theorem slotsOutOfList (hsound : SlotsSound s) : SlotsOutOfList s := fun k sl l hk hl => by
  rw [slots_pair hsound hk hl]
  cases sl.status <;> rfl

/-- Recalls of a list of slots where R86 and R160 hold: the schedule list stays, each slot goes by its status. -/
theorem recallAll_sound (r : RecallReason) (ks : List Nat) (hsound : SlotsSound s) (hbranches : BranchesSound s) :
    (recallAll r ks s).schedule = s.schedule ∧
      ∀ k ∈ ks, ∀ sl, s.slots.get k = some sl → Recalled r k sl s (recallAll r ks s) :=
  ⟨recallAll_schedule r ks s (slotsOutOfList hsound), fun _ hin sl hk =>
    recallAll_recalled r ks hin hk (recallable hsound hbranches hk) fun l hl hs =>
      (slots_pair hsound hk hl).trans (by rw [hs]; rfl)⟩

end

end Sys2Proof.Machine
end

section
/-! PROOFS. The EMG line's assertion (R149 to R151). -/

namespace Sys2Proof.Machine

theorem exec_emgAssertion {s : State} (hop : s.phase = .operating) (hline : s.emgLine = false) :
    exec .emgAssertion s = .next (settle (emgAsserts { opened s with emgLine := true, emgKept := true })) := by
  have hevent : exec .emgAssertion s = event (emgChanges true) s := if_pos hop
  have hchanges : emgChanges true (opened s) = emgAsserts { opened s with emgLine := true, emgKept := true } :=
    if_neg (by rw [show (opened s).emgLine = false from hline]; exact Bool.false_ne_true)
  rw [hevent, event_operating _ _ hop, begin_eq_opened, hchanges]

/-- The part in EMERGENCY, before the recalls (R149). -/
def inEmergency (s : State) : State :=
  { opened s with emgLine := true, emgKept := true, resumeTo := s.sched, sched := .emergency }

/-- The part after the recalls of every slot (R150). -/
def allRecalled (s : State) : State := recallAll .emergency s.slots.keys (inEmergency s)

/-- The part back in EMERGENCY from RECOVERY (R151). -/
def backInEmergency (s : State) : State :=
  { opened s with emgLine := true, emgKept := true, sched := .emergency, recovery := none }

section
variable {s : State}

theorem emgAsserts_enters (h : s.sched = .suspended ∨ s.sched = .active) :
    emgAsserts { opened s with emgLine := true, emgKept := true } =
      raise (.emergencyEntered s.sched s.slots.length false) (allRecalled s) := by
  unfold emgAsserts
  dsimp only
  rcases h with h | h
  · rw [show (opened s).sched = .suspended from h]
    unfold allRecalled inEmergency
    rw [h]
    rfl
  · rw [show (opened s).sched = .active from h]
    unfold allRecalled inEmergency
    rw [h]
    rfl

theorem emgAsserts_again (h : s.sched = .recovery) : emgAsserts { opened s with emgLine := true, emgKept := true } =
    raise (.emergencyEntered s.resumeTo s.slots.length true) (backInEmergency s) := by
  unfold emgAsserts
  dsimp only
  rw [show (opened s).sched = .recovery from h]
  rfl

theorem get_allRecalled {k : Nat} {sl : Slot} (hk : s.slots.get k = some sl) :
    (allRecalled s).slots.get k = some (sl.afterRecall .emergency (inEmergency s)) :=
  get_recallAll .emergency (Table.mem_keys_of_get hk) hk

/-- What the assertion leaves, beside the notice raised after it (R149, R150). -/
structure Entered (s u : State) : Prop where
  sched : u.sched = .emergency
  resumeTo : u.resumeTo = s.sched
  emgKept : u.emgKept = true
  emgLine : u.emgLine = true
  trigger : u.trigger = false
  keys : u.slots.keys = s.slots.keys
  slots : ∀ k sl, s.slots.get k = some sl → u.slots.get k = some (sl.afterRecall .emergency (inEmergency s))
  sound : SlotsSound s → BranchesSound s → u.schedule = s.schedule ∧
    ∀ k sl, s.slots.get k = some sl → Recalled .emergency k sl s u
  others : OnlyRecalled s.slots.keys s u
  only : u = { withRecords s u with
    sched := .emergency, resumeTo := s.sched, emgKept := true, emgLine := true, slots := u.slots
    branches := u.branches, outbox := u.outbox, noticesLost := u.noticesLost, attn := u.attn, lastWrites := []
    trigger := false, writeFailed := false }

theorem allRecalled_entered (hr : s.slots.Rising) : Entered s (allRecalled s) := by
  have honly := recallAll_onlyTest .emergency s.slots.keys (inEmergency s)
  have htrigger : (allRecalled s).trigger = false := recallAll_trigger .emergency s.slots.keys (inEmergency s)
  have hkeys := recallAll_keys .emergency s.slots.keys (s := inEmergency s) hr
  have hothers := recallAll_only_recalled .emergency s.slots.keys (inEmergency s)
  have hsound := recallAll_sound .emergency s.slots.keys (s := inEmergency s)
  have hslots := fun k sl => get_allRecalled (s := s) (k := k) (sl := sl)
  unfold OnlyTest at honly
  unfold allRecalled at *
  generalize recallAll .emergency s.slots.keys (inEmergency s) = u at *
  refine ⟨by rw [honly]; rfl, by rw [honly]; rfl, by rw [honly]; rfl, by rw [honly]; rfl, htrigger, hkeys, hslots,
    fun h1 h2 => ?_, hothers, ?_⟩
  · obtain ⟨hschedule, hrecalled⟩ := hsound h1 h2
    exact ⟨hschedule, fun k sl hk => hrecalled k (Table.mem_keys_of_get hk) sl hk⟩
  · rw [htrigger] at honly
    rw [honly]
    rfl

/-- A notice leaves what the assertion left. -/
theorem Entered.raised {u v : State} (h : Entered s u) (hv : OnlyNotices u v) : Entered s v := by
  obtain ⟨hsched, hresume, hkept, hline, htrigger, hkeys, hslots, hsound, hothers, honly⟩ := h
  unfold OnlyNotices at hv
  rw [hv]
  refine ⟨hsched, hresume, hkept, hline, htrigger, hkeys, hslots, hsound, hothers, ?_⟩
  rw [honly]
  rfl

/-- The first assertion (R149, R150). -/
theorem emgAssertion_enters (hop : s.phase = .operating) (hline : s.emgLine = false) (hr : s.slots.Rising)
    (h : s.sched = .suspended ∨ s.sched = .active) :
    ∃ u, exec .emgAssertion s = .next (settle u) ∧ Entered s u ∧
      (s.mask.getLsbD 15 = false → s.outbox.length < 32 →
        u.outbox = s.outbox ++ [⟨knownTime s, .emergencyEntered s.sched s.slots.length false⟩]) := by
  refine ⟨_, (exec_emgAssertion hop hline).trans (by rw [emgAsserts_enters h]),
    (allRecalled_entered hr).raised (raise_only _ _), fun hmask hroom => ?_⟩
  have honly : allRecalled s = _ := recallAll_onlyTest .emergency s.slots.keys (inEmergency s)
  have houtbox : (allRecalled s).outbox = s.outbox := by rw [honly]; rfl
  have hmasked : (allRecalled s).mask = s.mask := by rw [honly]; rfl
  have htime : knownTime (allRecalled s) = knownTime s := by rw [honly]; rfl
  rw [raise_outbox_of_room (by rw [hmasked]; exact hmask) (by rw [houtbox]; exact hroom), houtbox, htime]

end

/-- Settles O34: the first assertion recalls every slot by its status; one in RECOVERY stops the timer alone. -/
theorem anEmgAssertionRecallsEverySlot : Obligations.AnEmgAssertionRecallsEverySlot := by
  unfold Obligations.AnEmgAssertionRecallsEverySlot
  refine fun s hop hline hr => ⟨fun h => ?_, fun hsched => ?_⟩
  · obtain ⟨u, hexec, hentered, houtbox⟩ := emgAssertion_enters hop hline hr h
    obtain ⟨hsched, hresume, hkept, hemg, htrigger, hkeys, hslots, hsound, hothers, honly⟩ := hentered
    refine ⟨u, hexec, hsched, hresume, hkept, hemg, htrigger, hkeys, fun k sl hk hstatus => ?_, fun k sl hk hstatus => ?_,
      hsound, hothers, houtbox, honly⟩
    · refine ⟨_, hslots k sl hk, ?_⟩
      rw [afterRecall_running _ _ hstatus, recalled_eq]
      exact ⟨rfl, rfl, rfl, rfl, rfl⟩
    · rw [hslots k sl hk, afterRecall_other _ _ hstatus]
  · have honly := raise_only (.emergencyEntered s.resumeTo s.slots.length true) (backInEmergency s)
    have htrigger : (raise (.emergencyEntered s.resumeTo s.slots.length true) (backInEmergency s)).trigger = false := by
      rw [show raise _ _ = _ from honly]
      rfl
    refine ⟨finish (raise (.emergencyEntered s.resumeTo s.slots.length true) (backInEmergency s)), ?_, ?_,
      fun hmask hroom => ?_⟩
    · rw [exec_emgAssertion hop hline, emgAsserts_again hsched, settle_of_no_trigger _ htrigger]
    · rw [show raise _ _ = _ from honly]
      rfl
    · exact raise_outbox_of_room (b := .emergencyEntered s.resumeTo s.slots.length true) (s := backInEmergency s) hmask hroom

end Sys2Proof.Machine
end

section
/-! PROOFS. CAMPAIGN-STOP (R141, R142). -/

namespace Sys2Proof.Machine

theorem recallAll_kept (r : RecallReason) (ks : List Nat) (s : State) : SlotsKept s (recallAll r ks s) :=
  foldl_only (F := SlotsKept) (fun _ => .same rfl) SlotsKept.trans (fun u k => recallSlot_kept r k u) ks s

/-- No slot that was to be recalled is RUNNING any more. -/
theorem recallAll_not_running (r : RecallReason) {ks : List Nat} {s : State} {k : Nat} {sl : Slot} (hin : k ∈ ks)
    (hk : (recallAll r ks s).slots.get k = some sl) : sl.status ≠ .running := by
  obtain ⟨before, hbefore, -, -, -⟩ := recallAll_kept r ks s k sl hk
  rw [get_recallAll r hin hbefore] at hk
  cases hk
  exact afterRecall_status before r s

theorem exec_campaignStop (tag : Byte) (body : List Byte) (s : State) :
    exec (.campaignStop tag body) s = request 0x54 tag body s := rfl

section
variable {s : State} {c : Fin 4} {cb : Byte}

theorem campaignStop_empty (hcb : cb.toNat = c) (hempty : s.channels[c].state = .empty) (recalls : Bool) :
    campaignStop [cb, if recalls then 1 else 0] s = (s, .refused .state) := by
  unfold campaignStop
  dsimp only
  rw [channelOf_of_toNat_eq hcb, flagOf_ite]
  exact if_pos hempty

theorem campaignStop_stops (hcb : cb.toNat = c) (hstate : s.channels[c].state ≠ .empty) :
    campaignStop [cb, 0] s = (modChan c Channel.stopped s, .done (u32 s.channels[c].stopped.run)) := by
  unfold campaignStop
  dsimp only
  rw [channelOf_of_toNat_eq hcb, show flagOf 0 = some false from rfl]
  exact if_neg hstate

theorem campaignStop_recalls (hcb : cb.toNat = c) (hstate : s.channels[c].state ≠ .empty) : campaignStop [cb, 1] s =
    (modChan c Channel.stopped (recallAll .campaignRecall (s.channels[c].inFlight.map Prod.fst) s),
      .done (u32 s.channels[c].stopped.run ++ u8 s.channels[c].inFlight.length)) := by
  unfold campaignStop
  dsimp only
  rw [channelOf_of_toNat_eq hcb, show flagOf 1 = some true from rfl]
  exact if_neg hstate

/-- CAMPAIGN-STOP without the recall flag (R141). -/
theorem campaignStop_quiet (tag : Byte) (hs : Serves s) (hcb : cb.toNat = c) (hstate : s.channels[c].state ≠ .empty) :
    exec (.campaignStop tag [cb, 0]) s =
      .next { answered s (doneReply tag (u32 s.channels[c].stopped.run)) with
        channels := s.channels.set c s.channels[c].stopped } := by
  have howner : campaignStop [cb, 0] (atOwner s) =
      ({ atOwner s with channels := s.channels.set c s.channels[c].stopped }, .done (u32 s.channels[c].stopped.run)) :=
    campaignStop_stops (s := atOwner s) hcb hstate
  exact request_done 0x54 tag [cb, 0] s _ campaignStop _ hs (by simp) (by decide) rfl howner hs.2.1 rfl rfl

/-- CAMPAIGN-STOP with the recall flag (R142). -/
theorem campaignStop_recalling (tag : Byte) (hs : Serves s) (hcb : cb.toNat = c) (hstate : s.channels[c].state ≠ .empty) :
    ∃ u, exec (.campaignStop tag [cb, 1]) s = .next (settle u) ∧
      u.channels = s.channels.set c s.channels[c].stopped ∧
      (∀ p ∈ s.channels[c].inFlight, ∀ sl, u.slots.get p.1 = some sl → sl.status ≠ .running) ∧
      (SlotsSound s → BranchesSound s → u.schedule = s.schedule ∧
        ∀ p ∈ s.channels[c].inFlight, ∀ sl, s.slots.get p.1 = some sl → Recalled .campaignRecall p.1 sl s u) ∧
      OnlyRecalled (s.channels[c].inFlight.map Prod.fst) s u ∧
      u = { withRecords (answered s (doneReply tag
          (u32 s.channels[c].stopped.run ++ u8 s.channels[c].inFlight.length))) u with
        channels := u.channels, slots := u.slots, branches := u.branches, trigger := u.trigger } := by
  have howner := campaignStop_recalls (s := atOwner s) hcb hstate
  have hin {p : Nat × Nat} (hp : p ∈ s.channels[c].inFlight) : p.1 ∈ s.channels[c].inFlight.map Prod.fst :=
    List.mem_map.mpr ⟨p, hp, rfl⟩
  have honly := recallAll_onlyTest .campaignRecall (s.channels[c].inFlight.map Prod.fst) (atOwner s)
  have hstill := fun k sl => recallAll_not_running .campaignRecall (s := atOwner s)
    (ks := s.channels[c].inFlight.map Prod.fst) (k := k) (sl := sl)
  have hothers := recallAll_only_recalled .campaignRecall (s.channels[c].inFlight.map Prod.fst) (atOwner s)
  have hsound := recallAll_sound .campaignRecall (s.channels[c].inFlight.map Prod.fst) (s := atOwner s)
  change campaignStop [cb, 1] (atOwner s) =
    (modChan c Channel.stopped (recallAll .campaignRecall (s.channels[c].inFlight.map Prod.fst) (atOwner s)), _) at howner
  generalize recallAll .campaignRecall (s.channels[c].inFlight.map Prod.fst) (atOwner s) = t at *
  unfold OnlyTest at honly
  have hsending : t.sending = none := by
    rw [honly]
    exact hs.2.1
  have hfailed : t.writeFailed = false := by
    rw [honly]
    rfl
  refine ⟨_, request_done_settle 0x54 tag [cb, 1] s _ campaignStop _ hs (by simp) (by decide) rfl howner hsending hfailed, ?_,
    fun p hp sl hk => hstill p.1 sl (hin hp) hk, fun h1 h2 => ?_, hothers, ?_⟩
  · rw [honly]
    rfl
  · obtain ⟨hschedule, hrecalled⟩ := hsound h1 h2
    exact ⟨hschedule, fun p hp sl hk => hrecalled p.1 (hin hp) sl hk⟩
  · rw [honly]
    rfl

end

/-- Settles O40: a loaded campaign goes back to LOADED under the next run number, its slots recalled first where asked for. -/
theorem campaignStopReturnsToLoaded : Obligations.CampaignStopReturnsToLoaded := by
  unfold Obligations.CampaignStopReturnsToLoaded
  refine fun s tag cb c hs hcb => ⟨fun hempty => ⟨?_, ?_⟩, fun hstate => ?_, campaignStop_recalling tag hs hcb⟩
  · exact request_refused 0x54 tag [cb, 0] s campaignStop .state hs (by simp) (by decide) rfl
      (campaignStop_empty (s := atOwner s) hcb hempty false)
  · exact request_refused 0x54 tag [cb, 1] s campaignStop .state hs (by simp) (by decide) rfl
      (campaignStop_empty (s := atOwner s) hcb hempty true)
  · exact campaignStop_quiet tag hs hcb hstate

end Sys2Proof.Machine
end

section
/-! PROOFS. Campaigns: what each step makes of one channel, and the notices it raises (R124 to R137). -/

namespace Sys2Proof.Machine

/-! ### One channel changes -/

/-- Channel `c` is now `x`, the notices `ns` were raised, and the event is a trigger besides when `trig`; nothing else differs. -/
structure Became (c : Fin 4) (x : Channel) (ns : List NoticeBody) (trig : Bool) (s t : State) : Prop where
  only : t = { s with
    channels := s.channels.set c x, trigger := s.trigger || trig, outbox := t.outbox, noticesLost := t.noticesLost
    attn := t.attn }
  told : Raises ns s t

namespace Became

variable {c : Fin 4} {x : Channel} {ns : List NoticeBody} {trig : Bool} {s t : State}

theorem refl (c : Fin 4) (s : State) : Became c s.channels[c] [] false s s := by
  refine ⟨?_, .nothing rfl rfl rfl⟩
  rw [show s.channels.set c s.channels[c] = s.channels from Vector.set_getElem_self _, Bool.or_false]

theorem channel (h : Became c x ns trig s t) : t.channels[c] = x := by
  rw [h.only]
  simp

theorem luminaires (h : Became c x ns trig s t) : t.luminaires = s.luminaires := by rw [h.only]

theorem groups (h : Became c x ns trig s t) : t.groups = s.groups := by rw [h.only]

theorem mod {f : Channel → Channel} {y : Channel} (h : Became c x ns trig s t) (hy : f x = y) :
    Became c y ns trig s (modChan c f t) := by
  subst hy
  have hchannels : (modChan c f t).channels = s.channels.set c (f x) := by
    rw [modChan_channels, h.channel, h.only]
    simp
  refine ⟨?_, h.told.congr rfl rfl rfl rfl rfl rfl rfl rfl⟩
  rw [← hchannels]
  unfold modChan
  rw [h.only]

theorem raise (h : Became c x ns trig s t) (b : NoticeBody) : Became c x (ns ++ [b]) trig s (raise b t) := by
  have honly := raise_only b t
  unfold OnlyNotices at honly
  refine ⟨?_, h.told.append (raise_raises b t) (by rw [h.only]) (by rw [h.only]; rfl)⟩
  rw [honly, h.only]

theorem trigger (h : Became c x ns trig s t) : Became c x ns true s (triggerPass t) := by
  refine ⟨?_, h.told.congr rfl rfl rfl rfl rfl rfl rfl rfl⟩
  unfold triggerPass triggerIf
  rw [h.only, Bool.or_true, Bool.or_true]

theorem as {y : Channel} (h : Became c x ns trig s t) (hy : x = y) : Became c y ns trig s t := hy ▸ h

/-- With no notice the state is known. -/
theorem quiet (h : Became c x [] trig s t) :
    t = { s with channels := s.channels.set c x, trigger := s.trigger || trig } := by
  obtain ⟨houtbox, hlost, hattn⟩ := h.told
  have h1 : t.outbox = s.outbox := houtbox.trans (by simp)
  have h2 : t.noticesLost = s.noticesLost := hlost.trans (by simp)
  have h3 : t.attn = s.attn := hattn.trans (by simp)
  rw [h.only, h1, h2, h3]

end Became

/-- Notices that are not masked and find room all join the outbox (R185). -/
theorem Raises.all {ns : List NoticeBody} {s u : State} (h : Raises ns s u) (hmask : ∀ b ∈ ns, s.mask.getLsbD b.kind = false)
    (hroom : s.outbox.length + ns.length ≤ 32) : u.outbox = s.outbox ++ ns.map fun b => ⟨knownTime s, b⟩ := by
  obtain ⟨houtbox, -, -⟩ := h
  have hheard : (ns.filter fun b => !s.mask.getLsbD b.kind) = ns :=
    List.filter_eq_self.mpr fun b hb => by rw [hmask b hb]; rfl
  rw [houtbox, hheard, List.take_of_length_le (by rw [List.length_map]; omega)]

section
variable {c : Fin 4} {x : Channel} {ns : List NoticeBody} {trig : Bool} {s t : State}

/-! ### The end of a list, the finish watch, the hold -/

theorem halt_became (h : Became c x ns trig s t) (r : HaltReason) :
    Became c { x with state := .halted, haltReason := some r, takenUp := false, atPosition := false }
      (ns ++ [.halted c x.cursor r]) trig s (halt c r t) := by
  unfold halt
  rw [h.channel]
  refine (h.mod ?_).raise _
  rfl

theorem checkWatch_none (h : Became c x ns trig s t) (hwatch : x.finishWatch = []) : Became c x ns trig s (checkWatch c t) := by
  unfold checkWatch
  dsimp only
  rw [h.channel, hwatch]
  refine h.mod ?_
  rw [hwatch]
  exact congrArg (fun w => ({ x with finishWatch := w } : Channel)) hwatch.symm

theorem checkWatch_ended {e : Nat} (h : Became c x ns trig s t) (hwatch : x.finishWatch = [e]) (hheld : x.holdsTestOf e = false) :
    Became c { x with finishWatch := [] } (ns ++ [.positionFinished c e]) trig s (checkWatch c t) := by
  have hended : (x.finishWatch.filter fun e => !x.holdsTestOf e) = [e] := by
    rw [hwatch, List.filter_cons_of_pos (by rw [hheld]; rfl)]
    rfl
  have hkept : x.finishWatch.filter x.holdsTestOf = [] := by
    rw [hwatch, List.filter_cons_of_neg (by rw [hheld]; exact Bool.false_ne_true)]
    rfl
  unfold checkWatch
  dsimp only
  rw [h.channel, hended]
  refine (h.mod ?_).raise _
  rw [hkept]

theorem drainedDone_other (h : t.channels[c].state ≠ .draining) : drainedDone c t = t := if_neg fun hboth => h hboth.1

/-- A DRAINING campaign without a test in flight goes DONE (R137). -/
theorem drainedDone_done (h : Became c x ns trig s t) (hstate : x.state = .draining) (hempty : x.inFlight = [])
    (hqueued : x.restartQueued = false) :
    Became c { x with state := .done } (ns ++ [.done c x.run x.skipped x.unstarted]) trig s (drainedDone c t) := by
  unfold drainedDone
  dsimp only
  rw [h.channel, if_pos ⟨hstate, hempty⟩]
  unfold campaignDone
  dsimp only
  rw [h.channel, if_neg (ne_true_of_eq_false hqueued)]
  refine (h.mod ?_).raise _
  rfl

/-- A queued restart is taken as the campaign goes DONE (R137). -/
theorem drainedDone_restarted (h : Became c x ns trig s t) (hstate : x.state = .draining) (hempty : x.inFlight = [])
    (hqueued : x.restartQueued = true) :
    Became c (x.started x.restartBypass) (ns ++ [.done c x.run x.skipped x.unstarted] ++ [.restarted c x.run]) true s
      (drainedDone c t) := by
  unfold drainedDone
  dsimp only
  rw [h.channel, if_pos ⟨hstate, hempty⟩]
  unfold campaignDone
  dsimp only
  rw [h.channel, if_pos hqueued]
  have hdone := (h.mod (f := fun ch => { ch with state := .done }) rfl).raise (.done c x.run x.skipped x.unstarted)
  refine ((hdone.mod ?_).raise _).trigger
  rfl

/-- The end of the list with nothing in flight and nothing watched: the campaign is DONE (R137). -/
theorem endOfList_done (h : Became c x ns trig s t) (last cursor : Nat) (hempty : x.inFlight = []) (hwatch : x.finishWatch = [])
    (hposition : x.atPosition = false) (hqueued : x.restartQueued = false) :
    Became c { x with state := .done, cursor := cursor, takenUp := false } (ns ++ [.done c x.run x.skipped x.unstarted]) trig s
      (endOfList c last cursor t) := by
  have hdrains : Became c { x with state := .draining, cursor := cursor, takenUp := false } ns trig s (modChan c (fun ch =>
      { ch with
        state := .draining, cursor := cursor, takenUp := false, atPosition := false
        finishWatch := if ch.atPosition then insertNumber last ch.finishWatch else ch.finishWatch }) t) :=
    h.mod (by rw [hposition]; rfl)
  exact drainedDone_done (checkWatch_none hdrains hwatch) rfl hempty hqueued

/-! ### Taking up -/

theorem markTakenUp_became (h : Became c x ns trig s t) (hposition : x.stopPosition ≠ some x.cursor) :
    Became c { x with takenUp := true } ns trig s (markTakenUp c t) := by
  unfold markTakenUp
  dsimp only
  rw [h.channel, if_neg hposition, decide_eq_false hposition]
  refine h.mod ?_
  rw [Bool.or_false]

theorem takeUpAll_settled (fuel : Nat) (h : ¬ (t.channels[c].state = .running ∧ t.channels[c].takenUp = false)) :
    takeUpAll fuel c t = t := by
  cases fuel with
  | zero => rfl
  | succ fuel => exact if_neg h

/-- Nothing is taken up outside RUNNING, or with the entry taken up already. -/
theorem takeUp_settled (h : Became c x ns trig s t) (hx : x.state ≠ .running ∨ x.takenUp = true) : takeUp c t = t := by
  refine takeUpAll_settled 140 ?_
  rw [h.channel]
  rintro ⟨hrunning, hopen⟩
  rcases hx with hstate | htaken
  · exact hstate hrunning
  · rw [htaken] at hopen
    cases hopen

/-- One entry is taken up, and no further. -/
theorem takeUp_one {y : Channel} {ms : List NoticeBody} {trig' : Bool} (h : Became c x ns trig s t) (hrunning : x.state = .running)
    (hopen : x.takenUp = false) (hone : Became c y ms trig' s (takeUpOne c t)) (hy : y.state ≠ .running ∨ y.takenUp = true) :
    Became c y ms trig' s (takeUp c t) := by
  have hfirst : takeUp c t = takeUpAll 139 c (takeUpOne c t) :=
    if_pos (by rw [h.channel]; exact ⟨hrunning, hopen⟩)
  rw [hfirst, takeUpAll_settled 139 ?_]
  · exact hone
  · rw [hone.channel]
    rintro ⟨hstill, huntaken⟩
    rcases hy with hstate | htaken
    · exact hstate hstill
    · rw [htaken] at huntaken
      cases huntaken

theorem takeUpOne_test {e : Entry} {n : Nat} (h : Became c x ns trig s t) (hentry : x.entries[x.cursor]? = some e)
    (hkind : e.kind = .test n) : takeUpOne c t = examineTest c n (markTakenUp c t) := by
  unfold takeUpOne Channel.current
  dsimp only
  rw [h.channel, hentry]
  dsimp only
  rw [hkind]

theorem takeUpOne_group {e : Entry} {g : Nat} (h : Became c x ns trig s t) (hentry : x.entries[x.cursor]? = some e)
    (hkind : e.kind = .groupTest g) (hmarked : (markTakenUp c t).groups = s.groups) :
    (s.groups.get g = none → takeUpOne c t = halt c (.groupUndefined g) (markTakenUp c t)) ∧
    ∀ r, s.groups.get g = some r → takeUpOne c t =
      reachMember c (modChan c (fun ch => { ch with snapshot := r.members, member := 0 }) (markTakenUp c t)) := by
  unfold takeUpOne Channel.current
  dsimp only
  rw [h.channel, hentry]
  dsimp only
  rw [hkind, ← hmarked]
  dsimp only
  refine ⟨fun hnone => ?_, fun r hr => ?_⟩
  · rw [hnone]
  · rw [hr]

theorem takeUpOne_mark {e : Entry} (h : Became c x ns trig s t) (hentry : x.entries[x.cursor]? = some e) (hkind : e.kind = .mark) :
    takeUpOne c t = finishEntry c (raise (.markReached c x.cursor) (markTakenUp c t)) := by
  unfold takeUpOne Channel.current
  dsimp only
  rw [h.channel, hentry]
  dsimp only
  rw [hkind]

theorem takeUpOne_past (h : Became c x ns trig s t) (hentry : x.entries[x.cursor]? = none) :
    takeUpOne c t = endOfList c x.cursor x.entries.length t := by
  unfold takeUpOne Channel.current
  dsimp only
  rw [h.channel, hentry]

/-- A TEST of an enrolled luminaire in service is taken up (R126, R127). -/
theorem takeUp_test {e : Entry} {n : Nat} {l : Luminaire} (h : Became c x ns trig s t) (hrunning : x.state = .running)
    (hopen : x.takenUp = false) (hentry : x.entries[x.cursor]? = some e) (hkind : e.kind = .test n)
    (hl : s.luminaires.get n = some l) (hservice : l.state ≠ .outOfService) (hposition : x.stopPosition ≠ some x.cursor) :
    Became c { x with takenUp := true } ns trig s (takeUp c t) := by
  have hmarked := markTakenUp_became h hposition
  refine takeUp_one h hrunning hopen ?_ (.inr rfl)
  rw [takeUpOne_test h hentry hkind]
  unfold examineTest
  rw [hmarked.luminaires, hl]
  dsimp only
  rw [if_neg hservice]
  exact hmarked

/-- The campaign halts on an entry that cannot be tested (R127, R129, R140). -/
theorem takeUp_halts {e : Entry} {why : HaltReason} (h : Became c x ns trig s t) (hrunning : x.state = .running)
    (hopen : x.takenUp = false) (hentry : x.entries[x.cursor]? = some e) (hposition : x.stopPosition ≠ some x.cursor)
    (hwhy : (∃ n, why = .luminaireMissing n ∧ e.kind = .test n ∧ s.luminaires.get n = none) ∨
      (∃ n l, why = .luminaireOutOfService n ∧ e.kind = .test n ∧ s.luminaires.get n = some l ∧ l.state = .outOfService) ∨
      ∃ g, why = .groupUndefined g ∧ e.kind = .groupTest g ∧ s.groups.get g = none) :
    Became c { x with state := .halted, haltReason := some why, takenUp := false, atPosition := false }
      (ns ++ [.halted c x.cursor why]) trig s (takeUp c t) := by
  have hmarked := markTakenUp_became h hposition
  refine takeUp_one h hrunning hopen ?_ (.inl fun hstate => nomatch hstate)
  have hhalts : takeUpOne c t = halt c why (markTakenUp c t) := by
    rcases hwhy with ⟨n, rfl, hkind, hl⟩ | ⟨n, l, rfl, hkind, hl, hstate⟩ | ⟨g, rfl, hkind, hg⟩
    · rw [takeUpOne_test h hentry hkind]
      unfold examineTest
      rw [hmarked.luminaires, hl]
    · rw [takeUpOne_test h hentry hkind]
      unfold examineTest
      rw [hmarked.luminaires, hl]
      exact if_pos hstate
    · exact (takeUpOne_group h hentry hkind hmarked.groups).1 hg
  rw [hhalts]
  exact halt_became hmarked why

/-- A GROUP-TEST reaches its first member that is not skipped (R128, R129). -/
theorem takeUp_group {e : Entry} {g j : Nat} {r : Group} (h : Became c x ns trig s t) (hrunning : x.state = .running)
    (hopen : x.takenUp = false) (hentry : x.entries[x.cursor]? = some e) (hkind : e.kind = .groupTest g)
    (hg : s.groups.get g = some r) (hposition : x.stopPosition ≠ some x.cursor)
    (hskipped : (r.members.takeWhile (skips s)).length = j) (hj : j < r.members.length) :
    Became c { x with takenUp := true, snapshot := r.members, member := j, skipped := min (x.skipped + j) 255 } ns trig s
      (takeUp c t) := by
  have hmarked := markTakenUp_became h hposition
  have hsnap := hmarked.mod (f := fun ch => { ch with snapshot := r.members, member := 0 }) rfl
  refine takeUp_one h hrunning hopen ?_ (.inr rfl)
  rw [(takeUpOne_group h hentry hkind hmarked.groups).2 r hg]
  generalize modChan c (fun ch => { ch with snapshot := r.members, member := 0 }) (markTakenUp c t) = v at *
  have hskips : skips v = skips s := by
    funext n
    unfold skips
    rw [hsnap.luminaires]
  unfold reachMember
  dsimp only
  rw [hsnap.channel, hskips]
  dsimp only
  rw [List.drop_zero, hskipped, Nat.zero_add, if_neg (Nat.not_le.mpr hj)]
  refine hsnap.mod ?_
  dsimp only
  rw [Nat.zero_add]
  rfl

/-- A lone MARK ends the list: the campaign is DONE (R130, R137). -/
theorem takeUp_loneMark {e : Entry} (h : Became c x ns trig s t) (hrunning : x.state = .running) (hopen : x.takenUp = false)
    (hentries : x.entries = [e]) (hkind : e.kind = .mark) (hcursor : x.cursor = 0) (hposition : x.stopPosition ≠ some x.cursor)
    (hempty : x.inFlight = []) (hwatch : x.finishWatch = []) (hat : x.atPosition = false) (hqueued : x.restartQueued = false) :
    Became c { x with state := .done, cursor := 1 }
      (ns ++ [.markReached c 0] ++ [.done c x.run x.skipped x.unstarted]) trig s (takeUp c t) := by
  have hentry : x.entries[x.cursor]? = some e := by rw [hentries, hcursor]; rfl
  have hmarked := (markTakenUp_became h hposition).raise (.markReached c 0)
  refine takeUp_one h hrunning hopen ?_ (.inl fun hstate => nomatch hstate)
  have hends : takeUpOne c t = endOfList c 0 1 (raise (.markReached c 0) (markTakenUp c t)) := by
    rw [takeUpOne_mark h hentry hkind, hcursor]
    unfold finishEntry
    dsimp only
    rw [hmarked.channel]
    dsimp only
    rw [hcursor, hentries, if_pos (.inr (.inr (Nat.le_refl 1)))]
  rw [hends]
  exact (endOfList_done hmarked 0 1 hempty hwatch hat hqueued).as
    (congrArg (fun b => ({ x with state := .done, cursor := 1, takenUp := b } : Channel)) hopen.symm)

/-- An empty list has ended at once: the campaign is DONE (R126, R137). -/
theorem takeUp_noEntry (h : Became c x ns trig s t) (hrunning : x.state = .running) (hopen : x.takenUp = false)
    (hentries : x.entries = []) (hcursor : x.cursor = 0) (hempty : x.inFlight = []) (hwatch : x.finishWatch = [])
    (hat : x.atPosition = false) (hqueued : x.restartQueued = false) :
    Became c { x with state := .done } (ns ++ [.done c x.run x.skipped x.unstarted]) trig s (takeUp c t) := by
  have hentry : x.entries[x.cursor]? = none := by rw [hentries]; rfl
  refine takeUp_one h hrunning hopen ?_ (.inl fun hstate => nomatch hstate)
  have hends : takeUpOne c t = endOfList c 0 0 t := by rw [takeUpOne_past h hentry, hentries, hcursor]; rfl
  rw [hends]
  have hsame : ({ x with state := .done, cursor := 0, takenUp := false } : Channel) = { x with state := .done } := by
    rw [← hopen, ← hcursor]
  exact (endOfList_done h 0 0 hempty hwatch hat hqueued).as hsame

end

end Sys2Proof.Machine
end

section
/-! PROOFS. CAMPAIGN-START (R124 to R130, R137). -/

namespace Sys2Proof.Machine

/-! ### Replies of a request that changed one channel -/

/-- The part that a channel's change leaves, with the reply `r` going out. -/
theorem Became.replied {c : Fin 4} {x : Channel} {ns : List NoticeBody} {trig : Bool} {s t : State} (r : Reply)
    (h : Became c x ns trig (atOwner s) t) :
    { t with sending := some r } = { answered s r with
      channels := s.channels.set c x, trigger := trig, outbox := t.outbox, noticesLost := t.noticesLost, attn := t.attn } := by
  have honly := h.only
  rw [show (atOwner s).trigger = false from rfl, Bool.false_or] at honly
  rw [honly]
  rfl

theorem Became.replied_quiet {c : Fin 4} {x : Channel} {trig : Bool} {s t : State} (r : Reply)
    (h : Became c x [] trig (atOwner s) t) :
    { t with sending := some r } = { answered s r with channels := s.channels.set c x, trigger := trig } := by
  have hquiet := h.quiet
  rw [show (atOwner s).trigger = false from rfl, Bool.false_or] at hquiet
  rw [hquiet]
  rfl

/-- All the notices raised beside a request's reply. -/
theorem Became.outbox {c : Fin 4} {x : Channel} {ns : List NoticeBody} {trig : Bool} {s t : State}
    (h : Became c x ns trig (atOwner s) t) (hmask : ∀ b ∈ ns, s.mask.getLsbD b.kind = false)
    (hroom : s.outbox.length + ns.length ≤ 32) : t.outbox = s.outbox ++ ns.map fun b => ⟨knownTime s, b⟩ :=
  Raises.all h.told hmask hroom

section
variable {c : Fin 4} {x : Channel} {ns : List NoticeBody} {trig : Bool} {s t : State} {kind : Nat} {tag : Byte}
  {body out : List Byte} {owner : List Byte → State → State × Answer}

/-- A request whose owner changed one channel. -/
theorem request_became (hs : Serves s) (hb : body.length ≤ 248) (hk : kind < 256) (ho : ownerOf kind tag = some owner)
    (howner : owner body (atOwner s) = (t, .done out)) (h : Became c x ns trig (atOwner s) t) :
    request kind tag body s = .next (settle { t with sending := some (doneReply tag out) }) :=
  request_done_settle kind tag body s t owner out hs hb hk ho howner (by rw [h.only]; exact hs.2.1) (by rw [h.only]; rfl)

/-- The same with no notice raised. -/
theorem request_became_quiet (hs : Serves s) (hb : body.length ≤ 248) (hk : kind < 256) (ho : ownerOf kind tag = some owner)
    (howner : owner body (atOwner s) = (t, .done out)) (h : Became c x [] trig (atOwner s) t) :
    request kind tag body s =
      .next (settle { answered s (doneReply tag out) with channels := s.channels.set c x, trigger := trig }) := by
  rw [request_became hs hb hk ho howner h, h.replied_quiet]

/-- The same with no pass after it. -/
theorem request_became_untriggered (hs : Serves s) (hb : body.length ≤ 248) (hk : kind < 256)
    (ho : ownerOf kind tag = some owner) (howner : owner body (atOwner s) = (t, .done out))
    (h : Became c x [] false (atOwner s) t) :
    request kind tag body s = .next { answered s (doneReply tag out) with channels := s.channels.set c x } := by
  rw [request_became_quiet hs hb hk ho howner h, settle_of_no_trigger _ rfl]
  rfl

end

/-! ### CAMPAIGN-START -/

theorem exec_campaignStart (tag : Byte) (body : List Byte) (s : State) :
    exec (.campaignStart tag body) s = request 0x51 tag body s := rfl

section
variable {c : Fin 4} {cb : Byte} {bypass : Bool} {s : State}

theorem campaignStart_refused (hcb : cb.toNat = c) (h : s.channels[c].state = .empty ∨ s.channels[c].state = .halted) :
    campaignStart [cb, if bypass then 1 else 0] s = (s, .refused .state) := by
  unfold campaignStart
  dsimp only
  rw [channelOf_of_toNat_eq hcb, flagOf_ite]
  dsimp only
  rcases h with h | h <;> rw [h]

/-- A restart is queued for the campaign (R125). -/
def restartLater (c : Fin 4) (bypass : Bool) (s : State) : State :=
  modChan c (fun ch => { ch with restartQueued := true, restartBypass := bypass }) s

theorem startReply_restartLater : startReply c (restartLater c bypass s) = .done [s.channels[c].state.code, 1] := by
  unfold startReply restartLater
  rw [modChan_at]
  rfl

theorem campaignStart_queues (hcb : cb.toNat = c) (h : s.channels[c].state = .running ∨ s.channels[c].state = .held ∨
    s.channels[c].state = .paused ∨ s.channels[c].state = .draining) : campaignStart [cb, if bypass then 1 else 0] s =
      (restartLater c bypass s, startReply c (restartLater c bypass s)) := by
  unfold campaignStart
  dsimp only
  rw [channelOf_of_toNat_eq hcb, flagOf_ite]
  dsimp only
  rcases h with h | h | h | h <;> rw [h] <;> rfl

theorem campaignStart_impossible (tag : Byte) (hs : Serves s) (hcb : cb.toNat = c)
    (h : s.channels[c].state = .empty ∨ s.channels[c].state = .halted) :
    exec (.campaignStart tag [cb, if bypass then 1 else 0]) s = .next (answered s (refusal tag .state)) :=
  request_refused 0x51 tag _ s campaignStart .state hs (by simp) (by decide) rfl
    (campaignStart_refused (s := atOwner s) hcb h)

theorem campaignStart_again (tag : Byte) (hs : Serves s) (hcb : cb.toNat = c)
    (h : s.channels[c].state = .running ∨ s.channels[c].state = .held ∨ s.channels[c].state = .paused ∨
      s.channels[c].state = .draining) : exec (.campaignStart tag [cb, if bypass then 1 else 0]) s =
      .next { answered s (doneReply tag [s.channels[c].state.code, 1]) with
        channels := s.channels.set c { s.channels[c] with restartQueued := true, restartBypass := bypass } } := by
  have howner := campaignStart_queues (bypass := bypass) (s := atOwner s) hcb h
  rw [startReply_restartLater] at howner
  exact request_became_untriggered hs (by simp) (by decide) rfl howner ((Became.refl c (atOwner s)).mod rfl)

/-- The campaign begins: RUNNING at entry 0, which is taken up (R124). -/
def begun (c : Fin 4) (bypass : Bool) (s : State) : State :=
  takeUp c (triggerPass (modChan c (fun ch => ch.started bypass) s))

theorem campaignStart_begins (hcb : cb.toNat = c) (h : s.channels[c].state = .loaded ∨ s.channels[c].state = .done) :
    campaignStart [cb, if bypass then 1 else 0] s = (begun c bypass s, startReply c (begun c bypass s)) := by
  unfold campaignStart
  dsimp only
  rw [channelOf_of_toNat_eq hcb, flagOf_ite]
  dsimp only
  rcases h with h | h <;> rw [h] <;> rfl

theorem started_became (c : Fin 4) (bypass : Bool) (s : State) : Became c (s.channels[c].started bypass) [] true s
    (triggerPass (modChan c (fun ch => ch.started bypass) s)) :=
  ((Became.refl c s).mod (f := fun ch => ch.started bypass) rfl).trigger

/-- CAMPAIGN-START from LOADED or DONE, told by what the take-up of entry 0 comes to. -/
theorem campaignStart_done {x : Channel} {ns : List NoticeBody} (tag : Byte) (hs : Serves s) (hcb : cb.toNat = c)
    (hstate : s.channels[c].state = .loaded ∨ s.channels[c].state = .done)
    (h : Became c x ns true (atOwner s) (begun c bypass (atOwner s))) :
    exec (.campaignStart tag [cb, if bypass then 1 else 0]) s = .next (settle { begun c bypass (atOwner s) with
      sending := some (doneReply tag ([x.state.code] ++ flag x.restartQueued)) }) := by
  have howner := campaignStart_begins (bypass := bypass) (s := atOwner s) hcb hstate
  have hreply : startReply c (begun c bypass (atOwner s)) = .done ([x.state.code] ++ flag x.restartQueued) := by
    unfold startReply
    rw [h.channel]
  rw [hreply] at howner
  exact request_became hs (by simp) (by decide) rfl howner h

/-- The same with no notice raised. -/
theorem campaignStart_quiet {x : Channel} (tag : Byte) (hs : Serves s) (hcb : cb.toNat = c)
    (hstate : s.channels[c].state = .loaded ∨ s.channels[c].state = .done)
    (h : Became c x [] true (atOwner s) (begun c bypass (atOwner s))) :
    exec (.campaignStart tag [cb, if bypass then 1 else 0]) s =
      .next (settle { answered s (doneReply tag ([x.state.code] ++ flag x.restartQueued)) with
        channels := s.channels.set c x, trigger := true }) := by
  rw [campaignStart_done tag hs hcb hstate h, h.replied_quiet]

/-- The same with the notices `ns` raised. -/
theorem campaignStart_told {x : Channel} {ns : List NoticeBody} (tag : Byte) (hs : Serves s) (hcb : cb.toNat = c)
    (hstate : s.channels[c].state = .loaded ∨ s.channels[c].state = .done)
    (h : Became c x ns true (atOwner s) (begun c bypass (atOwner s))) :
    ∃ u, exec (.campaignStart tag [cb, if bypass then 1 else 0]) s = .next (settle u) ∧
      u = { answered s (doneReply tag ([x.state.code] ++ flag x.restartQueued)) with
        channels := s.channels.set c x, trigger := true, outbox := u.outbox, noticesLost := u.noticesLost, attn := u.attn } ∧
      ((∀ b ∈ ns, s.mask.getLsbD b.kind = false) → s.outbox.length + ns.length ≤ 32 →
        u.outbox = s.outbox ++ ns.map fun b => ⟨knownTime s, b⟩) :=
  ⟨_, campaignStart_done tag hs hcb hstate h, h.replied _, h.outbox⟩

/-! ### The first entry -/

theorem begun_halts {e : Entry} {why : HaltReason} (hentry : s.channels[c].entries[0]? = some e)
    (hposition : s.channels[c].stopPosition ≠ some 0)
    (hwhy : (∃ n, why = .luminaireMissing n ∧ e.kind = .test n ∧ s.luminaires.get n = none) ∨
      (∃ n l, why = .luminaireOutOfService n ∧ e.kind = .test n ∧ s.luminaires.get n = some l ∧ l.state = .outOfService) ∨
      ∃ g, why = .groupUndefined g ∧ e.kind = .groupTest g ∧ s.groups.get g = none) :
    Became c { s.channels[c].started bypass with state := .halted, haltReason := some why } [.halted c 0 why] true s
      (begun c bypass s) :=
  takeUp_halts (started_became c bypass s) rfl rfl hentry hposition hwhy

/-- The members before the first that is tested are those that are skipped (R129). -/
theorem takeWhile_length {p : Nat → Bool} {ms : List Nat} {j m : Nat} (hm : ms[j]? = some m) (hstop : p m = false)
    (hbefore : ∀ i, i < j → ∀ y, ms[i]? = some y → p y = true) : (ms.takeWhile p).length = j := by
  induction ms generalizing j with
  | nil => cases hm
  | cons y ms ih =>
    cases j with
    | zero =>
      obtain rfl := Option.some.inj hm
      rw [List.takeWhile_cons_of_neg (ne_true_of_eq_false hstop)]
      rfl
    | succ j =>
      rw [List.takeWhile_cons_of_pos (hbefore 0 (Nat.succ_pos j) y rfl)]
      exact congrArg Nat.succ (ih hm fun i hi z hz => hbefore (i + 1) (Nat.succ_lt_succ hi) z hz)

theorem skips_missing {n : Nat} (h : s.luminaires.get n = none) : skips s n = true := by
  unfold skips
  rw [h]
  rfl

theorem skips_used {n : Nat} {l : Luminaire} (h : s.luminaires.get n = some l) :
    skips s n = decide (l.state = .outOfService) := by
  unfold skips
  rw [h, Option.any_some]
  by_cases hstate : l.state = .outOfService
  · rw [hstate]
    rfl
  · rw [decide_eq_false hstate, bne_iff_ne.mpr hstate]
    rfl

theorem begun_group {e : Entry} {g j m : Nat} {r : Group} {l : Luminaire} (hentry : s.channels[c].entries[0]? = some e)
    (hkind : e.kind = .groupTest g) (hg : s.groups.get g = some r) (hm : r.members[j]? = some m)
    (hl : s.luminaires.get m = some l) (hservice : l.state ≠ .outOfService)
    (hskipped : ∀ i, i < j → ∀ y, r.members[i]? = some y → ∀ z, s.luminaires.get y = some z → z.state = .outOfService)
    (hposition : s.channels[c].stopPosition ≠ some 0) :
    Became c { s.channels[c].started bypass with
      takenUp := true, snapshot := r.members, member := j, skipped := min j 255 } [] true s (begun c bypass s) := by
  obtain ⟨hj, -⟩ := List.getElem?_eq_some_iff.mp hm
  have hlength : (r.members.takeWhile (skips s)).length = j := by
    refine takeWhile_length hm ?_ fun i hi y hy => ?_
    · rw [skips_used hl, decide_eq_false hservice]
    · cases hz : s.luminaires.get y with
      | none => exact skips_missing hz
      | some z => rw [skips_used hz, decide_eq_true (hskipped i hi y hy z hz)]
  have htaken := takeUp_group (started_became c bypass s) rfl rfl hentry hkind hg hposition hlength hj
  exact htaken.as (by rw [show (s.channels[c].started bypass).skipped = 0 from rfl, Nat.zero_add])

theorem begun_test {e : Entry} {n : Nat} {l : Luminaire} (hentry : s.channels[c].entries[0]? = some e)
    (hkind : e.kind = .test n) (hl : s.luminaires.get n = some l) (hservice : l.state ≠ .outOfService)
    (hposition : s.channels[c].stopPosition ≠ some 0) :
    Became c { s.channels[c].started bypass with takenUp := true } [] true s (begun c bypass s) :=
  takeUp_test (started_became c bypass s) rfl rfl hentry hkind hl hservice hposition

theorem begun_loneMark {e : Entry} (hentries : s.channels[c].entries = [e]) (hkind : e.kind = .mark)
    (hempty : s.channels[c].inFlight = []) (hposition : s.channels[c].stopPosition ≠ some 0) :
    Became c { s.channels[c].started bypass with state := .done, cursor := 1 }
      [.markReached c 0, .done c s.channels[c].run 0 0] true s (begun c bypass s) :=
  takeUp_loneMark (started_became c bypass s) rfl rfl hentries hkind rfl hposition hempty rfl rfl rfl

theorem begun_empty (hentries : s.channels[c].entries = []) (hempty : s.channels[c].inFlight = []) :
    Became c { s.channels[c].started bypass with state := .done } [.done c s.channels[c].run 0 0] true s (begun c bypass s) :=
  takeUp_noEntry (started_became c bypass s) rfl rfl hentries rfl hempty rfl rfl rfl

end

/-- Settles O37: CAMPAIGN-START begins a LOADED or DONE campaign with entry 0 and queues a restart of one under way. -/
theorem campaignStartRunsOrQueues : Obligations.CampaignStartRunsOrQueues := by
  unfold Obligations.CampaignStartRunsOrQueues
  intro s tag cb fb c bypass hs hcb hfb
  subst hfb
  dsimp only
  refine ⟨fun hstate => ?_, fun hstate => ?_, fun n l e hstate hentry hkind hl hservice hposition => ?_,
    fun n e hstate hentry hkind hl hposition => ?_, fun why e hstate hentry hposition hwhy => ?_,
    fun e g r j m x hstate hentry hkind hg hm hx hservice hskipped hposition => ?_,
    fun e hstate hentries hkind hempty hposition => ?_, fun hstate hentries hempty => ?_⟩
  · exact campaignStart_impossible tag hs hcb hstate
  · exact campaignStart_again tag hs hcb hstate
  · exact campaignStart_quiet tag hs hcb hstate (begun_test (s := atOwner s) hentry hkind hl hservice hposition)
  · obtain ⟨u, hexec, hu, hout⟩ := campaignStart_told tag hs hcb hstate
      (begun_halts (s := atOwner s) (bypass := bypass) hentry hposition (.inl ⟨n, rfl, hkind, hl⟩))
    exact ⟨u, hexec, hu, fun hmask hroom => hout (List.forall_mem_singleton.mpr hmask) hroom⟩
  · obtain ⟨u, hexec, hu, hout⟩ := campaignStart_told tag hs hcb hstate
      (begun_halts (s := atOwner s) (bypass := bypass) hentry hposition (.inr hwhy))
    exact ⟨u, hexec, hu, fun hmask hroom => hout (List.forall_mem_singleton.mpr hmask) hroom⟩
  · exact campaignStart_quiet tag hs hcb hstate
      (begun_group (s := atOwner s) hentry hkind hg hm hx hservice hskipped hposition)
  · obtain ⟨u, hexec, hu, hout⟩ := campaignStart_told tag hs hcb hstate
      (begun_loneMark (s := atOwner s) (bypass := bypass) hentries hkind hempty hposition)
    exact ⟨u, hexec, hu, fun hmark hdone hroom =>
      hout (List.forall_mem_cons.mpr ⟨hmark, List.forall_mem_singleton.mpr hdone⟩) (Nat.succ_le_succ hroom)⟩
  · obtain ⟨u, hexec, hu, hout⟩ := campaignStart_told tag hs hcb hstate
      (begun_empty (s := atOwner s) (bypass := bypass) hentries hempty)
    exact ⟨u, hexec, hu, fun hmask hroom => hout (List.forall_mem_singleton.mpr hmask) hroom⟩

end Sys2Proof.Machine
end

section
/-! PROOFS. What a campaign makes of the release of one of its slots (R134 to R137). -/

namespace Sys2Proof.Machine

section
variable {c : Fin 4} {x : Channel} {ns : List NoticeBody} {trig : Bool} {s t : State}

theorem Became.untriggered (h : Became c x ns false s t) :
    t = { s with channels := s.channels.set c x, outbox := t.outbox, noticesLost := t.noticesLost, attn := t.attn } := by
  have honly := h.only
  rw [Bool.or_false] at honly
  exact honly

theorem Became.triggered (h : Became c x ns true s t) : t = { s with
    channels := s.channels.set c x, trigger := true, outbox := t.outbox, noticesLost := t.noticesLost, attn := t.attn } := by
  have honly := h.only
  rw [Bool.or_true] at honly
  exact honly

/-! ### The hold -/

theorem endHold_none (h : Became c x ns trig s t) (hheld : x.heldEntry = none) : endHold c t = t := by
  unfold endHold
  dsimp only
  rw [h.channel, hheld]

theorem endHold_goesOn {e : Nat} (h : Became c x ns trig s t) (hheld : x.heldEntry = some e) (htest : x.holdsTestOf e = true) :
    endHold c t = t := by
  unfold endHold
  dsimp only
  rw [h.channel, hheld]
  exact if_pos htest

theorem endHold_clears {e : Nat} (h : Became c x ns trig s t) (hheld : x.heldEntry = some e) (htest : x.holdsTestOf e = false)
    (hstate : x.state ≠ .held) : Became c { x with heldEntry := none } ns trig s (endHold c t) := by
  have hclears : endHold c t = modChan c (fun ch => { ch with heldEntry := none }) t := by
    unfold endHold
    dsimp only
    rw [h.channel, hheld]
    dsimp only
    rw [if_neg (ne_true_of_eq_false htest), if_neg hstate]
  rw [hclears]
  exact h.mod rfl

/-- The last test of a held entry is over: the campaign runs and takes up its entry, a TEST (R134, R136). -/
theorem endHold_ends {e n : Nat} {e' : Entry} {l : Luminaire} (h : Became c x ns trig s t) (hheld : x.heldEntry = some e)
    (htest : x.holdsTestOf e = false) (hstate : x.state = .held) (hopen : x.takenUp = false)
    (hentry : x.entries[x.cursor]? = some e') (hkind : e'.kind = .test n) (hl : s.luminaires.get n = some l)
    (hservice : l.state ≠ .outOfService) (hposition : x.stopPosition ≠ some x.cursor) :
    Became c { x with state := .running, heldEntry := none, takenUp := true } (ns ++ [.holdReleased c e]) true s
      (endHold c t) := by
  have hends : endHold c t = takeUp c (triggerPass (raise (.holdReleased c e)
      (modChan c (fun ch => { ch with state := .running, heldEntry := none }) t))) := by
    unfold endHold
    dsimp only
    rw [h.channel, hheld]
    dsimp only
    rw [if_neg (ne_true_of_eq_false htest), if_pos hstate]
  have hruns : Became c { x with state := .running, heldEntry := none } (ns ++ [.holdReleased c e]) true s
      (triggerPass (raise (.holdReleased c e) (modChan c (fun ch => { ch with state := .running, heldEntry := none }) t))) :=
    ((h.mod (f := fun ch => { ch with state := .running, heldEntry := none }) rfl).raise _).trigger
  rw [hends]
  exact takeUp_test hruns rfl hopen hentry hkind hl hservice hposition

end

/-! ### The slot leaves the in-flight list -/

/-- The channel once slot `k` has left its in-flight list (R136). -/
def Channel.without (ch : Channel) (k : Nat) (hasResult : Bool) : Channel :=
  { ch with
    inFlight := ch.inFlight.filter fun p => p.1 != k
    unstarted := if hasResult then ch.unstarted else min (ch.unstarted + 1) 255 }

section
variable {c : Fin 4} {k e : Nat} {hasResult : Bool} {s : State}

theorem campaignReleased_foreign (h : ∀ p ∈ s.channels[c].inFlight, p.1 ≠ k) : campaignReleased c k hasResult s = s := by
  refine if_neg fun hany => ?_
  obtain ⟨p, hp, hk⟩ := List.any_eq_true.mp hany
  exact h p hp (beq_iff_eq.mp hk)

/-- The state in which the campaign has just lost slot `k`. -/
def slotGone (c : Fin 4) (k : Nat) (hasResult : Bool) (s : State) : State := modChan c (fun ch => ch.without k hasResult) s

theorem slotGone_became (c : Fin 4) (k : Nat) (hasResult : Bool) (s : State) :
    Became c (s.channels[c].without k hasResult) [] false s (slotGone c k hasResult s) :=
  (Became.refl c s).mod (f := fun ch => ch.without k hasResult) rfl

theorem campaignReleased_own (h : (k, e) ∈ s.channels[c].inFlight) : campaignReleased c k hasResult s =
    takeUp c (drainedDone c (checkWatch c (endHold c (slotGone c k hasResult s)))) :=
  if_pos (List.any_eq_true.mpr ⟨(k, e), h, beq_self_eq_true k⟩)

theorem holdsTestOf_without (ch : Channel) (k e : Nat) (hasResult : Bool) :
    (ch.without k hasResult).holdsTestOf e = true ↔ ∃ p ∈ ch.inFlight, p.1 ≠ k ∧ p.2 = e := by
  unfold Channel.without Channel.holdsTestOf
  simp only [List.any_filter, List.any_eq_true, Bool.and_eq_true, bne_iff_ne, beq_iff_eq]

theorem holdsTestOf_last {ch : Channel} (h : ∀ p ∈ ch.inFlight, p.1 ≠ k → p.2 ≠ e) :
    (ch.without k hasResult).holdsTestOf e = false := by
  refine Bool.eq_false_iff.mpr fun htest => ?_
  obtain ⟨p, hp, hk, he⟩ := (holdsTestOf_without ch k e hasResult).mp htest
  exact h p hp hk he

theorem without_only {ch : Channel} (h : ch.inFlight = [(k, e)]) : (ch.without k hasResult).inFlight = [] := by
  unfold Channel.without
  rw [h]
  exact List.filter_cons_of_neg (p := fun p : Nat × Nat => p.1 != k) (by simp)

/-- Another test of the held entry is still in flight: the campaign stays HELD (R134). -/
theorem released_holds (hin : (k, e) ∈ s.channels[c].inFlight) (hmore : ∃ p ∈ s.channels[c].inFlight, p.1 ≠ k ∧ p.2 = e)
    (hstate : s.channels[c].state = .held) (hheld : s.channels[c].heldEntry = some e)
    (hwatch : s.channels[c].finishWatch = []) :
    campaignReleased c k hasResult s = { s with channels := s.channels.set c (s.channels[c].without k hasResult) } := by
  have hgone := slotGone_became c k hasResult s
  rw [campaignReleased_own hin, endHold_goesOn hgone hheld ((holdsTestOf_without _ k e hasResult).mpr hmore)]
  have hwatched := checkWatch_none hgone hwatch
  have hstill : (s.channels[c].without k hasResult).state = .held := hstate
  rw [drainedDone_other (by rw [hwatched.channel, hstill]; exact fun h => nomatch h),
    takeUp_settled hwatched (.inl (by rw [hstill]; exact fun h => nomatch h)), hwatched.quiet, Bool.or_false]

theorem released_endsHold {n : Nat} {e' : Entry} {l : Luminaire} (hin : (k, e) ∈ s.channels[c].inFlight)
    (hlast : ∀ p ∈ s.channels[c].inFlight, p.1 ≠ k → p.2 ≠ e) (hstate : s.channels[c].state = .held)
    (hheld : s.channels[c].heldEntry = some e) (hwatch : s.channels[c].finishWatch = []) (hopen : s.channels[c].takenUp = false)
    (hentry : s.channels[c].entries[s.channels[c].cursor]? = some e') (hkind : e'.kind = .test n)
    (hl : s.luminaires.get n = some l) (hservice : l.state ≠ .outOfService)
    (hposition : s.channels[c].stopPosition ≠ some s.channels[c].cursor) :
    Became c { s.channels[c].without k hasResult with state := .running, heldEntry := none, takenUp := true }
      [.holdReleased c e] true s (campaignReleased c k hasResult s) := by
  have hended := endHold_ends (slotGone_became c k hasResult s) hheld (holdsTestOf_last hlast) hstate hopen hentry hkind hl
    hservice hposition
  have hwatched := checkWatch_none hended hwatch
  rw [campaignReleased_own hin, drainedDone_other (by rw [hwatched.channel]; exact fun h => nomatch h),
    takeUp_settled hwatched (.inr rfl)]
  exact hwatched

/-- The last test of a watched entry is over while the campaign is PAUSED (R135). -/
theorem released_endsWatch (hin : (k, e) ∈ s.channels[c].inFlight) (hlast : ∀ p ∈ s.channels[c].inFlight, p.1 ≠ k → p.2 ≠ e)
    (hstate : s.channels[c].state = .paused) (hwatch : s.channels[c].finishWatch = [e])
    (hheld : s.channels[c].heldEntry = none ∨ s.channels[c].heldEntry = some e) :
    Became c { s.channels[c].without k hasResult with finishWatch := [], heldEntry := none } [.positionFinished c e] false s
      (campaignReleased c k hasResult s) := by
  have hgone := slotGone_became c k hasResult s
  have htest : (s.channels[c].without k hasResult).holdsTestOf e = false := holdsTestOf_last hlast
  have hstill : (s.channels[c].without k hasResult).state = .paused := hstate
  have hended : Became c { s.channels[c].without k hasResult with heldEntry := none } [] false s
      (endHold c (slotGone c k hasResult s)) := by
    rcases hheld with hheld | hheld
    · rw [endHold_none hgone hheld]
      exact hgone.as (congrArg (fun o => ({ s.channels[c].without k hasResult with heldEntry := o } : Channel)) hheld)
    · exact endHold_clears hgone hheld htest (by rw [hstill]; exact fun h => nomatch h)
  have hwatched := checkWatch_ended hended hwatch htest
  rw [campaignReleased_own hin, drainedDone_other (by rw [hwatched.channel]; exact fun h => nomatch hstill.symm.trans h),
    takeUp_settled hwatched (.inl fun h => nomatch hstill.symm.trans h)]
  exact hwatched

/-- The last test of a DRAINING campaign is over (R136, R137). -/
theorem released_drains (hin : s.channels[c].inFlight = [(k, e)]) (hstate : s.channels[c].state = .draining)
    (hwatch : s.channels[c].finishWatch = []) (hheld : s.channels[c].heldEntry = none)
    (hqueued : s.channels[c].restartQueued = false) :
    Became c { s.channels[c].without k hasResult with state := .done }
      [.done c s.channels[c].run s.channels[c].skipped (s.channels[c].without k hasResult).unstarted] false s
      (campaignReleased c k hasResult s) := by
  have hgone := slotGone_became c k hasResult s
  have hdone := drainedDone_done (checkWatch_none hgone hwatch) hstate (without_only hin) hqueued
  rw [campaignReleased_own (e := e) (by rw [hin]; exact List.mem_cons_self), endHold_none hgone hheld,
    takeUp_settled hdone (.inl fun h => nomatch h)]
  exact hdone

/-- A queued restart follows it (R137). -/
theorem released_restarts {n : Nat} {e' : Entry} {l : Luminaire} (hin : s.channels[c].inFlight = [(k, e)])
    (hstate : s.channels[c].state = .draining) (hwatch : s.channels[c].finishWatch = []) (hheld : s.channels[c].heldEntry = none)
    (hqueued : s.channels[c].restartQueued = true) (hentry : s.channels[c].entries[0]? = some e') (hkind : e'.kind = .test n)
    (hl : s.luminaires.get n = some l) (hservice : l.state ≠ .outOfService) (hposition : s.channels[c].stopPosition ≠ some 0) :
    Became c { s.channels[c].without k hasResult with
        state := .running, bypass := s.channels[c].restartBypass, cursor := 0, member := 0, takenUp := true, atPosition := false
        skipped := 0, unstarted := 0, haltReason := none, finishWatch := [], restartQueued := false }
      [.done c s.channels[c].run s.channels[c].skipped (s.channels[c].without k hasResult).unstarted, .restarted c s.channels[c].run]
      true s (campaignReleased c k hasResult s) := by
  have hgone := slotGone_became c k hasResult s
  have hdone := drainedDone_restarted (checkWatch_none hgone hwatch) hstate (without_only hin) hqueued
  rw [campaignReleased_own (e := e) (by rw [hin]; exact List.mem_cons_self), endHold_none hgone hheld]
  refine (takeUp_test hdone rfl rfl hentry hkind hl hservice hposition).as ?_
  exact congrArg (fun o => ({ s.channels[c].without k hasResult with
    state := .running, bypass := s.channels[c].restartBypass, cursor := 0, member := 0, takenUp := true, atPosition := false
    skipped := 0, unstarted := 0, haltReason := none, finishWatch := [], restartQueued := false
    heldEntry := o } : Channel)) hheld.symm

end

/-- The notices of a release, told with their stamp. -/
theorem Became.told_all {c : Fin 4} {x : Channel} {ns : List NoticeBody} {trig : Bool} {s t : State}
    (h : Became c x ns trig s t) (hmask : ∀ b ∈ ns, s.mask.getLsbD b.kind = false)
    (hroom : s.outbox.length + ns.length ≤ 32) : t.outbox = s.outbox ++ ns.map fun b => ⟨knownTime s, b⟩ :=
  Raises.all h.told hmask hroom

end Sys2Proof.Machine
end

section
/-! PROOFS. CAMPAIGN-PAUSE and SET-STOP-POSITION (R135, R138), with the releases of R134 to R137. -/

namespace Sys2Proof.Machine

theorem exec_campaignPause (tag : Byte) (body : List Byte) (s : State) :
    exec (.campaignPause tag body) s = request 0x52 tag body s := rfl

theorem exec_setStopPosition (tag : Byte) (body : List Byte) (s : State) :
    exec (.setStopPosition tag body) s = request 0x55 tag body s := rfl

section
variable {c : Fin 4} {cb i : Byte} {s : State}

/-! ### CAMPAIGN-PAUSE -/

/-- The campaign is PAUSED (R138). -/
def pausedNow (c : Fin 4) (s : State) : State := modChan c (fun ch => { ch with state := .paused }) s

theorem pausedNow_became (c : Fin 4) (s : State) :
    Became c { s.channels[c] with state := .paused } [] false s (pausedNow c s) :=
  (Became.refl c s).mod (f := fun ch => { ch with state := .paused }) rfl

theorem campaignPause_eq (hcb : cb.toNat = c) {x : CampaignState} (h : s.channels[c].state = x) :
    (x = .running → campaignPause [cb] s = (pausedNow c s, .done [])) ∧
    (x = .held → campaignPause [cb] s = (triggerPass (pausedNow c s), .done [])) ∧
    (x = .paused → campaignPause [cb] s = (s, .done [])) ∧
    (x ≠ .running → x ≠ .held → x ≠ .paused → campaignPause [cb] s = (s, .refused .state)) := by
  unfold campaignPause
  dsimp only
  rw [channelOf_of_toNat_eq hcb]
  dsimp only
  rw [h]
  cases x <;> simp [pausedNow]

theorem campaignPause_running (tag : Byte) (hs : Serves s) (hcb : cb.toNat = c) (h : s.channels[c].state = .running) :
    exec (.campaignPause tag [cb]) s =
      .next { answered s (doneReply tag []) with channels := s.channels.set c { s.channels[c] with state := .paused } } :=
  request_became_untriggered hs (by simp) (by decide) rfl ((campaignPause_eq (s := atOwner s) hcb h).1 rfl)
    (pausedNow_became c (atOwner s))

theorem campaignPause_held (tag : Byte) (hs : Serves s) (hcb : cb.toNat = c) (h : s.channels[c].state = .held) :
    exec (.campaignPause tag [cb]) s = .next (settle { answered s (doneReply tag []) with
      channels := s.channels.set c { s.channels[c] with state := .paused }, trigger := true }) :=
  request_became_quiet hs (by simp) (by decide) rfl ((campaignPause_eq (s := atOwner s) hcb h).2.1 rfl)
    (pausedNow_became c (atOwner s)).trigger

theorem campaignPause_paused (tag : Byte) (hs : Serves s) (hcb : cb.toNat = c) (h : s.channels[c].state = .paused) :
    exec (.campaignPause tag [cb]) s = .next (answered s (doneReply tag [])) :=
  request_unchanged 0x52 tag [cb] s campaignPause [] hs (by simp) (by decide) rfl
    ((campaignPause_eq (s := atOwner s) hcb h).2.2.1 rfl)

theorem campaignPause_other (tag : Byte) (hs : Serves s) (hcb : cb.toNat = c) (h1 : s.channels[c].state ≠ .running)
    (h2 : s.channels[c].state ≠ .held) (h3 : s.channels[c].state ≠ .paused) :
    exec (.campaignPause tag [cb]) s = .next (answered s (refusal tag .state)) :=
  request_refused 0x52 tag [cb] s campaignPause .state hs (by simp) (by decide) rfl
    ((campaignPause_eq (s := atOwner s) hcb rfl).2.2.2 h1 h2 h3)

/-! ### SET-STOP-POSITION -/

/-- The entry being drawn is reached by the new stop position (R135). -/
def ReachedNow (ch : Channel) (p : Option Nat) : Prop :=
  (ch.state = .running ∨ ch.state = .paused) ∧ ch.takenUp = true ∧ ch.atPosition = false ∧ p = some ch.cursor

theorem stopPositionSet_ahead {p : Option Nat} (h : ¬ ReachedNow s.channels[c] p) :
    Became c { s.channels[c] with
      stopPosition := p, atPosition := s.channels[c].atPosition && decide (p = some s.channels[c].cursor) } [] false s
      (stopPositionSet c p s) := by
  have hset : stopPositionSet c p s = modChan c (fun ch =>
      { ch with stopPosition := p, atPosition := ch.atPosition && decide (p = some s.channels[c].cursor) }) s := by
    unfold stopPositionSet
    dsimp only
    unfold ReachedNow at h
    rw [if_neg h, decide_eq_false h]
    simp only [Bool.or_false]
  rw [hset]
  exact (Became.refl c s).mod rfl

theorem stopPositionSet_reached {p : Option Nat} (h : ReachedNow s.channels[c] p) :
    Became c { s.channels[c] with stopPosition := p, atPosition := true } [.positionReached c s.channels[c].cursor] false s
      (stopPositionSet c p s) := by
  have hset : stopPositionSet c p s = raise (.positionReached c s.channels[c].cursor) (modChan c (fun ch =>
      { ch with stopPosition := p, atPosition := true }) s) := by
    unfold stopPositionSet
    dsimp only
    unfold ReachedNow at h
    rw [if_pos h, decide_eq_true h]
    simp only [Bool.or_true]
  rw [hset]
  exact ((Became.refl c s).mod (f := fun ch => { ch with stopPosition := p, atPosition := true }) rfl).raise _

theorem setStopPosition_none (hcb : cb.toNat = c) : setStopPosition [cb, 0, i] s = (stopPositionSet c none s, .done []) := by
  unfold setStopPosition
  dsimp only
  rw [channelOf_of_toNat_eq hcb, show optOf 0 i.toNat = some none from rfl]
  rfl

theorem setStopPosition_some (hcb : cb.toNat = c) : setStopPosition [cb, 1, i] s =
    if 63 < i.toNat then (s, .refused .outOfRange) else (stopPositionSet c (some i.toNat) s, .done []) := by
  unfold setStopPosition
  dsimp only
  rw [channelOf_of_toNat_eq hcb, show optOf 1 i.toNat = some (some i.toNat) from rfl]
  simp only [Option.any_some, decide_eq_true_eq]

theorem setStopPosition_clears (tag : Byte) (hs : Serves s) (hcb : cb.toNat = c) :
    exec (.setStopPosition tag [cb, 0, i]) s = .next { answered s (doneReply tag []) with
      channels := s.channels.set c { s.channels[c] with stopPosition := none, atPosition := false } } := by
  have hset : Became c { s.channels[c] with stopPosition := none, atPosition := false } [] false (atOwner s)
      (stopPositionSet c none (atOwner s)) := by
    refine (stopPositionSet_ahead (s := atOwner s) fun ⟨_, _, _, h⟩ => nomatch h).as ?_
    rw [decide_eq_false (fun h => nomatch h), Bool.and_false]
    rfl
  exact request_became_untriggered hs (by simp) (by decide) rfl (setStopPosition_none (s := atOwner s) hcb) hset

theorem setStopPosition_outOfRange (tag : Byte) (hs : Serves s) (hcb : cb.toNat = c) (hi : 63 < i.toNat) :
    exec (.setStopPosition tag [cb, 1, i]) s = .next (answered s (refusal tag .outOfRange)) :=
  request_refused 0x55 tag _ s setStopPosition .outOfRange hs (by simp) (by decide) rfl
    ((setStopPosition_some (s := atOwner s) hcb).trans (if_pos hi))

theorem setStopPosition_ahead (tag : Byte) (hs : Serves s) (hcb : cb.toNat = c) (hi : i.toNat ≤ 63)
    (h : i.toNat ≠ s.channels[c].cursor ∨ s.channels[c].takenUp = false ∨
      (s.channels[c].state ≠ .running ∧ s.channels[c].state ≠ .paused)) :
    exec (.setStopPosition tag [cb, 1, i]) s = .next { answered s (doneReply tag []) with
      channels := s.channels.set c { s.channels[c] with
        stopPosition := some i.toNat
        atPosition := s.channels[c].atPosition && decide (i.toNat = s.channels[c].cursor) } } := by
  have hahead : ¬ ReachedNow s.channels[c] (some i.toNat) := by
    rintro ⟨hstate, htaken, -, hhere⟩
    rcases h with h | h | ⟨h1, h2⟩
    · exact h (Option.some.inj hhere)
    · rw [htaken] at h
      cases h
    · exact hstate.elim h1 h2
  have hset := stopPositionSet_ahead (s := atOwner s) hahead
  simp only [Option.some.injEq] at hset
  exact request_became_untriggered hs (by simp) (by decide) rfl
    ((setStopPosition_some (s := atOwner s) hcb).trans (if_neg (Nat.not_lt.mpr hi))) hset

theorem setStopPosition_reaches (tag : Byte) (hs : Serves s) (hcb : cb.toNat = c) (hi : i.toNat ≤ 63)
    (hhere : i.toNat = s.channels[c].cursor) (htaken : s.channels[c].takenUp = true) (hat : s.channels[c].atPosition = false)
    (hstate : s.channels[c].state = .running ∨ s.channels[c].state = .paused) :
    ∃ u, exec (.setStopPosition tag [cb, 1, i]) s = .next u ∧
      u = { answered s (doneReply tag []) with
        channels := s.channels.set c { s.channels[c] with stopPosition := some i.toNat, atPosition := true }
        outbox := u.outbox, noticesLost := u.noticesLost, attn := u.attn } ∧
      (s.mask.getLsbD 11 = false → s.outbox.length < 32 →
        u.outbox = s.outbox ++ [⟨if s.quality = .unset then none else some s.campus, .positionReached c s.channels[c].cursor⟩]) := by
  have hset := stopPositionSet_reached (s := atOwner s) (c := c) (p := some i.toNat) ⟨hstate, htaken, hat, congrArg some hhere⟩
  have hexec := request_became (kind := 0x55) (tag := tag) (body := [cb, 1, i]) (owner := setStopPosition) hs (by simp) (by decide) rfl
    ((setStopPosition_some (i := i) (s := atOwner s) hcb).trans (if_neg (Nat.not_lt.mpr hi))) hset
  have hreplied := hset.replied (doneReply tag [])
  have houtbox := fun hmask => hset.outbox (List.forall_mem_singleton.mpr hmask)
  generalize stopPositionSet c (some i.toNat) (atOwner s) = t at *
  refine ⟨{ t with sending := some (doneReply tag []) }, ?_, hreplied, houtbox⟩
  rw [exec_setStopPosition, hexec, settle_of_no_trigger _ (by rw [hreplied]), hreplied]
  rfl

end

/-- Settles O38: the releases a campaign is told of, CAMPAIGN-PAUSE by the campaign's state, and the stop position. -/
theorem campaignsPauseAtAPosition : Obligations.CampaignsPauseAtAPosition := by
  unfold Obligations.CampaignsPauseAtAPosition
  refine ⟨fun s c k e hasResult => ⟨campaignReleased_foreign, released_holds,
      fun e' m l hin hlast hstate hheld hwatch hopen hentry hkind hl hservice hpos => ?_,
      fun hin hlast hstate hwatch hheld => ?_, fun hin hstate hwatch hheld hqueued => ?_,
      fun e' m l hin hstate hwatch hheld hqueued hentry hkind hl hservice hpos => ?_⟩,
    fun s tag cb i c hs hcb => ⟨campaignPause_running tag hs hcb, campaignPause_held tag hs hcb, campaignPause_paused tag hs hcb,
      campaignPause_other tag hs hcb, setStopPosition_clears tag hs hcb, setStopPosition_outOfRange tag hs hcb,
      setStopPosition_ahead tag hs hcb, setStopPosition_reaches tag hs hcb⟩⟩
  · have h := released_endsHold (hasResult := hasResult) hin hlast hstate hheld hwatch hopen hentry hkind hl hservice hpos
    exact ⟨_, rfl, h.triggered, fun hmask hroom => h.told_all (List.forall_mem_singleton.mpr hmask) hroom⟩
  · have h := released_endsWatch (hasResult := hasResult) hin hlast hstate hwatch hheld
    exact ⟨_, rfl, h.untriggered, fun hmask hroom => h.told_all (List.forall_mem_singleton.mpr hmask) hroom⟩
  · have h := released_drains (hasResult := hasResult) hin hstate hwatch hheld hqueued
    exact ⟨_, rfl, h.untriggered, fun hmask hroom => h.told_all (List.forall_mem_singleton.mpr hmask) hroom⟩
  · have h := released_restarts (hasResult := hasResult) hin hstate hwatch hheld hqueued hentry hkind hl hservice hpos
    exact ⟨_, rfl, h.triggered, fun hdone hagain hroom =>
      h.told_all (List.forall_mem_cons.mpr ⟨hdone, List.forall_mem_singleton.mpr hagain⟩) (Nat.succ_le_succ hroom)⟩

end Sys2Proof.Machine
end

section
/-! PROOFS. CAMPAIGN-RESUME (R139, R140). -/

namespace Sys2Proof.Machine

theorem exec_campaignResume (tag : Byte) (body : List Byte) (s : State) :
    exec (.campaignResume tag body) s = request 0x53 tag body s := rfl

section
variable {c : Fin 4} {cb i : Byte} {s : State}

/-! ### The owner, by the body and the campaign's state -/

theorem campaignResume_bothRefused (hcb : cb.toNat = c) : campaignResume [cb, 1, i, 1] s = (s, .refused .outOfRange) := by
  unfold campaignResume
  dsimp only
  rw [channelOf_of_toNat_eq hcb, show optOf 1 i.toNat = some (some i.toNat) from rfl, show flagOf 1 = some true from rfl]
  simp only [Option.any_some, Bool.or_true, if_true]

theorem campaignResume_tooFar (hcb : cb.toNat = c) (hi : 63 < i.toNat) :
    campaignResume [cb, 1, i, 0] s = (s, .refused .outOfRange) := by
  unfold campaignResume
  dsimp only
  rw [channelOf_of_toNat_eq hcb, show optOf 1 i.toNat = some (some i.toNat) from rfl, show flagOf 0 = some false from rfl]
  simp only [Option.any_some, decide_eq_true hi, Bool.true_or, if_true]

/-- With an index within the list's reach (R139, R140). -/
theorem campaignResume_index (hcb : cb.toNat = c) (hi : i.toNat ≤ 63) {x : CampaignState} (h : s.channels[c].state = x) :
    (x = .paused ∨ x = .halted → campaignResume [cb, 1, i, 0] s = (resumeAt c i.toNat s, .done [])) ∧
    (x ≠ .paused → x ≠ .halted → campaignResume [cb, 1, i, 0] s = (s, .refused .state)) := by
  unfold campaignResume
  dsimp only
  rw [channelOf_of_toNat_eq hcb, show optOf 1 i.toNat = some (some i.toNat) from rfl, show flagOf 0 = some false from rfl]
  dsimp only
  rw [h, Option.any_some, decide_eq_false (Nat.not_lt.mpr hi), Bool.or_false, if_neg Bool.false_ne_true]
  cases x <;> simp

/-- Without an index (R139, R140). -/
theorem campaignResume_here (hcb : cb.toNat = c) (skip : Bool) {x : CampaignState} (h : s.channels[c].state = x) :
    (x = .paused → campaignResume [cb, 0, i, if skip then 1 else 0] s =
      if skip then (s, .refused .state) else (resumePaused c s, .done [])) ∧
    (x = .halted → campaignResume [cb, 0, i, if skip then 1 else 0] s = (resumeHalted c skip s, .done [])) ∧
    (x ≠ .paused → x ≠ .halted → campaignResume [cb, 0, i, if skip then 1 else 0] s = (s, .refused .state)) := by
  unfold campaignResume
  dsimp only
  rw [channelOf_of_toNat_eq hcb, show optOf 0 i.toNat = some none from rfl, flagOf_ite]
  dsimp only
  rw [h, Option.any_none, if_neg Bool.false_ne_true]
  cases x <;> simp

/-! ### Refusals -/

theorem resume_bothRefused (tag : Byte) (hs : Serves s) (hcb : cb.toNat = c) :
    exec (.campaignResume tag [cb, 1, i, 1]) s = .next (answered s (refusal tag .outOfRange)) :=
  request_refused 0x53 tag _ s campaignResume .outOfRange hs (by simp) (by decide) rfl
    (campaignResume_bothRefused (s := atOwner s) hcb)

theorem resume_tooFar (tag : Byte) (hs : Serves s) (hcb : cb.toNat = c) (hi : 63 < i.toNat) :
    exec (.campaignResume tag [cb, 1, i, 0]) s = .next (answered s (refusal tag .outOfRange)) :=
  request_refused 0x53 tag _ s campaignResume .outOfRange hs (by simp) (by decide) rfl
    (campaignResume_tooFar (s := atOwner s) hcb hi)

theorem resume_impossible (tag : Byte) (hs : Serves s) (hcb : cb.toNat = c) (h1 : s.channels[c].state ≠ .paused)
    (h2 : s.channels[c].state ≠ .halted) (skip : Bool) :
    exec (.campaignResume tag [cb, 0, i, if skip then 1 else 0]) s = .next (answered s (refusal tag .state)) :=
  request_refused 0x53 tag _ s campaignResume .state hs (by simp) (by decide) rfl
    ((campaignResume_here (s := atOwner s) hcb skip rfl).2.2 h1 h2)

theorem resume_impossibleAt (tag : Byte) (hs : Serves s) (hcb : cb.toNat = c) (h1 : s.channels[c].state ≠ .paused)
    (h2 : s.channels[c].state ≠ .halted) (hi : i.toNat ≤ 63) :
    exec (.campaignResume tag [cb, 1, i, 0]) s = .next (answered s (refusal tag .state)) :=
  request_refused 0x53 tag _ s campaignResume .state hs (by simp) (by decide) rfl
    ((campaignResume_index (s := atOwner s) hcb hi rfl).2 h1 h2)

theorem resume_pausedSkip (tag : Byte) (hs : Serves s) (hcb : cb.toNat = c) (h : s.channels[c].state = .paused) :
    exec (.campaignResume tag [cb, 0, i, 1]) s = .next (answered s (refusal tag .state)) :=
  request_refused 0x53 tag _ s campaignResume .state hs (by simp) (by decide) rfl
    ((campaignResume_here (s := atOwner s) hcb true h).1 rfl)

/-! ### From PAUSED -/

theorem resumePaused_holds (h : s.channels[c].heldEntry.isSome = true) :
    Became c { s.channels[c] with state := .held } [] false s (resumePaused c s) := by
  unfold resumePaused
  rw [if_pos h]
  exact (Became.refl c s).mod rfl

theorem resumePaused_runs (hheld : s.channels[c].heldEntry = none) (htaken : s.channels[c].takenUp = true) :
    Became c { s.channels[c] with state := .running } [] true s (resumePaused c s) := by
  have hruns := ((Became.refl c s).mod (f := fun ch => { ch with state := .running }) rfl).trigger
  unfold resumePaused
  rw [if_neg (by rw [hheld]; exact Bool.false_ne_true), takeUp_settled hruns (.inr htaken)]
  exact hruns

theorem resume_toHeld (tag : Byte) (hs : Serves s) (hcb : cb.toNat = c) (h : s.channels[c].state = .paused)
    (hheld : s.channels[c].heldEntry.isSome = true) : exec (.campaignResume tag [cb, 0, i, 0]) s =
      .next { answered s (doneReply tag []) with channels := s.channels.set c { s.channels[c] with state := .held } } :=
  request_became_untriggered hs (by simp) (by decide) rfl ((campaignResume_here (s := atOwner s) hcb false h).1 rfl)
    (resumePaused_holds (s := atOwner s) hheld)

theorem resume_toRunning (tag : Byte) (hs : Serves s) (hcb : cb.toNat = c) (h : s.channels[c].state = .paused)
    (hheld : s.channels[c].heldEntry = none) (htaken : s.channels[c].takenUp = true) :
    exec (.campaignResume tag [cb, 0, i, 0]) s = .next (settle { answered s (doneReply tag []) with
      channels := s.channels.set c { s.channels[c] with state := .running }, trigger := true }) :=
  request_became_quiet hs (by simp) (by decide) rfl ((campaignResume_here (s := atOwner s) hcb false h).1 rfl)
    (resumePaused_runs (s := atOwner s) hheld htaken)

/-! ### At an entry -/

section
variable {e : Entry} {n : Nat} {l : Luminaire}

/-- A TEST of an enrolled luminaire in service is taken up by a channel that runs again (R126, R127). -/
theorem resumed_test {f : Channel → Channel} (hrunning : (f s.channels[c]).state = .running)
    (hopen : (f s.channels[c]).takenUp = false)
    (hentry : (f s.channels[c]).entries[(f s.channels[c]).cursor]? = some e) (hkind : e.kind = .test n)
    (hl : s.luminaires.get n = some l) (hservice : l.state ≠ .outOfService)
    (hposition : (f s.channels[c]).stopPosition ≠ some (f s.channels[c]).cursor) :
    Became c { f s.channels[c] with takenUp := true } [] true s (takeUp c (triggerPass (modChan c f s))) :=
  takeUp_test ((Became.refl c s).mod rfl).trigger hrunning hopen hentry hkind hl hservice hposition

theorem resume_at (tag : Byte) (hs : Serves s) (hcb : cb.toNat = c)
    (hstate : s.channels[c].state = .paused ∨ s.channels[c].state = .halted) (hi : i.toNat ≤ 63)
    (hentry : s.channels[c].entries[i.toNat]? = some e) (hkind : e.kind = .test n) (hl : s.luminaires.get n = some l)
    (hservice : l.state ≠ .outOfService) (hposition : s.channels[c].stopPosition ≠ some i.toNat) :
    exec (.campaignResume tag [cb, 1, i, 0]) s = .next (settle { answered s (doneReply tag []) with
      channels := s.channels.set c { s.channels[c] with
        state := .running, haltReason := none, heldEntry := none, atPosition := false, cursor := i.toNat, member := 0
        takenUp := true }
      trigger := true }) :=
  request_became_quiet hs (by simp) (by decide) rfl ((campaignResume_index (s := atOwner s) hcb hi rfl).1 hstate)
    (resumed_test (s := atOwner s) (c := c) (f := fun ch => { ch with
      state := .running, haltReason := none, heldEntry := none, atPosition := false, cursor := i.toNat, member := 0
      takenUp := false }) rfl rfl hentry hkind hl hservice hposition)

theorem resume_halted (tag : Byte) (hs : Serves s) (hcb : cb.toNat = c) (hstate : s.channels[c].state = .halted)
    (hentry : s.channels[c].entries[s.channels[c].cursor]? = some e) (hkind : e.kind = .test n)
    (hl : s.luminaires.get n = some l) (hservice : l.state ≠ .outOfService)
    (hposition : s.channels[c].stopPosition ≠ some s.channels[c].cursor) :
    exec (.campaignResume tag [cb, 0, i, 0]) s = .next (settle { answered s (doneReply tag []) with
      channels := s.channels.set c { s.channels[c] with state := .running, haltReason := none, takenUp := true }
      trigger := true }) :=
  request_became_quiet hs (by simp) (by decide) rfl ((campaignResume_here (s := atOwner s) hcb false hstate).2.1 rfl)
    (resumed_test (s := atOwner s) (c := c) (f := fun ch => { ch with
      state := .running, haltReason := none, takenUp := false }) rfl rfl hentry hkind hl hservice hposition)

theorem resume_haltedSkip (tag : Byte) (hs : Serves s) (hcb : cb.toNat = c) (hstate : s.channels[c].state = .halted)
    (hentry : s.channels[c].entries[s.channels[c].cursor + 1]? = some e) (hkind : e.kind = .test n)
    (hl : s.luminaires.get n = some l) (hservice : l.state ≠ .outOfService)
    (hposition : s.channels[c].stopPosition ≠ some (s.channels[c].cursor + 1)) :
    exec (.campaignResume tag [cb, 0, i, 1]) s = .next (settle { answered s (doneReply tag []) with
      channels := s.channels.set c { s.channels[c] with
        state := .running, haltReason := none, cursor := s.channels[c].cursor + 1, member := 0, takenUp := true }
      trigger := true }) :=
  request_became_quiet hs (by simp) (by decide) rfl ((campaignResume_here (s := atOwner s) hcb true hstate).2.1 rfl)
    (resumed_test (s := atOwner s) (c := c) (f := fun ch => { ch with
      state := .running, haltReason := none, takenUp := false, cursor := ch.cursor + 1, member := 0 }) rfl rfl hentry hkind hl
      hservice hposition)

end

end

/-- Settles O39: CAMPAIGN-RESUME by the campaign's state, at an index, at the halted entry again, or after it. -/
theorem campaignResumeTakesUpAgain : Obligations.CampaignResumeTakesUpAgain := by
  unfold Obligations.CampaignResumeTakesUpAgain
  exact fun s tag cb i c hs hcb => ⟨resume_bothRefused tag hs hcb, resume_tooFar tag hs hcb,
    fun h1 h2 => ⟨resume_impossible tag hs hcb h1 h2 false, resume_impossible tag hs hcb h1 h2 true,
      resume_impossibleAt tag hs hcb h1 h2⟩,
    resume_pausedSkip tag hs hcb, resume_toHeld tag hs hcb, resume_toRunning tag hs hcb,
    fun _ _ _ hstate hi hentry hkind hl hservice hposition => resume_at tag hs hcb hstate hi hentry hkind hl hservice hposition,
    fun _ _ _ hstate hentry hkind hl hservice hposition => resume_halted tag hs hcb hstate hentry hkind hl hservice hposition,
    fun _ _ _ hstate hentry hkind hl hservice hposition => resume_haltedSkip tag hs hcb hstate hentry hkind hl hservice hposition⟩

end Sys2Proof.Machine
end

section
/-! PROOFS. What start-up and restart load and rebuild (R208 to R210): what stays, and that the EMG line's level has no part in it. -/

namespace Sys2Proof.Machine

/-! ### What loading leaves -/

/-- Only what is loaded from the image, rebuilt, written or raised on the way differs. -/
def OnlyLoaded (s t : State) : Prop :=
  t = { s with
    luminaires := t.luminaires, classes := t.classes, groups := t.groups, windows := t.windows, blackouts := t.blackouts
    mode := t.mode, params := t.params, mask := t.mask, branches := t.branches, results := t.results
    resultCounter := t.resultCounter, schedule := t.schedule, outbox := t.outbox, noticesLost := t.noticesLost, attn := t.attn
    image := t.image, lastWrites := t.lastWrites, storeState := t.storeState, writeFates := t.writeFates
    writeFailed := t.writeFailed }

theorem OnlyLoaded.refl (s : State) : OnlyLoaded s s := rfl

theorem OnlyLoaded.trans {s t u : State} (h1 : OnlyLoaded s t) (h2 : OnlyLoaded t u) : OnlyLoaded s u := by
  unfold OnlyLoaded at *
  rw [h2, h1]

theorem OnlyWrites.loaded {s t : State} (h : OnlyWrites s t) : OnlyLoaded s t := by
  unfold OnlyWrites at h
  unfold OnlyLoaded
  rw [h]

theorem OnlyNotices.loaded {s t : State} (h : OnlyNotices s t) : OnlyLoaded s t := by
  unfold OnlyNotices at h
  unfold OnlyLoaded
  rw [h]

theorem OnlyBranches.loaded {s t : State} (h : OnlyBranches s t) : OnlyLoaded s t := by
  unfold OnlyBranches at h
  unfold OnlyLoaded
  rw [h]

theorem takeImage_loaded (m : Image) (s : State) : OnlyLoaded s (takeImage m s) := rfl

/-- The part with a blank image written, before the notice of a failed write (R208). -/
def blanked (s : State) : State :=
  { s with
    image := (blankFailures s.writeFates).foldl (keepItem s.image) {}
    lastWrites := [s.image]
    writeFates := s.writeFates.drop allItems.length
    storeState := if blankFailures s.writeFates = [] then .blank else .fault }

theorem writeBlank_succeeds {s : State} (h : blankFailures s.writeFates = []) : writeBlank s = blanked s := by
  unfold writeBlank blanked
  rw [h]

theorem writeBlank_fails {s : State} {i : Item} {rest : List Item} (h : blankFailures s.writeFates = i :: rest) :
    writeBlank s = raise (.storeFault i) (blanked s) := by
  unfold writeBlank blanked
  rw [h]

theorem blanked_loaded (s : State) : OnlyLoaded s (blanked s) := by
  unfold OnlyLoaded blanked
  generalize allItems.length = k
  generalize blankFailures s.writeFates = failed
  rfl

theorem writeBlank_loaded (s : State) : OnlyLoaded s (writeBlank s) := by
  cases hfailed : blankFailures s.writeFates with
  | nil =>
    rw [writeBlank_succeeds hfailed]
    exact blanked_loaded s
  | cons i rest =>
    rw [writeBlank_fails hfailed]
    exact (blanked_loaded s).trans (raise_only _ _).loaded

theorem loadImage_loaded (s : State) : OnlyLoaded s (loadImage s) := by
  unfold loadImage
  split
  · exact OnlyLoaded.trans (t := { s with storeState := .ok }) rfl (takeImage_loaded _ _)
  · exact (takeImage_loaded {} s).trans (writeBlank_loaded _)

/-- The LOST record of a marked luminaire is queued, as far as there is room (R181, R210). -/
def lostQueued (m : Image) (n : Nat) (l : Luminaire) (s : State) : State :=
  if s.results.length < resultRoom then
    addResult (lostRecord s n l ((m.luminaires.get n).bind StoredLuminaire.storedStart)) s
  else s

/-- A marked luminaire's record and its item, recalled (R210). -/
def markerCleared (m : Image) (n : Nat) (l : Luminaire) (s : State) : State :=
  writeItem (.luminaire n)
    { lostQueued m n l s with luminaires := (lostQueued m n l s).luminaires.put n l.recalledAtStart }

section
variable {m : Image} {n : Nat} {l : Luminaire} {s : State}

theorem recallMarked_unused (hl : s.luminaires.get n = none) : recallMarked m s n = s := by
  unfold recallMarked
  rw [hl]

theorem recallMarked_unmarked (hl : s.luminaires.get n = some l) (hmarker : l.openMarker = false) : recallMarked m s n = s := by
  unfold recallMarked
  rw [hl]
  exact if_neg (ne_true_of_eq_false hmarker)

theorem recallMarked_marked (hl : s.luminaires.get n = some l) (hmarker : l.openMarker = true) : recallMarked m s n =
    offer l.branch (stopExchange l.node n .recall false) (markerCleared m n l s) := by
  unfold recallMarked markerCleared Luminaire.recalledAtStart
  rw [hl]
  dsimp only
  rw [if_pos hmarker, if_pos hmarker]
  rfl

theorem addResult_loaded (r : ResultRecord) (s : State) : OnlyLoaded s (addResult r s) :=
  OnlyLoaded.trans (t := followAttn { s with results := s.results ++ [r], resultCounter := (s.resultCounter + 1) % 65536 })
    rfl (writeItem_only _ _).loaded

theorem lostQueued_loaded (m : Image) (n : Nat) (l : Luminaire) (s : State) : OnlyLoaded s (lostQueued m n l s) := by
  unfold lostQueued
  split
  · exact addResult_loaded _ s
  · rfl

theorem markerCleared_loaded (m : Image) (n : Nat) (l : Luminaire) (s : State) : OnlyLoaded s (markerCleared m n l s) :=
  ((lostQueued_loaded m n l s).trans (OnlyLoaded.trans
    (t := { lostQueued m n l s with luminaires := (lostQueued m n l s).luminaires.put n l.recalledAtStart }) rfl
    (writeItem_only _ _).loaded))

theorem recallMarked_loaded (m : Image) (s : State) (n : Nat) : OnlyLoaded s (recallMarked m s n) := by
  cases hl : s.luminaires.get n with
  | none =>
    rw [recallMarked_unused hl]
    exact .refl s
  | some l =>
    cases hmarker : l.openMarker with
    | false =>
      rw [recallMarked_unmarked hl hmarker]
      exact .refl s
    | true =>
      rw [recallMarked_marked hl hmarker]
      exact (markerCleared_loaded m n l s).trans (offer_only _ _ _).loaded

theorem recallMarkers_loaded (s : State) : OnlyLoaded s (recallMarkers s) :=
  foldl_only OnlyLoaded.refl OnlyLoaded.trans (fun t n => recallMarked_loaded s.image t n) _ s

theorem booted_loaded (keepTime : Bool) (s : State) : OnlyLoaded (fresh keepTime s) (booted keepTime s) :=
  ((loadImage_loaded _).trans (recallMarkers_loaded _)).trans rfl

end

/-! ### The EMG line's level -/

/-- The same part with the EMG line at another level. -/
def withLine (x : Bool) (s : State) : State := { s with emgLine := x }

section
variable (x : Bool) (s : State)

theorem raise_withLine (b : NoticeBody) : raise b (withLine x s) = withLine x (raise b s) := by
  unfold raise withLine
  dsimp only
  by_cases hmask : s.mask.getLsbD b.kind = true
  · rw [if_pos hmask, if_pos hmask]
  · rw [if_neg hmask, if_neg hmask]
    by_cases hfull : outboxRoom ≤ s.outbox.length
    · rw [if_pos hfull, if_pos hfull]
    · rw [if_neg hfull, if_neg hfull]
      rfl

theorem writeItem_withLine (i : Item) : writeItem i (withLine x s) = withLine x (writeItem i s) := by
  cases hw : writeFails s with
  | false =>
    rw [writeItem_lands i s hw, writeItem_lands i (withLine x s) hw]
    cases i <;> rfl
  | true =>
    rw [writeItem_fails i s hw, writeItem_fails i (withLine x s) hw, failWrite_eq, failWrite_eq]
    exact raise_withLine x (faulted s) (.storeFault i)

theorem addResult_withLine (r : ResultRecord) : addResult r (withLine x s) = withLine x (addResult r s) :=
  writeItem_withLine x (followAttn { s with results := s.results ++ [r], resultCounter := (s.resultCounter + 1) % 65536 }) .results

theorem offer_withLine (b : Fin 8) (e : Exchange) : offer b e (withLine x s) = withLine x (offer b e s) := by
  unfold offer enqueue
  by_cases hfree : 0 < unreservedFree s b
  · rw [if_pos hfree, if_pos (show 0 < unreservedFree (withLine x s) b from hfree)]
    by_cases hworks : s.branches[b].state.works = true
    · rw [if_pos hworks, if_pos (show (withLine x s).branches[b].state.works = true from hworks)]
      rfl
    · rw [if_neg hworks, if_neg (show ¬ (withLine x s).branches[b].state.works = true from hworks)]
  · rw [if_neg hfree, if_neg (show ¬ 0 < unreservedFree (withLine x s) b from hfree)]

theorem lostQueued_withLine (m : Image) (n : Nat) (l : Luminaire) :
    lostQueued m n l (withLine x s) = withLine x (lostQueued m n l s) := by
  unfold lostQueued
  by_cases hroom : s.results.length < resultRoom
  · rw [if_pos hroom, if_pos (show (withLine x s).results.length < resultRoom from hroom)]
    exact addResult_withLine x s _
  · rw [if_neg hroom, if_neg (show ¬ (withLine x s).results.length < resultRoom from hroom)]

theorem markerCleared_withLine (m : Image) (n : Nat) (l : Luminaire) :
    markerCleared m n l (withLine x s) = withLine x (markerCleared m n l s) := by
  unfold markerCleared
  rw [lostQueued_withLine]
  exact writeItem_withLine x
    { lostQueued m n l s with luminaires := (lostQueued m n l s).luminaires.put n l.recalledAtStart } (.luminaire n)

theorem recallMarked_withLine (m : Image) (n : Nat) : recallMarked m (withLine x s) n = withLine x (recallMarked m s n) := by
  cases hl : s.luminaires.get n with
  | none => rw [recallMarked_unused hl, recallMarked_unused (s := withLine x s) hl]
  | some l =>
    cases hmarker : l.openMarker with
    | false => rw [recallMarked_unmarked hl hmarker, recallMarked_unmarked (s := withLine x s) hl hmarker]
    | true =>
      rw [recallMarked_marked hl hmarker, recallMarked_marked (s := withLine x s) hl hmarker, markerCleared_withLine,
        offer_withLine]

theorem recallMarkers_withLine : recallMarkers (withLine x s) = withLine x (recallMarkers s) := by
  have hfold (ks : List Nat) (t : State) :
      ks.foldl (recallMarked s.image) (withLine x t) = withLine x (ks.foldl (recallMarked s.image) t) := by
    induction ks generalizing t with
    | nil => rfl
    | cons k ks ih => rw [List.foldl_cons, recallMarked_withLine, ih, List.foldl_cons]
  exact hfold s.luminaires.keys s

theorem blanked_withLine : blanked (withLine x s) = withLine x (blanked s) := by
  unfold blanked withLine
  generalize allItems.length = k
  rfl

theorem writeBlank_withLine : writeBlank (withLine x s) = withLine x (writeBlank s) := by
  cases hfailed : blankFailures s.writeFates with
  | nil =>
    rw [writeBlank_succeeds hfailed, writeBlank_succeeds (s := withLine x s) hfailed, blanked_withLine]
  | cons i rest =>
    rw [writeBlank_fails hfailed, writeBlank_fails (s := withLine x s) hfailed, blanked_withLine, raise_withLine]

theorem loadImage_withLine : loadImage (withLine x s) = withLine x (loadImage s) := by
  unfold loadImage
  by_cases hok : imageOk s.image = true
  · rw [if_pos hok, if_pos (show imageOk (withLine x s).image = true from hok)]
    rfl
  · rw [if_neg hok, if_neg (show ¬ imageOk (withLine x s).image = true from hok)]
    exact writeBlank_withLine x (takeImage {} s)

theorem booted_withLine (keepTime : Bool) : booted keepTime (withLine x s) = withLine x (booted keepTime s) := by
  have hfresh : fresh keepTime (withLine x s) = withLine x (fresh keepTime s) := by
    unfold fresh
    cases keepTime <;> rfl
  unfold booted
  rw [hfresh, loadImage_withLine, recallMarkers_withLine]
  rfl

end

end Sys2Proof.Machine
end

section
/-! PROOFS. START_UP (R144, R208, R209). -/

namespace Sys2Proof.Machine

theorem exec_startUp (s : State) : exec .startUp s =
    .next (finish { followAttn (readEmg (booted false (opened s))) with trigger := false }) := rfl

/-- The part with every volatile field at its start-up value. -/
theorem fresh_opened (s : State) : fresh false (opened s) =
    { pending := s.pending, emgLine := s.emgLine, image := s.image, writeFates := s.writeFates } := rfl

theorem readEmg_released {s : State} (h : s.emgLine = false) : readEmg s = { s with emgKept := false } := by
  unfold readEmg
  dsimp only
  rw [h, if_neg Bool.false_ne_true]

/-! ### A usable image -/

/-- A part with a usable image loaded, before the open-marker recall (R208). -/
def imageTaken (s : State) : State :=
  takeImage s.image { pending := s.pending, emgLine := s.emgLine, image := s.image, writeFates := s.writeFates, storeState := .ok }

theorem loadImage_ok {s : State} (h : imageOk s.image = true) : loadImage (fresh false (opened s)) = imageTaken s := if_pos h

theorem get_imageTaken (s : State) (n : Nat) : (imageTaken s).luminaires.get n = (s.image.luminaires.get n).map restored :=
  Table.get_mapValues s.image.luminaires (fun _ i => restored i) n

theorem restored_marker (i : StoredLuminaire) : (restored i).openMarker = i.openMarker := rfl

/-- Without a marked luminaire nothing is recalled (R210). -/
theorem recallMarkers_unmarked {s : State} (h : ∀ n l, s.luminaires.get n = some l → l.openMarker = false) :
    recallMarkers s = s := by
  have hone (n : Nat) : recallMarked s.image s n = s := by
    cases hl : s.luminaires.get n with
    | none => exact recallMarked_unused hl
    | some l => exact recallMarked_unmarked hl (h n l hl)
  have hfold (ks : List Nat) : ks.foldl (recallMarked s.image) s = s := by
    induction ks with
    | nil => rfl
    | cons k ks ih => rw [List.foldl_cons, hone, ih]
  exact hfold _

theorem imageTaken_branches (s : State) (b : Fin 8) : (imageTaken s).branches[b] =
    { state := if s.image.branchOff[b] then .off else .ready, hostOff := s.image.branchOff[b] } := by
  unfold imageTaken takeImage startedBranch
  simp

/-- The part that a start-up with a usable image and no marked luminaire comes up with. -/
def loadedUp (s : State) : State :=
  { pending := s.pending, image := s.image, storeState := .ok
    classes := s.image.classes, windows := s.image.windows, blackouts := s.image.blackouts, mode := s.image.mode
    params := s.image.params, mask := s.image.mask, results := s.image.results
    resultCounter := s.image.counter, attn := !s.image.results.isEmpty
    branches := (imageTaken s).branches, luminaires := (imageTaken s).luminaires
    groups := (imageTaken s).groups.mapValues (rebuiltGroup (imageTaken s).luminaires)
    schedule := rebuiltSchedule (imageTaken s).luminaires }

theorem startUp_loads {s : State} (hok : imageOk s.image = true) (hfates : s.writeFates = []) (hline : s.emgLine = false)
    (hmarkers : ∀ p ∈ s.image.luminaires, p.2.openMarker = false) : exec .startUp s = .next (loadedUp s) := by
  have hrecall : recallMarkers (imageTaken s) = imageTaken s := by
    refine recallMarkers_unmarked fun n l hl => ?_
    rw [get_imageTaken] at hl
    obtain ⟨i, hi, rfl⟩ := Option.map_eq_some_iff.mp hl
    exact hmarkers (n, i) (Table.mem_of_get hi)
  have hbooted : booted false (opened s) = rebuild (imageTaken s) := by
    unfold booted
    rw [loadImage_ok hok, hrecall]
  have htaken : imageTaken s = takeImage s.image { pending := s.pending, image := s.image, storeState := .ok } := by
    unfold imageTaken
    rw [hfates, hline]
  rw [exec_startUp, hbooted, readEmg_released (s := rebuild (imageTaken s)) hline, htaken]
  exact congrArg (fun a => Host.Outcome.next { loadedUp s with attn := a }) (Bool.or_false (!s.image.results.isEmpty))

/-! ### No usable image -/

/-- The first write that fails is that of the first item with a failing fate (R208). -/
theorem first_failure {fates : List Bool} {items : List Item} {j : Nat} {i : Item} (hj : fates[j]? = some true)
    (hbefore : ∀ m, m < j → fates[m]? = some false) (hi : items[j]? = some i) :
    ∃ rest, ((fates.zip items).filter fun p => p.1).map Prod.snd = i :: rest := by
  induction j generalizing fates items with
  | zero =>
    cases fates with
    | nil => cases hj
    | cons f fates =>
      cases items with
      | nil => cases hi
      | cons x items =>
        obtain rfl := Option.some.inj hj
        obtain rfl := Option.some.inj hi
        exact ⟨_, rfl⟩
  | succ j ih =>
    cases fates with
    | nil => cases hj
    | cons f fates =>
      cases items with
      | nil => cases hi
      | cons x items =>
        obtain rfl := Option.some.inj (hbefore 0 (Nat.succ_pos j))
        exact ih (fates := fates) (items := items) hj (fun m hm => hbefore (m + 1) (Nat.succ_lt_succ hm)) hi

theorem blankFailures_nil : blankFailures [] = [] := rfl

theorem blankFailures_first {fates : List Bool} {j : Nat} {i : Item} (hj : fates[j]? = some true)
    (hbefore : ∀ m, m < j → fates[m]? = some false) (hi : allItems[j]? = some i) : ∃ rest, blankFailures fates = i :: rest :=
  first_failure hj hbefore hi

/-- A part with the blank-image values, before the blank image is written (R208). -/
def blankTaken (s : State) : State :=
  takeImage {} { pending := s.pending, emgLine := s.emgLine, image := s.image, writeFates := s.writeFates }

theorem loadImage_blank {s : State} (h : imageOk s.image = false) :
    loadImage (fresh false (opened s)) = writeBlank (blankTaken s) := if_neg (ne_true_of_eq_false h)

/-- With no luminaire there is nothing to recall and nothing to rebuild. -/
theorem recall_rebuild_empty {s : State} (hl : s.luminaires = []) (hg : s.groups = []) (hs : s.schedule = []) :
    rebuild (recallMarkers s) = s := by
  have hrecall : recallMarkers s = s := by
    unfold recallMarkers
    rw [hl]
    rfl
  have hgroups : s.groups.mapValues (rebuiltGroup s.luminaires) = s.groups := by rw [hg]; rfl
  have hschedule : rebuiltSchedule s.luminaires = s.schedule := by rw [hl, hs]; rfl
  rw [hrecall]
  exact congrArg₂ (fun g l => ({ s with groups := g, schedule := l } : State)) hgroups hschedule

theorem blankTaken_eq {s : State} (hline : s.emgLine = false) :
    blankTaken s = { pending := s.pending, image := s.image, writeFates := s.writeFates } := by
  have hbranches : (Vector.ofFn fun b : Fin 8 => startedBranch ({} : Image).branchOff[b]) = Vector.replicate 8 {} := by decide
  unfold blankTaken takeImage
  rw [hbranches, hline]
  rfl

theorem startUp_blank {s : State} (hok : imageOk s.image = false) (hfates : s.writeFates = []) (hline : s.emgLine = false) :
    exec .startUp s = .next { State.reset with pending := s.pending, lastWrites := [s.image] } := by
  have htaken : blankTaken s = { pending := s.pending, image := s.image } := by rw [blankTaken_eq hline, hfates]
  have hblank : blanked (blankTaken s) = { pending := s.pending, lastWrites := [s.image] } := by
    unfold blanked
    rw [htaken]
    dsimp only
    rw [blankFailures_nil, List.drop_nil]
    rfl
  have hbooted : booted false (opened s) = { pending := s.pending, lastWrites := [s.image] } := by
    unfold booted
    rw [loadImage_blank hok, writeBlank_succeeds (by rw [htaken]; rfl), hblank]
    exact recall_rebuild_empty rfl rfl rfl
  rw [exec_startUp, hbooted, readEmg_released rfl]
  rfl

/-- The blank part after a write of the blank image failed, before its notice. -/
def blankFaulted (s : State) (kept : Image) (fates : List Bool) : State :=
  { State.reset with
    pending := s.pending, lastWrites := [s.image], image := kept, storeState := .fault, writeFates := fates }

theorem raise_blankFaulted (s : State) (kept : Image) (fates : List Bool) (i : Item) :
    raise (.storeFault i) (blankFaulted s kept fates) =
      { blankFaulted s kept fates with outbox := [⟨none, .storeFault i⟩], attn := true } :=
  raise_of_room (s := blankFaulted s kept fates) (b := .storeFault i) BitVec.getLsbD_zero (Nat.zero_lt_succ 31)

theorem startUp_storeFault {s : State} {j : Nat} {i : Item} (hok : imageOk s.image = false) (hline : s.emgLine = false)
    (hj : s.writeFates[j]? = some true) (hbefore : ∀ m, m < j → s.writeFates[m]? = some false) (hi : allItems[j]? = some i) :
    ∃ t, exec .startUp s = .next t ∧ t = { State.reset with
      pending := s.pending, lastWrites := [s.image], image := t.image, storeState := .fault
      writeFates := s.writeFates.drop allItems.length, outbox := [⟨none, .storeFault i⟩], attn := true } := by
  obtain ⟨rest, hrest⟩ := blankFailures_first hj hbefore hi
  have htaken := blankTaken_eq hline
  have hfails : writeBlank (blankTaken s) = raise (.storeFault i) (blanked (blankTaken s)) :=
    writeBlank_fails (by rw [htaken]; exact hrest)
  have hblank : blanked (blankTaken s) =
      blankFaulted s ((i :: rest).foldl (keepItem s.image) {}) (s.writeFates.drop allItems.length) := by
    unfold blanked
    rw [htaken]
    dsimp only
    rw [hrest, if_neg (List.cons_ne_nil i rest)]
    rfl
  generalize s.writeFates.drop allItems.length = fates at *
  generalize (i :: rest).foldl (keepItem s.image) {} = kept at *
  have hbooted : booted false (opened s) =
      { blankFaulted s kept fates with outbox := [⟨none, .storeFault i⟩], attn := true } := by
    unfold booted
    rw [loadImage_blank hok, hfails, hblank, raise_blankFaulted]
    exact recall_rebuild_empty rfl rfl rfl
  refine ⟨_, exec_startUp s, ?_⟩
  rw [hbooted, readEmg_released rfl]
  rfl

/-! ### The EMG line found asserted -/

theorem readEmg_asserted {s : State} (hline : s.emgLine = true) (hsched : s.sched = .suspended) (hslots : s.slots = []) :
    readEmg s = raise (.emergencyEntered .suspended 0 false)
      { s with emgKept := true, resumeTo := .suspended, sched := .emergency } := by
  unfold readEmg emgAsserts occupied
  dsimp only
  rw [hline, if_pos rfl, hsched, hslots]
  rfl

/-- Start-up with the EMG line asserted: as with it released, and in EMERGENCY (R144, R209). -/
theorem startUp_emergency {s : State} (hline : s.emgLine = true) :
    ∃ t u, exec .startUp { s with emgLine := false } = .next t ∧ exec .startUp s = .next u ∧
      u = { t with
        emgLine := true, emgKept := true, sched := .emergency, resumeTo := .suspended, outbox := u.outbox
        noticesLost := u.noticesLost, attn := u.attn } ∧
      (t.mask.getLsbD 15 = true → u.outbox = t.outbox ∧ u.noticesLost = t.noticesLost ∧ u.attn = t.attn) ∧
      (t.mask.getLsbD 15 = false → t.outbox.length < 32 →
        u.outbox = t.outbox ++ [⟨none, .emergencyEntered .suspended 0 false⟩] ∧ u.noticesLost = t.noticesLost ∧
          u.attn = true) := by
  have hsame : booted false (opened s) = withLine true (booted false (opened { s with emgLine := false })) := by
    rw [← booted_withLine]
    exact congrArg (fun x => booted false { opened s with emgLine := x }) hline
  have hloaded := booted_loaded false (opened { s with emgLine := false })
  unfold OnlyLoaded at hloaded
  rw [exec_startUp, exec_startUp, hsame]
  generalize booted false (opened { s with emgLine := false }) = v at *
  have hsched : v.sched = .suspended := by rw [hloaded]; rfl
  have hslots : v.slots = [] := by rw [hloaded]; rfl
  have hreleased : v.emgLine = false := by rw [hloaded]; rfl
  have htime : knownTime v = none := by rw [hloaded]; rfl
  rw [readEmg_released hreleased, readEmg_asserted (s := withLine true v) rfl hsched hslots]
  have honly := raise_only (.emergencyEntered .suspended 0 false)
    { withLine true v with emgKept := true, resumeTo := .suspended, sched := .emergency }
  unfold OnlyNotices at honly
  refine ⟨_, _, rfl, rfl, ?_, fun hmask => ?_, fun hmask hroom => ?_⟩
  · rw [honly]
    rfl
  · have hquiet : raise (.emergencyEntered .suspended 0 false)
        { withLine true v with emgKept := true, resumeTo := .suspended, sched := .emergency } =
        { withLine true v with emgKept := true, resumeTo := .suspended, sched := .emergency } := if_pos hmask
    rw [hquiet]
    exact ⟨rfl, rfl, rfl⟩
  · rw [raise_of_room (s := { withLine true v with emgKept := true, resumeTo := .suspended, sched := .emergency })
      (b := .emergencyEntered .suspended 0 false) hmask hroom]
    refine ⟨?_, rfl, ?_⟩
    · exact congrArg (fun o => v.outbox ++ [⟨o, .emergencyEntered .suspended 0 false⟩]) htime
    · change (!v.results.isEmpty || !(v.outbox ++ [_]).isEmpty) = true
      simp

/-- Settles O49: a usable image's values, else the blank image's with the blank image written, and EMERGENCY where the line is
asserted. -/
theorem startUpLoadsTheImage : Obligations.StartUpLoadsTheImage := by
  unfold Obligations.StartUpLoadsTheImage
  refine ⟨fun s hok hfates hline hmarkers _ => ⟨loadedUp s, startUp_loads hok hfates hline hmarkers, rfl, imageTaken_branches s,
      get_imageTaken s, fun n i _ hservice => ?_, fun g => ?_⟩,
    fun s hok hfates hline => startUp_blank hok hfates hline,
    fun s j i hok hline hj hbefore hi => startUp_storeFault hok hline hj hbefore hi, fun s hline => startUp_emergency hline⟩
  · unfold restored
    rw [hservice]
    rfl
  · change ((s.image.groups.mapValues fun _ cap => (⟨cap, [], 0⟩ : Group)).mapValues
      (rebuiltGroup (imageTaken s).luminaires)).get g = _
    rw [Table.get_mapValues, Table.get_mapValues, Option.map_map]
    rfl

end Sys2Proof.Machine
end

section
/-! PROOFS. The open-marker recall of START_UP, luminaire by luminaire (R210). -/

namespace Sys2Proof.Machine

/-! ### Writes that land -/

/-- Where no write fails, none fails on the way, the store state stays and nothing is raised. -/
def Landed (s t : State) : Prop := Faultless s → Faultless t ∧ t.storeState = s.storeState ∧ t.outbox = s.outbox

theorem Landed.refl (s : State) : Landed s s := fun h => ⟨h, rfl, rfl⟩

theorem Landed.trans {s t u : State} (h1 : Landed s t) (h2 : Landed t u) : Landed s u := fun h => by
  obtain ⟨hfaultless, hstore, houtbox⟩ := h1 h
  obtain ⟨hfaultless', hstore', houtbox'⟩ := h2 hfaultless
  exact ⟨hfaultless', hstore'.trans hstore, houtbox'.trans houtbox⟩

theorem writeItem_landed (i : Item) (s : State) : Landed s (writeItem i s) := fun h => by
  refine ⟨faultless_writeItem h i, ?_, ?_⟩ <;> rw [writeItem_lands i s h.writeFails] <;> rfl

theorem OnlyBranches.landed {s t : State} (h : OnlyBranches s t) : Landed s t := fun hs => by
  unfold OnlyBranches at h
  exact ⟨faultless_of_same hs (by rw [h]) (by rw [h]), by rw [h], by rw [h]⟩

section
variable {m : Image} {n : Nat} {l : Luminaire} {s : State}

theorem addResult_landed (r : ResultRecord) (s : State) : Landed s (addResult r s) :=
  Landed.trans (t := followAttn { s with results := s.results ++ [r], resultCounter := (s.resultCounter + 1) % 65536 })
    (fun h => ⟨h, rfl, rfl⟩) (writeItem_landed _ _)

theorem lostQueued_landed (m : Image) (n : Nat) (l : Luminaire) (s : State) : Landed s (lostQueued m n l s) := by
  unfold lostQueued
  split
  · exact addResult_landed _ s
  · exact .refl s

theorem markerCleared_landed (m : Image) (n : Nat) (l : Luminaire) (s : State) : Landed s (markerCleared m n l s) :=
  (lostQueued_landed m n l s).trans (Landed.trans
    (t := { lostQueued m n l s with luminaires := (lostQueued m n l s).luminaires.put n l.recalledAtStart })
    (fun h => ⟨h, rfl, rfl⟩) (writeItem_landed _ _))

theorem recallMarked_landed (m : Image) (s : State) (n : Nat) : Landed s (recallMarked m s n) := by
  cases hl : s.luminaires.get n with
  | none =>
    rw [recallMarked_unused hl]
    exact .refl s
  | some l =>
    cases hmarker : l.openMarker with
    | false =>
      rw [recallMarked_unmarked hl hmarker]
      exact .refl s
    | true =>
      rw [recallMarked_marked hl hmarker]
      exact (markerCleared_landed m n l s).trans (offer_only _ _ _).landed

/-! ### The result queue -/

/-- The result queue and its item, with the next number. -/
structure QueueIs (rs : List ResultRecord) (next : Nat) (s : State) : Prop where
  results : s.results = rs
  counter : s.resultCounter = next
  stored : s.image.results = rs
  storedCounter : s.image.counter = next

theorem addResult_queue {rs : List ResultRecord} {c : Nat} (h : QueueIs rs c s) (hs : Faultless s) (r : ResultRecord) :
    QueueIs (rs ++ [r]) ((c + 1) % 65536) (addResult r s) := by
  have hlands : addResult r s = landWrite .results
      (followAttn { s with results := s.results ++ [r], resultCounter := (s.resultCounter + 1) % 65536 }) :=
    writeItem_lands _ _ (Faultless.writeFails (s := followAttn
      { s with results := s.results ++ [r], resultCounter := (s.resultCounter + 1) % 65536 }) hs)
  rw [hlands, ← h.results, ← h.counter]
  exact ⟨rfl, rfl, rfl, rfl⟩

theorem QueueIs.cleared {rs : List ResultRecord} {c : Nat} (h : QueueIs rs c (lostQueued m n l s))
    (hs : Faultless s) : QueueIs rs c (markerCleared m n l s) := by
  unfold markerCleared
  rw [writeItem_lands _ _ (Faultless.writeFails (s := { lostQueued m n l s with
    luminaires := (lostQueued m n l s).luminaires.put n l.recalledAtStart }) ((lostQueued_landed m n l s hs).1))]
  exact ⟨h.results, h.counter, h.stored, h.storedCounter⟩

theorem QueueIs.offered {rs : List ResultRecord} {c : Nat} {t : State} (h : QueueIs rs c s) (ht : OnlyBranches s t) :
    QueueIs rs c t := by
  unfold OnlyBranches at ht
  rw [ht]
  exact ⟨h.results, h.counter, h.stored, h.storedCounter⟩

/-- One marked luminaire: its LOST record is queued where there is room (R181, R210). -/
theorem recallMarked_queue {rs : List ResultRecord} {c : Nat} (h : QueueIs rs c s) (hs : Faultless s)
    (hl : s.luminaires.get n = some l) (hmarker : l.openMarker = true) :
    QueueIs (if rs.length < 256 then rs ++ [lostRecord s n l ((m.luminaires.get n).bind StoredLuminaire.storedStart)] else rs)
      (if rs.length < 256 then (c + 1) % 65536 else c) (recallMarked m s n) := by
  rw [recallMarked_marked hl hmarker]
  refine QueueIs.offered (QueueIs.cleared ?_ hs) (offer_only _ _ _)
  unfold lostQueued
  rw [h.results]
  by_cases hroom : rs.length < 256
  · rw [if_pos hroom, if_pos hroom, if_pos (show rs.length < resultRoom from hroom)]
    exact addResult_queue h hs _
  · rw [if_neg hroom, if_neg hroom, if_neg (show ¬ rs.length < resultRoom from hroom)]
    exact h

/-! ### The luminaire items -/

theorem lostQueued_image (hs : Faultless s) : (lostQueued m n l s).image.luminaires = s.image.luminaires := by
  unfold lostQueued
  split
  · unfold addResult
    rw [writeItem_lands _ _ (Faultless.writeFails (s := followAttn
      { s with results := s.results ++ [lostRecord s n l ((m.luminaires.get n).bind StoredLuminaire.storedStart)]
               resultCounter := (s.resultCounter + 1) % 65536 }) hs)]
    rfl
  · rfl

/-- The item of a recalled luminaire. -/
def recalledItem (n : Nat) (l : Luminaire) : StoredLuminaire := storedLuminaire State.reset n l.recalledAtStart

theorem recalledAtStart_marker (l : Luminaire) : l.recalledAtStart.openMarker = false := by
  unfold Luminaire.recalledAtStart
  split
  · rfl
  · exact Bool.eq_false_iff.mpr ‹_›

theorem storedLuminaire_recalled (s : State) (n : Nat) (l : Luminaire) :
    storedLuminaire s n l.recalledAtStart = recalledItem n l := by
  unfold recalledItem storedLuminaire
  rw [recalledAtStart_marker, if_neg Bool.false_ne_true, if_neg Bool.false_ne_true]

theorem recallMarked_item (hs : Faultless s) (hl : s.luminaires.get n = some l) (hmarker : l.openMarker = true) (k : Nat) :
    (recallMarked m s n).image.luminaires.get k = if k = n then some (recalledItem n l) else s.image.luminaires.get k := by
  have honly := offer_only l.branch (stopExchange l.node n .recall false) (markerCleared m n l s)
  unfold OnlyBranches at honly
  rw [recallMarked_marked hl hmarker, honly]
  change (markerCleared m n l s).image.luminaires.get k = _
  unfold markerCleared
  rw [writeItem_lands _ _ (Faultless.writeFails (s := { lostQueued m n l s with
    luminaires := (lostQueued m n l s).luminaires.put n l.recalledAtStart }) ((lostQueued_landed m n l s hs).1))]
  have hput : ((lostQueued m n l s).luminaires.put n l.recalledAtStart).get n = some l.recalledAtStart :=
    Table.get_put_self _ n _
  change ((lostQueued m n l s).image.luminaires.set n
    ((((lostQueued m n l s).luminaires.put n l.recalledAtStart).get n).map (storedLuminaire _ n))).get k = _
  rw [hput, Option.map_some, storedLuminaire_recalled, lostQueued_image hs]
  exact Table.get_put _ _ _ _

/-! ### The branches -/

/-- Branch `b` after a STOP of the recall has been offered on it (R160, R210). -/
def Branch.offered (br : Branch) (e : Exchange) : Branch :=
  if br.state.works = true ∧ br.queue.length < 24 then { br with queue := br.queue ++ [e] } else br

theorem unreservedFree_idle {b : Fin 8} (hslots : s.slots = []) (hqueue : ∀ e ∈ s.branches[b].queue, e.reserved = false) :
    unreservedFree s b = 24 - s.branches[b].queue.length := by
  have hall : (s.branches[b].queue.filter fun e => !e.reserved) = s.branches[b].queue :=
    List.filter_eq_self.mpr fun e he => by rw [hqueue e he]; rfl
  unfold unreservedFree occupiedOn
  rw [hslots, hall]
  rfl

theorem offered_room {br : Branch} {e : Exchange} (hworks : br.state.works = true) (hroom : br.queue.length < 24) :
    br.offered e = { br with queue := br.queue ++ [e] } := if_pos ⟨hworks, hroom⟩

theorem offered_none {br : Branch} {e : Exchange} (h : br.state.works = false ∨ ¬ br.queue.length < 24) :
    br.offered e = br := by
  refine if_neg fun ⟨hworks, hroom⟩ => ?_
  rcases h with hstopped | hfull
  · rw [hworks] at hstopped
    cases hstopped
  · exact hfull hroom

theorem offer_idle {b : Fin 8} (e : Exchange) (hslots : s.slots = []) (hqueue : ∀ e ∈ s.branches[b].queue, e.reserved = false) :
    (offer b e s).branches[b] = s.branches[b].offered e := by
  unfold offer
  rw [unreservedFree_idle hslots hqueue]
  by_cases hroom : s.branches[b].queue.length < 24
  · rw [if_pos (Nat.sub_pos_of_lt hroom)]
    cases hworks : s.branches[b].state.works with
    | true =>
      rw [offered_room hworks hroom]
      exact enqueue_at b e s hworks
    | false =>
      rw [offered_none (.inl hworks)]
      have hkept : enqueue b e s = s := if_neg (ne_true_of_eq_false hworks)
      rw [hkept]
  · rw [if_neg (by omega), offered_none (.inr hroom)]

theorem offer_elsewhere (b : Fin 8) (e : Exchange) (s : State) {a : Fin 8} (h : a ≠ b) :
    (offer b e s).branches[a] = s.branches[a] := by
  unfold offer
  split
  · exact enqueue_other b a e s h
  · rfl

theorem markerCleared_branches (m : Image) (n : Nat) (l : Luminaire) (s : State) :
    (markerCleared m n l s).branches = s.branches := by
  have hqueued : (lostQueued m n l s).branches = s.branches := by
    unfold lostQueued
    split
    · unfold addResult
      rw [show writeItem _ _ = _ from writeItem_only _ _]
      rfl
    · rfl
  unfold markerCleared
  rw [show writeItem _ _ = _ from writeItem_only _ _]
  exact hqueued

theorem recallMarked_branch (hl : s.luminaires.get n = some l) (hmarker : l.openMarker = true) (hslots : s.slots = [])
    (hqueue : ∀ b : Fin 8, ∀ e ∈ s.branches[b].queue, e.reserved = false) (a : Fin 8) : (recallMarked m s n).branches[a] =
      if a = l.branch then s.branches[a].offered (stopExchange l.node n .recall false) else s.branches[a] := by
  have hloaded := markerCleared_loaded m n l s
  unfold OnlyLoaded at hloaded
  have hcleared : (markerCleared m n l s).slots = [] := by
    rw [hloaded]
    exact hslots
  have hbranches := markerCleared_branches m n l s
  have hat (b : Fin 8) : (markerCleared m n l s).branches[b] = s.branches[b] := by rw [hbranches]
  rw [recallMarked_marked hl hmarker]
  by_cases ha : a = l.branch
  · subst ha
    rw [if_pos rfl, offer_idle _ hcleared (by rw [hat]; exact hqueue l.branch), hat]
  · rw [if_neg ha, offer_elsewhere _ _ _ ha, hat]

end

end Sys2Proof.Machine
end

section
/-! PROOFS. The open-marker recall of START_UP as a whole (R210). -/

namespace Sys2Proof.Machine

/-- The recalls of the luminaires `ns`, one after the other. -/
def markersRecalled (m : Image) (ns : List Nat) (s : State) : State := ns.foldl (recallMarked m) s

/-- The items `qs` stand in the image, and their luminaires as restored from them. -/
def ReadsFrom (m : Image) (qs : List (Nat × StoredLuminaire)) (s : State) : Prop :=
  ∀ p ∈ qs, s.luminaires.get p.1 = some (restored p.2) ∧ m.luminaires.get p.1 = some p.2 ∧ p.2.branch < 8

theorem ReadsFrom.step {m : Image} {p : Nat × StoredLuminaire} {qs : List (Nat × StoredLuminaire)} {s : State}
    (h : ReadsFrom m (p :: qs) s) (hkeys : ((p :: qs).map Prod.fst).Nodup) : ReadsFrom m qs (recallMarked m s p.1) := by
  obtain ⟨hfresh, -⟩ := List.nodup_cons.mp hkeys
  intro q hq
  obtain ⟨hl, hm, hb⟩ := h q (List.mem_cons_of_mem _ hq)
  have hne : q.1 ≠ p.1 := fun he => hfresh (List.mem_map.mpr ⟨q, hq, he⟩)
  exact ⟨by rw [get_recallMarked, if_neg hne]; exact hl, hm, hb⟩

/-! ### The result queue -/

/-- The LOST record of a marked luminaire item, the `j`th one counted from number `first` (R180, R210). -/
def lostOf (first j : Nat) (p : Nat × StoredLuminaire) : ResultRecord :=
  { number := (first + j) % 65536, luminaire := p.1, branch := p.2.branch, node := p.2.node, origin := .unknown
    outcome := .lost, startTime := p.2.storedStart, endTime := none, elapsed := 0, endVoltage := none, bandAtStart := .unknown }

theorem lostOf_next (first j : Nat) (p : Nat × StoredLuminaire) :
    lostOf first (j + 1) p = lostOf ((first + 1) % 65536) j p := by
  have hnumber : (first + (j + 1)) % 65536 = ((first + 1) % 65536 + j) % 65536 := by omega
  unfold lostOf
  rw [hnumber]

theorem lostOf_shift (first : Nat) : (fun j => lostOf first (j + 1)) = lostOf ((first + 1) % 65536) :=
  funext fun j => funext fun p => lostOf_next first j p

theorem lostRecord_restored {m : Image} {p : Nat × StoredLuminaire} {s : State} {c : Nat}
    (hm : m.luminaires.get p.1 = some p.2) (hb : p.2.branch < 8) (hc : s.resultCounter = c) (hlt : c < 65536) :
    lostRecord s p.1 (restored p.2) ((m.luminaires.get p.1).bind StoredLuminaire.storedStart) = lostOf c 0 p := by
  have hbranch : ((restored p.2).branch : Nat) = p.2.branch := Nat.mod_eq_of_lt hb
  unfold lostRecord lostOf
  rw [hm, hbranch, hc, Nat.add_zero, Nat.mod_eq_of_lt hlt]
  rfl

/-- The marked ones of the items `qs` that still find room in a queue of `k` records (R181). -/
def countedOf (k : Nat) (qs : List (Nat × StoredLuminaire)) : List (Nat × StoredLuminaire) :=
  (qs.filter fun p => p.2.openMarker).take (256 - k)

section
variable {m : Image}

theorem markersRecalled_queue (qs : List (Nat × StoredLuminaire)) {s : State} {rs : List ResultRecord} {c : Nat}
    (hreads : ReadsFrom m qs s) (hkeys : (qs.map Prod.fst).Nodup) (hs : Faultless s) (h : QueueIs rs c s) (hc : c < 65536) :
    QueueIs (rs ++ (countedOf rs.length qs).mapIdx (lostOf c)) ((c + (countedOf rs.length qs).length) % 65536)
      (markersRecalled m (qs.map Prod.fst) s) := by
  induction qs generalizing s rs c with
  | nil =>
    have hnone : countedOf rs.length [] = [] := List.take_nil
    rw [hnone, List.mapIdx_nil, List.append_nil, List.length_nil, Nat.add_zero, Nat.mod_eq_of_lt hc]
    exact h
  | cons p qs ih =>
    obtain ⟨hl, hm, hb⟩ := hreads p List.mem_cons_self
    have hrest := hreads.step hkeys
    have hkeys' := (List.nodup_cons.mp hkeys).2
    have hs' := (recallMarked_landed m s p.1 hs).1
    cases hmarker : p.2.openMarker with
    | false =>
      have hskipped : countedOf rs.length (p :: qs) = countedOf rs.length qs := by
        unfold countedOf
        rw [List.filter_cons_of_neg (by rw [hmarker]; exact Bool.false_ne_true)]
      have hsame : recallMarked m s p.1 = s := recallMarked_unmarked hl hmarker
      rw [hsame] at hrest
      rw [hskipped]
      change QueueIs _ _ (markersRecalled m (qs.map Prod.fst) (recallMarked m s p.1))
      rw [hsame]
      exact ih hrest hkeys' hs h hc
    | true =>
      have hone := recallMarked_queue (m := m) h hs hl hmarker
      rw [lostRecord_restored hm hb h.counter hc] at hone
      change QueueIs _ _ (markersRecalled m (qs.map Prod.fst) (recallMarked m s p.1))
      by_cases hroom : rs.length < 256
      · rw [if_pos hroom, if_pos hroom] at hone
        have hmore := ih hrest hkeys' hs' hone (Nat.mod_lt _ (by decide))
        have hcounted : countedOf rs.length (p :: qs) = p :: countedOf (rs ++ [lostOf c 0 p]).length qs := by
          unfold countedOf
          rw [List.filter_cons_of_pos (p := fun p : Nat × StoredLuminaire => p.2.openMarker) hmarker, List.length_append,
            List.length_singleton]
          obtain ⟨k, hk⟩ : ∃ k, 256 - rs.length = k + 1 := ⟨255 - rs.length, by omega⟩
          rw [hk, List.take_succ_cons, show 256 - (rs.length + 1) = k by omega]
        rw [hcounted, List.mapIdx_cons, List.length_cons, lostOf_shift]
        rw [List.append_assoc] at hmore
        have hnumber (k : Nat) : ((c + 1) % 65536 + k) % 65536 = (c + (k + 1)) % 65536 := by omega
        rw [hnumber] at hmore
        exact hmore
      · rw [if_neg hroom, if_neg hroom] at hone
        have hmore := ih hrest hkeys' hs' hone hc
        have hfull (xs : List (Nat × StoredLuminaire)) : countedOf rs.length xs = [] := by
          unfold countedOf
          rw [show 256 - rs.length = 0 by omega, List.take_zero]
        rw [hfull] at hmore ⊢
        exact hmore

/-! ### The luminaire items -/

theorem markersRecalled_item (ns : List Nat) {s : State} (hs : Faultless s) {k : Nat} {l : Luminaire}
    (hl : s.luminaires.get k = some l) : (markersRecalled m ns s).image.luminaires.get k =
      if k ∈ ns ∧ l.openMarker = true then some (recalledItem k l) else s.image.luminaires.get k := by
  induction ns generalizing s l with
  | nil => exact (if_neg fun h => List.not_mem_nil h.1).symm
  | cons n ns ih =>
    have hs' := (recallMarked_landed m s n hs).1
    change (markersRecalled m ns (recallMarked m s n)).image.luminaires.get k = _
    by_cases hk : k = n
    · subst hk
      have hnow : (recallMarked m s k).luminaires.get k = some l.recalledAtStart := by
        rw [get_recallMarked, if_pos rfl, hl]
        rfl
      rw [ih hs' hnow, if_neg fun h => by rw [recalledAtStart_marker] at h; exact Bool.false_ne_true h.2]
      cases hmarker : l.openMarker with
      | true => rw [recallMarked_item hs hl hmarker, if_pos rfl, if_pos ⟨List.mem_cons_self, rfl⟩]
      | false => rw [recallMarked_unmarked hl hmarker, if_neg fun h => Bool.false_ne_true h.2]
    · have hnow : (recallMarked m s n).luminaires.get k = some l := by
        rw [get_recallMarked, if_neg hk]
        exact hl
      have hitem : (recallMarked m s n).image.luminaires.get k = s.image.luminaires.get k := by
        cases hn : s.luminaires.get n with
        | none => rw [recallMarked_unused hn]
        | some x =>
          cases hmarker : x.openMarker with
          | true => rw [recallMarked_item hs hn hmarker, if_neg hk]
          | false => rw [recallMarked_unmarked hn hmarker]
      rw [ih hs' hnow, hitem]
      simp only [List.mem_cons, hk, false_or]

/-! ### The branches -/

/-- Branch `b` after the STOPs `es` of the recall have been offered on it (R160, R210). -/
def Branch.offeredAll (br : Branch) (es : List Exchange) : Branch :=
  { br with queue := if br.state.works then br.queue ++ es.take (24 - br.queue.length) else br.queue }

theorem offeredAll_nil (br : Branch) : br.offeredAll [] = br := by
  unfold Branch.offeredAll
  rw [List.take_nil, List.append_nil, ite_self]

theorem offeredAll_offered (br : Branch) (e : Exchange) (es : List Exchange) :
    (br.offered e).offeredAll es = br.offeredAll (e :: es) := by
  cases hworks : br.state.works with
  | false =>
    rw [offered_none (.inl hworks)]
    unfold Branch.offeredAll
    rw [hworks, if_neg Bool.false_ne_true, if_neg Bool.false_ne_true]
  | true =>
    by_cases hroom : br.queue.length < 24
    · rw [offered_room hworks hroom]
      obtain ⟨k, hk⟩ : ∃ k, 24 - br.queue.length = k + 1 := ⟨23 - br.queue.length, by omega⟩
      unfold Branch.offeredAll
      dsimp only
      rw [hworks, if_pos rfl, if_pos rfl, List.length_append, List.length_singleton, hk, List.take_succ_cons,
        show 24 - (br.queue.length + 1) = k by omega, List.append_assoc, List.singleton_append]
    · rw [offered_none (.inr hroom)]
      unfold Branch.offeredAll
      rw [show 24 - br.queue.length = 0 by omega, List.take_zero, List.take_zero]

/-- The STOPs that the recall of the items `qs` offers on branch `b` (R210). -/
def stopsFor (b : Fin 8) (qs : List (Nat × StoredLuminaire)) : List Exchange :=
  ((qs.filter fun p => p.2.openMarker).filter fun p => p.2.branch == b.val).map fun p =>
    stopExchange p.2.node p.1 .recall false

theorem offered_unreserved {br : Branch} {e : Exchange} (he : e.reserved = false)
    (h : ∀ x ∈ br.queue, x.reserved = false) : ∀ x ∈ (br.offered e).queue, x.reserved = false := by
  unfold Branch.offered
  split
  · intro x hx
    rcases List.mem_append.mp hx with hx | hx
    · exact h x hx
    · rw [List.mem_singleton.mp hx]
      exact he
  · exact h

theorem markersRecalled_branch (qs : List (Nat × StoredLuminaire)) {s : State} (hreads : ReadsFrom m qs s)
    (hkeys : (qs.map Prod.fst).Nodup) (hslots : s.slots = [])
    (hqueue : ∀ b : Fin 8, ∀ e ∈ s.branches[b].queue, e.reserved = false) (b : Fin 8) :
    (markersRecalled m (qs.map Prod.fst) s).branches[b] = s.branches[b].offeredAll (stopsFor b qs) := by
  induction qs generalizing s with
  | nil => exact (offeredAll_nil _).symm
  | cons p qs ih =>
    obtain ⟨hl, -, hb⟩ := hreads p List.mem_cons_self
    have hrest := hreads.step hkeys
    have hkeys' := (List.nodup_cons.mp hkeys).2
    have hloaded := recallMarked_loaded m s p.1
    unfold OnlyLoaded at hloaded
    have hslots' : (recallMarked m s p.1).slots = [] := by
      rw [hloaded]
      exact hslots
    change (markersRecalled m (qs.map Prod.fst) (recallMarked m s p.1)).branches[b] = _
    cases hmarker : p.2.openMarker with
    | false =>
      have hsame : recallMarked m s p.1 = s := recallMarked_unmarked hl hmarker
      have hskipped : stopsFor b (p :: qs) = stopsFor b qs := by
        unfold stopsFor
        rw [List.filter_cons_of_neg (by rw [hmarker]; exact Bool.false_ne_true)]
      rw [hsame] at hrest ⊢
      rw [hskipped, ih hrest hkeys' hslots hqueue]
    | true =>
      have hbranch := recallMarked_branch (m := m) hl hmarker hslots hqueue
      have hqueue' : ∀ a : Fin 8, ∀ e ∈ (recallMarked m s p.1).branches[a].queue, e.reserved = false := by
        intro a
        rw [hbranch a]
        split
        · exact offered_unreserved rfl (hqueue a)
        · exact hqueue a
      have hat : b = (restored p.2).branch ↔ (p.2.branch == b.val) = true := by
        rw [beq_iff_eq, Fin.ext_iff]
        change b.val = p.2.branch % 8 ↔ _
        rw [Nat.mod_eq_of_lt hb]
        exact eq_comm
      rw [ih hrest hkeys' hslots' hqueue', hbranch b]
      unfold stopsFor
      rw [List.filter_cons_of_pos (p := fun p : Nat × StoredLuminaire => p.2.openMarker) hmarker]
      by_cases hhere : b = (restored p.2).branch
      · rw [if_pos hhere,
          List.filter_cons_of_pos (p := fun p : Nat × StoredLuminaire => p.2.branch == b.val) (hat.mp hhere),
          List.map_cons, ← offeredAll_offered]
        rfl
      · rw [if_neg hhere,
          List.filter_cons_of_neg (p := fun p : Nat × StoredLuminaire => p.2.branch == b.val) (fun h => hhere (hat.mpr h))]

end

/-! ### The whole start-up -/

theorem imageOk_item {m : Image} (h : imageOk m = true) {p : Nat × StoredLuminaire} (hp : p ∈ m.luminaires) :
    p.2.branch < 8 ∧ p.2.cls < 8 := by
  unfold imageOk at h
  simp only [Bool.and_eq_true, List.all_eq_true] at h
  obtain ⟨⟨⟨⟨⟨⟨⟨⟨⟨⟨⟨⟨⟨-, hitems⟩, -⟩, -⟩, -⟩, -⟩, -⟩, -⟩, -⟩, -⟩, -⟩, -⟩, -⟩, -⟩ := h
  have hin := (hitems p hp).2
  unfold StoredLuminaire.inRange at hin
  simp only [Bool.and_eq_true, decide_eq_true_eq] at hin
  obtain ⟨⟨⟨⟨⟨⟨⟨⟨⟨hbranch, -⟩, -⟩, hcls⟩, -⟩, -⟩, -⟩, -⟩, -⟩, -⟩ := hin
  exact ⟨hbranch, hcls⟩

theorem imageOk_counter {m : Image} (h : imageOk m = true) : m.counter < 65536 := by
  unfold imageOk at h
  simp only [Bool.and_eq_true, decide_eq_true_eq] at h
  obtain ⟨⟨⟨⟨⟨⟨-, hcounter⟩, -⟩, -⟩, -⟩, -⟩, -⟩ := h
  exact hcounter

theorem recalledAtStart_restored {i : StoredLuminaire} (h : i.openMarker = true) : (restored i).recalledAtStart =
    { restored i with state := .recharging, recharge := some .pending, openMarker := false } := by
  unfold Luminaire.recalledAtStart
  rw [if_pos (show (restored i).openMarker = true from h)]
  unfold Luminaire.enter
  split
  · rename_i hstate
    rw [hstate]
  · rfl

theorem recalledItem_restored {i : StoredLuminaire} {n : Nat} (h : i.openMarker = true) (hb : i.branch < 8) (hc : i.cls < 8) :
    recalledItem n (restored i) =
      { i with service := .recharging, recharge := some .pending, openMarker := false, storedStart := none } := by
  have hbranch : ((restored i).branch : Nat) = i.branch := Nat.mod_eq_of_lt hb
  have hcls : ((restored i).cls : Nat) = i.cls := Nat.mod_eq_of_lt hc
  unfold recalledItem
  rw [recalledAtStart_restored h]
  unfold storedLuminaire
  dsimp only
  rw [hbranch, hcls]
  rfl

end Sys2Proof.Machine
end

section
/-! PROOFS. START_UP with marked luminaires in the image (R210). -/

namespace Sys2Proof.Machine

section
variable {s : State}

/-- The part after the open-marker recall, the EMG line released (R210). -/
def recalledUp (s : State) : State := recallMarkers (imageTaken s)

theorem startUp_recalls (hok : imageOk s.image = true) (hline : s.emgLine = false) : exec .startUp s =
    .next (finish { followAttn { rebuild (recalledUp s) with emgKept := false } with trigger := false }) := by
  have hbooted : booted false (opened s) = rebuild (recalledUp s) := by
    unfold booted
    rw [loadImage_ok hok]
    rfl
  have hloaded := recallMarkers_loaded (imageTaken s)
  unfold OnlyLoaded at hloaded
  have hreleased : (rebuild (recalledUp s)).emgLine = false := by
    change (recallMarkers (imageTaken s)).emgLine = false
    rw [hloaded]
    exact hline
  rw [exec_startUp, hbooted, readEmg_released hreleased]

theorem recalledUp_eq (s : State) :
    recalledUp s = markersRecalled s.image (s.image.luminaires.map Prod.fst) (imageTaken s) := by
  have hkeys : (imageTaken s).luminaires.keys = s.image.luminaires.keys :=
    Table.keys_mapValues s.image.luminaires (fun _ i => restored i)
  unfold recalledUp recallMarkers
  rw [hkeys]
  rfl

theorem imageKeys_nodup (hr : s.image.luminaires.Rising) : (s.image.luminaires.map Prod.fst).Nodup := hr.imp Nat.ne_of_lt

theorem imageTaken_reads (hok : imageOk s.image = true) (hr : s.image.luminaires.Rising) :
    ReadsFrom s.image s.image.luminaires (imageTaken s) := fun p hp => by
  have hget := Table.get_of_mem hr hp
  refine ⟨?_, hget, (imageOk_item hok hp).1⟩
  rw [get_imageTaken, hget]
  rfl

theorem imageTaken_faultless (hfates : s.writeFates = []) : Faultless (imageTaken s) := ⟨hfates, rfl⟩

theorem imageTaken_queue (s : State) : QueueIs s.image.results s.image.counter (imageTaken s) := ⟨rfl, rfl, rfl, rfl⟩

/-- The result queue after the recall (R181, R210). -/
theorem recalledUp_queue (hok : imageOk s.image = true) (hfates : s.writeFates = []) (hr : s.image.luminaires.Rising) :
    QueueIs (s.image.results ++ (countedOf s.image.results.length s.image.luminaires).mapIdx (lostOf s.image.counter))
      ((s.image.counter + (countedOf s.image.results.length s.image.luminaires).length) % 65536) (recalledUp s) := by
  rw [recalledUp_eq s]
  exact markersRecalled_queue _ (imageTaken_reads hok hr) (imageKeys_nodup hr) (imageTaken_faultless hfates) (imageTaken_queue s)
    (imageOk_counter hok)

theorem get_recalledUp (hr : s.image.luminaires.Rising) {n : Nat} {i : StoredLuminaire} (hi : s.image.luminaires.get n = some i) :
    (recalledUp s).luminaires.get n = some (restored i).recalledAtStart := by
  have hn : n ∈ s.image.luminaires.map Prod.fst := Table.mem_keys_of_get hi
  rw [recalledUp_eq s]
  unfold markersRecalled
  rw [get_foldl_each (fun t k j => get_recallMarked _ k j t) (imageKeys_nodup hr), if_pos hn, get_imageTaken, hi]
  rfl

theorem item_recalledUp (hfates : s.writeFates = []) {n : Nat} {i : StoredLuminaire}
    (hi : s.image.luminaires.get n = some i) : (recalledUp s).image.luminaires.get n =
      if i.openMarker = true then some (recalledItem n (restored i)) else some i := by
  have hn : n ∈ s.image.luminaires.map Prod.fst := Table.mem_keys_of_get hi
  have hl : (imageTaken s).luminaires.get n = some (restored i) := by
    rw [get_imageTaken, hi]
    rfl
  rw [recalledUp_eq s, markersRecalled_item _ (imageTaken_faultless hfates) hl]
  cases hmarker : i.openMarker with
  | true => rw [if_pos ⟨hn, hmarker⟩, if_pos rfl]
  | false =>
    rw [if_neg fun h => ne_true_of_eq_false hmarker h.2, if_neg Bool.false_ne_true]
    exact hi

/-- The branches after the recall (R160, R210). -/
theorem recalledUp_branch (hok : imageOk s.image = true) (hr : s.image.luminaires.Rising) (b : Fin 8) :
    (recalledUp s).branches[b] =
      { state := if s.image.branchOff[b] then .off else .ready, hostOff := s.image.branchOff[b]
        queue := if s.image.branchOff[b] then [] else (stopsFor b s.image.luminaires).take 24 } := by
  have hidle : ∀ a : Fin 8, ∀ e ∈ (imageTaken s).branches[a].queue, e.reserved = false := by
    intro a e he
    rw [imageTaken_branches] at he
    cases he
  rw [recalledUp_eq s, markersRecalled_branch _ (imageTaken_reads hok hr) (imageKeys_nodup hr) rfl hidle b,
    imageTaken_branches]
  cases s.image.branchOff[b] <;> rfl

theorem recalledUp_landed (hfates : s.writeFates = []) :
    (recalledUp s).storeState = .ok ∧ (recalledUp s).outbox = [] := by
  have hlanded : Landed (imageTaken s) (recalledUp s) := by
    rw [recalledUp_eq s]
    exact foldl_only Landed.refl Landed.trans (fun t n => recallMarked_landed s.image t n) _ _
  obtain ⟨-, hstore, houtbox⟩ := hlanded (imageTaken_faultless hfates)
  exact ⟨hstore, houtbox⟩

theorem recalledUp_slots (s : State) : (recalledUp s).slots = [] := by
  have hloaded := recallMarkers_loaded (imageTaken s)
  unfold OnlyLoaded at hloaded
  unfold recalledUp
  rw [hloaded]
  rfl

end

/-- Settles O50: each marked luminaire is recalled, in ascending number: its LOST record, its STOP, its record and its item. -/
theorem theRecallQueuesLostRecords : Obligations.TheRecallQueuesLostRecords := by
  unfold Obligations.TheRecallQueuesLostRecords
  intro s hok hfates hline hr
  obtain ⟨hresults, hcounter, hstored, hstoredCounter⟩ := recalledUp_queue hok hfates hr
  obtain ⟨hstore, houtbox⟩ := recalledUp_landed hfates
  have hstops (b : Fin 8) : (stopsFor b s.image.luminaires).take 24 =
      (((s.image.luminaires.filter fun p => p.2.openMarker).filter fun p => p.2.branch == b.val).take 24).map fun p =>
        stopExchange p.2.node p.1 .recall false := List.map_take.symm
  have hbranch (b : Fin 8) := recalledUp_branch (s := s) hok hr b
  simp only [hstops] at hbranch
  refine ⟨_, startUp_recalls hok hline, hstore, recalledUp_slots s, hresults, hcounter, hstored.trans hresults.symm,
    hstoredCounter.trans hcounter.symm, fun n i hi hmarker => ⟨?_, ?_⟩, fun n i hi hmarker => ⟨?_, ?_⟩, hbranch, ?_⟩
  · exact (get_recalledUp hr hi).trans (congrArg some (recalledAtStart_restored hmarker))
  · obtain ⟨hb, hc⟩ := imageOk_item hok (Table.mem_of_get hi)
    refine (item_recalledUp hfates hi).trans ?_
    rw [if_pos hmarker, recalledItem_restored hmarker hb hc]
  · refine (get_recalledUp hr hi).trans ?_
    unfold Luminaire.recalledAtStart
    rw [if_neg (show ¬ (restored i).openMarker = true from ne_true_of_eq_false hmarker)]
  · refine (item_recalledUp hfates hi).trans ?_
    rw [if_neg (ne_true_of_eq_false hmarker)]
  · change (!(recalledUp s).results.isEmpty || !(recalledUp s).outbox.isEmpty) = !(recalledUp s).results.isEmpty
    rw [houtbox]
    exact Bool.or_false _

end Sys2Proof.Machine
end

section
/-! PROOFS. What the steps of a restart carry on from one to the next (R208 to R211). -/

namespace Sys2Proof.Machine

/-! ### What is carried -/

/-- The fields of a record that the recall, the pending recharges and the arrivals leave (R42, R45, R210). -/
def Luminaire.steady (l : Luminaire) : Fin 8 × Nat × Fin 8 × List Nat × Nat × Latches × Option LastResult :=
  (l.branch, l.node, l.cls, l.groups, l.due, l.latches, l.lastResult)

/-- Notices are lost only to a full outbox (R185). -/
def LostWhenFull (s : State) : Prop := s.noticesLost = true → 32 ≤ s.outbox.length

/-- What a step that leads from `s` to `t` carries on: the settings, the results, the branches' states, the steady fields of the
records, and a trigger. -/
structure Carries (s t : State) : Prop where
  classes : t.classes = s.classes
  windows : t.windows = s.windows
  blackouts : t.blackouts = s.blackouts
  mode : t.mode = s.mode
  params : t.params = s.params
  mask : t.mask = s.mask
  groups : t.groups.keys = s.groups.keys
  results : s.results <+: t.results
  states : ∀ b : Fin 8, t.branches[b].state = s.branches[b].state
  records : ∀ n, (t.luminaires.get n).map Luminaire.steady = (s.luminaires.get n).map Luminaire.steady
  lost : LostWhenFull s → LostWhenFull t
  trigger : s.trigger = true → t.trigger = true

theorem Carries.refl (s : State) : Carries s s :=
  ⟨rfl, rfl, rfl, rfl, rfl, rfl, rfl, List.prefix_refl _, fun _ => rfl, fun _ => rfl, id, id⟩

theorem Carries.trans {s t u : State} (h1 : Carries s t) (h2 : Carries t u) : Carries s u :=
  ⟨h2.classes.trans h1.classes, h2.windows.trans h1.windows, h2.blackouts.trans h1.blackouts, h2.mode.trans h1.mode,
    h2.params.trans h1.params, h2.mask.trans h1.mask, h2.groups.trans h1.groups, h1.results.trans h2.results,
    fun b => (h2.states b).trans (h1.states b), fun n => (h2.records n).trans (h1.records n), fun h => h2.lost (h1.lost h),
    fun h => h2.trigger (h1.trigger h)⟩

/-! ### The steps that carry -/

theorem raise_lostWhenFull (b : NoticeBody) {s : State} (h : LostWhenFull s) : LostWhenFull (raise b s) := by
  unfold raise
  split
  · exact h
  · split
    · rename_i hfull
      exact fun _ => hfull
    · intro hlost
      have hlen : 32 ≤ s.outbox.length := h hlost
      exact hlen.trans (by rw [followAttn_outbox, List.length_append]; exact Nat.le_add_right _ _)

theorem raise_carries (b : NoticeBody) (s : State) : Carries s (raise b s) := by
  have h := raise_only b s
  have hlost := @raise_lostWhenFull b s
  unfold OnlyNotices at h
  generalize raise b s = t at *
  rw [h] at hlost ⊢
  exact ⟨rfl, rfl, rfl, rfl, rfl, rfl, rfl, List.prefix_refl _, fun _ => rfl, fun _ => rfl, fun hs => hlost hs, id⟩

theorem writeItem_carries (i : Item) (s : State) : Carries s (writeItem i s) := by
  cases hfails : writeFails s with
  | false =>
    rw [writeItem_lands i s hfails]
    exact ⟨rfl, rfl, rfl, rfl, rfl, rfl, rfl, List.prefix_refl _, fun _ => rfl, fun _ => rfl, id, id⟩
  | true =>
    rw [writeItem_fails i s hfails, failWrite_eq]
    exact Carries.trans (t := faulted s)
      ⟨rfl, rfl, rfl, rfl, rfl, rfl, rfl, List.prefix_refl _, fun _ => rfl, fun _ => rfl, id, id⟩ (raise_carries _ _)

theorem triggerPass_carries (s : State) : Carries s (triggerPass s) :=
  ⟨rfl, rfl, rfl, rfl, rfl, rfl, rfl, List.prefix_refl _, fun _ => rfl, fun _ => rfl, id, fun _ => Bool.or_true _⟩

theorem records_put {n : Nat} {l l' : Luminaire} {t : Table Luminaire} (hl : t.get n = some l) (h : l'.steady = l.steady)
    (m : Nat) : ((t.put n l').get m).map Luminaire.steady = (t.get m).map Luminaire.steady := by
  rw [Table.get_put]
  by_cases hm : m = n
  · rw [if_pos hm, hm, hl, Option.map_some, Option.map_some, h]
  · rw [if_neg hm]

theorem putLum_carries {n : Nat} {l l' : Luminaire} {s : State} (hl : s.luminaires.get n = some l) (h : l'.steady = l.steady) :
    Carries s (putLum n (some l') s) := by
  have honly := putLum_tables n (some l') s
  have hgroups := putLum_groups n (some l') s
  have hluminaires := putLum_luminaires n (some l') s
  have htrigger := @putLum_keeps_trigger n (some l') s
  have hrecords := records_put hl h
  unfold OnlyTables withRecords at honly
  generalize putLum n (some l') s = t at *
  refine ⟨?_, ?_, ?_, ?_, ?_, ?_, ?_, ?_, fun b => ?_, fun m => ?_, fun hs => ?_, htrigger⟩
  case refine_7 => rw [hgroups, Table.keys_mapValues]
  case refine_10 =>
    rw [hluminaires]
    exact hrecords m
  case refine_8 => rw [honly]
  case refine_11 =>
    rw [honly]
    exact hs
  all_goals rw [honly]

theorem offer_carries (b : Fin 8) (e : Exchange) (s : State) : Carries s (offer b e s) := by
  have h := offer_only b e s
  have hstates : ∀ a : Fin 8, (offer b e s).branches[a].state = s.branches[a].state := by
    intro a
    unfold offer
    split
    · by_cases ha : a = b
      · subst ha
        cases hworks : s.branches[a].state.works with
        | true => rw [enqueue_at a e s hworks]
        | false => rw [show enqueue a e s = s from if_neg (ne_true_of_eq_false hworks)]
      · rw [enqueue_other b a e s ha]
    · rfl
  unfold OnlyBranches at h
  generalize offer b e s = t at *
  refine ⟨?_, ?_, ?_, ?_, ?_, ?_, ?_, ?_, hstates, fun n => ?_, fun hs => ?_, fun hs => ?_⟩
  case refine_10 =>
    rw [h]
    exact hs
  case refine_11 =>
    rw [h]
    exact hs
  all_goals rw [h]

/-! ### The recall -/

theorem enter_steady (l : Luminaire) (st : LumState) : (l.enter st).steady = l.steady := by
  unfold Luminaire.enter
  split <;> rfl

theorem recalledAtStart_steady (l : Luminaire) : l.recalledAtStart.steady = l.steady := by
  unfold Luminaire.recalledAtStart
  split
  · exact enter_steady l .recharging
  · rfl

theorem lostQueued_carries (m : Image) (n : Nat) (l : Luminaire) (s : State) : Carries s (lostQueued m n l s) := by
  unfold lostQueued
  split
  · unfold addResult
    exact Carries.trans (t := followAttn
      { s with results := s.results ++ [lostRecord s n l ((m.luminaires.get n).bind StoredLuminaire.storedStart)]
               resultCounter := (s.resultCounter + 1) % 65536 })
      ⟨rfl, rfl, rfl, rfl, rfl, rfl, rfl, List.prefix_append _ _, fun _ => rfl, fun _ => rfl, id, id⟩ (writeItem_carries _ _)
  · exact .refl s

theorem lostQueued_luminaires (m : Image) (n : Nat) (l : Luminaire) (s : State) :
    (lostQueued m n l s).luminaires = s.luminaires := by
  unfold lostQueued
  split
  · exact addResult_luminaires _ s
  · rfl

theorem markerCleared_carries (m : Image) {n : Nat} {l : Luminaire} {s : State} (hl : s.luminaires.get n = some l) :
    Carries s (markerCleared m n l s) := by
  unfold markerCleared
  refine ((lostQueued_carries m n l s).trans ?_).trans (writeItem_carries _ _)
  have hl' : (lostQueued m n l s).luminaires.get n = some l := by
    rw [lostQueued_luminaires]
    exact hl
  exact ⟨rfl, rfl, rfl, rfl, rfl, rfl, rfl, List.prefix_refl _, fun _ => rfl, records_put hl' (recalledAtStart_steady l), id, id⟩

theorem recallMarked_carries (m : Image) (s : State) (n : Nat) : Carries s (recallMarked m s n) := by
  cases hl : s.luminaires.get n with
  | none =>
    rw [recallMarked_unused hl]
    exact .refl s
  | some l =>
    cases hmarker : l.openMarker with
    | false =>
      rw [recallMarked_unmarked hl hmarker]
      exact .refl s
    | true =>
      rw [recallMarked_marked hl hmarker]
      exact (markerCleared_carries m hl).trans (offer_carries _ _ _)

theorem recallMarkers_carries (s : State) : Carries s (recallMarkers s) :=
  foldl_only Carries.refl Carries.trans (fun t n => recallMarked_carries s.image t n) _ s

theorem rebuild_carries (s : State) : Carries s (rebuild s) :=
  ⟨rfl, rfl, rfl, rfl, rfl, rfl, Table.keys_mapValues _ _, List.prefix_refl _, fun _ => rfl, fun _ => rfl, id, id⟩

/-! ### Pending recharges and arrivals -/

theorem storeRecord_carries {n : Nat} {l l' : Luminaire} {s : State} (hl : s.luminaires.get n = some l)
    (h : l'.steady = l.steady) : Carries s (writeItem (.luminaire n) (putLum n (some l') s)) :=
  (putLum_carries hl h).trans (writeItem_carries _ _)

theorem resolvePending_carries (n : Nat) (s : State) : Carries s (resolvePending n s) := by
  unfold resolvePending
  split
  · rename_i l hl
    split
    · exact storeRecord_carries hl rfl
    · exact .refl s
  · exact .refl s

theorem checkOverdue_carries (n : Nat) (s : State) : Carries s (checkOverdue n s) := by
  unfold checkOverdue
  split
  · rename_i l hl
    split
    · refine (raise_carries _ s).trans (storeRecord_carries (l := l) ?_ rfl)
      rw [raise_luminaires]
      exact hl
    · exact .refl s
  · exact .refl s

theorem holdOffArrives_carries (n : Nat) (s : State) : Carries s (holdOffArrives n s) := by
  unfold holdOffArrives
  split
  · rename_i l hl
    split
    · exact (storeRecord_carries (l' := { l with holdOff := none }) hl rfl).trans (triggerPass_carries _)
    · exact .refl s
  · exact .refl s

theorem rechargeArrives_carries (n : Nat) (s : State) : Carries s (rechargeArrives n s) := by
  unfold rechargeArrives
  split
  · rename_i l hl
    split
    · exact ((storeRecord_carries (l' := { l.enter (waitState s l.due) with recharge := none }) hl
        (enter_steady l _)).trans (triggerPass_carries _)).trans (checkOverdue_carries n _)
    · exact .refl s
  · exact .refl s

theorem dueArrives_carries (n : Nat) (s : State) : Carries s (dueArrives n s) := by
  unfold dueArrives
  split
  · rename_i l hl
    split
    · exact putLum_carries hl (enter_steady l _)
    · exact .refl s
  · exact .refl s

theorem instantsArrive_carries (n : Nat) (s : State) : Carries s (instantsArrive n s) :=
  (((holdOffArrives_carries n s).trans (rechargeArrives_carries n _)).trans (dueArrives_carries n _)).trans
    (checkOverdue_carries n _)

theorem allInstantsArrive_carries (s : State) : Carries s (allInstantsArrive s) :=
  foldl_only Carries.refl Carries.trans (fun t n => instantsArrive_carries n t) _ s

theorem resolved_carries (s : State) : Carries s (resolved s) := by
  unfold resolved
  split
  · exact .refl s
  · exact foldl_only Carries.refl Carries.trans (fun t n => resolvePending_carries n t) _ s

/-! ### The window -/

theorem windowEvent_lostWhenFull {s : State} (h : LostWhenFull s) : LostWhenFull (windowEvent s) := by
  unfold windowEvent
  split
  · exact h
  · split
    · exact raise_lostWhenFull (.windowOpen s.mode (openIntervalEnd s)) (s := { s with windowOpen := true }) h
    · exact raise_lostWhenFull (.windowClose s.mode) (s := { s with windowOpen := false }) h

theorem windowEvent_carries (s : State) : Carries s (windowEvent s) := by
  have h := windowEvent_only_open s
  have hlost := @windowEvent_lostWhenFull s
  have htrigger := @windowEvent_keeps_trigger s
  generalize windowEvent s = t at *
  refine ⟨?_, ?_, ?_, ?_, ?_, ?_, ?_, ?_, fun b => ?_, fun n => ?_, hlost, htrigger⟩
  all_goals rw [h]

end Sys2Proof.Machine
end

section
/-! PROOFS. RESTART and what the part comes up with (R205, R211). -/

namespace Sys2Proof.Machine

/-! ### Before the EMG line is read -/

/-- The part as RESTART has loaded it, its instants arrived and its window evaluated, before the EMG line is read (R211). -/
def restarted (s : State) : State := windowEvent (allInstantsArrive (resolved (booted true s)))

/-- Only what is loaded, and what the arrivals and the window touch, differs from the fresh part. -/
theorem restarted_only (s : State) : restarted s = { fresh true s with
    luminaires := (restarted s).luminaires, classes := (restarted s).classes, groups := (restarted s).groups
    windows := (restarted s).windows, blackouts := (restarted s).blackouts, mode := (restarted s).mode
    params := (restarted s).params, mask := (restarted s).mask, branches := (restarted s).branches
    results := (restarted s).results, resultCounter := (restarted s).resultCounter, schedule := (restarted s).schedule
    outbox := (restarted s).outbox, noticesLost := (restarted s).noticesLost, attn := (restarted s).attn
    image := (restarted s).image, lastWrites := (restarted s).lastWrites, storeState := (restarted s).storeState
    writeFates := (restarted s).writeFates, writeFailed := (restarted s).writeFailed, windowOpen := (restarted s).windowOpen
    trigger := (restarted s).trigger } := by
  have hloaded := booted_loaded true s
  have hresolved := resolved_only (booted true s)
  have harrived := allInstantsArrive_only (resolved (booted true s))
  have hwindow := windowEvent_only_open (allInstantsArrive (resolved (booted true s)))
  unfold restarted
  unfold OnlyLoaded at hloaded
  unfold OnlyRecords at hresolved harrived
  generalize windowEvent (allInstantsArrive (resolved (booted true s))) = v at *
  generalize allInstantsArrive (resolved (booted true s)) = x at *
  generalize resolved (booted true s) = r at *
  generalize booted true s = b at *
  rw [hwindow, harrived, hresolved, hloaded]

theorem restarts_restarted (s : State) : restarts s = followAttn (readEmg (restarted s)) := by
  have hloaded := booted_loaded true s
  have hresolved := resolved_only (booted true s)
  have harrived := allInstantsArrive_only (resolved (booted true s))
  unfold OnlyLoaded at hloaded
  unfold OnlyRecords at hresolved harrived
  have hstaged : (allInstantsArrive (resolved (booted true s))).staged = none := by
    rw [harrived, hresolved, hloaded]
    rfl
  rw [restarts_eq, evaluateWindow_otherwise fun h => by rw [hstaged] at h; exact (nomatch h.2.2)]
  rfl

theorem loadImage_lostWhenFull {s : State} (h : LostWhenFull s) : LostWhenFull (loadImage s) := by
  unfold loadImage
  split
  · exact h
  · cases hfailed : blankFailures s.writeFates with
    | nil =>
      rw [writeBlank_succeeds (s := takeImage {} s) hfailed]
      exact h
    | cons i rest =>
      rw [writeBlank_fails (s := takeImage {} s) hfailed]
      exact raise_lostWhenFull (.storeFault i) (s := blanked (takeImage {} s)) h

/-- What the restart carries from the image on. -/
theorem restarted_carries (s : State) : Carries (loadImage (fresh true s)) (restarted s) :=
  ((((recallMarkers_carries _).trans (rebuild_carries _)).trans (resolved_carries _)).trans (allInstantsArrive_carries _)).trans
    (windowEvent_carries _)

theorem restarted_lostWhenFull (s : State) : LostWhenFull (restarted s) :=
  (restarted_carries s).lost (loadImage_lostWhenFull fun h => nomatch h)

theorem restarted_windowOpen (s : State) : (restarted s).windowOpen = openNow (restarted s) := windowEvent_windowOpen _

/-! ### Once the EMG line is read -/

section
variable {v : State}

theorem followAttn_lostWhenFull (h : LostWhenFull v) : LostWhenFull (followAttn v) := h

theorem readEmg_lostWhenFull (hsched : v.sched = .suspended) (hslots : v.slots = []) (h : LostWhenFull v) :
    LostWhenFull (readEmg v) := by
  cases hline : v.emgLine with
  | false =>
    rw [readEmg_released hline]
    exact h
  | true =>
    rw [readEmg_asserted hline hsched hslots]
    exact raise_lostWhenFull (.emergencyEntered .suspended 0 false)
      (s := { v with emgKept := true, resumeTo := .suspended, sched := .emergency }) h

/-- A part in SUSPENDED that reads the EMG line (R144, R209). -/
theorem readEmg_only {x : Bool} (hline : v.emgLine = x) (hsched : v.sched = .suspended) (hresume : v.resumeTo = .suspended)
    (hslots : v.slots = []) : followAttn (readEmg v) = { v with
      emgKept := x, sched := if x then .emergency else .suspended, resumeTo := .suspended
      outbox := (followAttn (readEmg v)).outbox, noticesLost := (followAttn (readEmg v)).noticesLost
      attn := attnLevel (followAttn (readEmg v)) } := by
  have hread : OnlyNotices { v with
      emgKept := x, sched := if x then .emergency else .suspended, resumeTo := .suspended } (readEmg v) := by
    cases x with
    | false =>
      rw [readEmg_released hline]
      cases v
      subst hsched hresume hline
      rfl
    | true =>
      have hraised := raise_only (.emergencyEntered .suspended 0 false)
        { v with emgKept := true, resumeTo := .suspended, sched := .emergency }
      rw [readEmg_asserted hline hsched hslots]
      exact hraised
  unfold OnlyNotices at hread
  generalize readEmg v = r at *
  rw [hread]
  rfl

/-- A notice that is not lost is the last of the outbox. -/
theorem raise_last {b : NoticeBody} {s : State} (hmask : s.mask.getLsbD b.kind = false) (hkept : (raise b s).noticesLost = false) :
    (raise b s).outbox.getLast? = some ⟨knownTime s, b⟩ := by
  unfold raise at *
  rw [if_neg (ne_true_of_eq_false hmask)] at *
  split
  · rename_i hfull
    rw [if_pos hfull] at hkept
    cases hkept
  · exact List.getLast?_concat

theorem followAttn_readEmg_last (hline : v.emgLine = true) (hsched : v.sched = .suspended) (hslots : v.slots = [])
    (hmask : v.mask.getLsbD 15 = false) (hkept : (followAttn (readEmg v)).noticesLost = false) :
    (followAttn (readEmg v)).outbox.getLast? = some ⟨knownTime v, .emergencyEntered .suspended 0 false⟩ := by
  rw [readEmg_asserted hline hsched hslots] at *
  exact raise_last (b := .emergencyEntered .suspended 0 false)
    (s := { v with emgKept := true, resumeTo := .suspended, sched := .emergency }) hmask hkept

end

section
variable (s : State)

theorem restarted_sched : (restarted s).sched = .suspended := by
  rw [restarted_only]
  rfl

theorem restarted_resumeTo : (restarted s).resumeTo = .suspended := by
  rw [restarted_only]
  rfl

theorem restarted_slots : (restarted s).slots = [] := by
  rw [restarted_only]
  rfl

theorem restarted_emgLine : (restarted s).emgLine = s.emgLine := by
  rw [restarted_only]
  rfl

theorem knownTime_restarted : knownTime (restarted s) = if s.quality = .unset then none else some s.campus := by
  rw [restarted_only]
  rfl

theorem restarts_only : restarts s = { restarted s with
    emgKept := s.emgLine, sched := if s.emgLine then .emergency else .suspended, resumeTo := .suspended
    outbox := (restarts s).outbox, noticesLost := (restarts s).noticesLost, attn := attnLevel (restarts s) } := by
  rw [restarts_restarted]
  exact readEmg_only (restarted_emgLine s) (restarted_sched s) (restarted_resumeTo s) (restarted_slots s)

theorem restarts_lostWhenFull : LostWhenFull (restarts s) := by
  rw [restarts_restarted]
  exact followAttn_lostWhenFull (readEmg_lostWhenFull (restarted_sched s) (restarted_slots s) (restarted_lostWhenFull s))

end

theorem restarts_emergency {s : State} (hline : s.emgLine = true) (hmask : (restarts s).mask.getLsbD 15 = false)
    (hkept : (restarts s).noticesLost = false) : (restarts s).outbox.getLast? =
      some ⟨if s.quality = .unset then none else some s.campus, .emergencyEntered .suspended 0 false⟩ := by
  have hsame : (restarts s).mask = (restarted s).mask := by rw [restarts_only s]
  rw [hsame] at hmask
  rw [restarts_restarted] at *
  rw [← knownTime_restarted]
  exact followAttn_readEmg_last ((restarted_emgLine s).trans hline) (restarted_sched s) (restarted_slots s) hmask hkept

end Sys2Proof.Machine
end

section
/-! PROOFS. The records after RESTART (R42, R61, R210, R211). -/

namespace Sys2Proof.Machine

/-! ### A record that the recall leaves -/

theorem recallMarked_keeps {m : Image} {n k : Nat} {l : Luminaire} {s : State} (hmarker : l.openMarker = false)
    (hl : s.luminaires.get n = some l) : (recallMarked m s k).luminaires.get n = some l := by
  rw [get_recallMarked]
  by_cases hk : n = k
  · rw [if_pos hk, ← hk, hl]
    exact congrArg some (if_neg (ne_true_of_eq_false hmarker))
  · rw [if_neg hk]
    exact hl

theorem booted_keeps {n : Nat} {i : StoredLuminaire} {s : State} (hok : imageOk s.image = true)
    (hi : s.image.luminaires.get n = some i) (hmarker : i.openMarker = false) :
    (booted true s).luminaires.get n = some (restored i) := by
  have hloaded : (loadImage (fresh true s)).luminaires.get n = some (restored i) := by
    unfold loadImage
    rw [if_pos (show imageOk (fresh true s).image = true from hok)]
    exact (Table.get_mapValues s.image.luminaires (fun _ i => restored i) n).trans (by rw [hi]; rfl)
  exact foldl_keeps (P := fun t => t.luminaires.get n = some (restored i))
    (fun t k ht => recallMarked_keeps (m := (loadImage (fresh true s)).image) hmarker ht) _ hloaded

/-! ### With time unknown nothing arrives -/

section
variable {s : State}

theorem checkOverdue_unset (n : Nat) (h : s.quality = .unset) : checkOverdue n s = s := by
  unfold checkOverdue
  split
  · refine if_neg fun hc => ?_
    unfold overdueReached at hc
    rw [h] at hc
    simp at hc
  · rfl

theorem instantsArrive_unset (n : Nat) (h : s.quality = .unset) : instantsArrive n s = s := by
  have hhold : holdOffArrives n s = s := by
    unfold holdOffArrives
    split
    · exact if_neg fun hc => hc.1 h
    · rfl
  have hrecharge : rechargeArrives n s = s := by
    unfold rechargeArrives
    split
    · exact if_neg fun hc => hc.1 h
    · rfl
  have hdue : dueArrives n s = s := by
    unfold dueArrives waitState
    split
    · refine if_neg fun hc => ?_
      rw [if_neg fun hq => hq.1 h] at hc
      exact (nomatch hc.2)
    · rfl
  unfold instantsArrive
  rw [hhold, hrecharge, hdue]
  exact checkOverdue_unset n h

theorem allInstantsArrive_unset (h : s.quality = .unset) : allInstantsArrive s = s := by
  have hfold (ks : List Nat) : ks.foldl (fun t n => instantsArrive n t) s = s := by
    induction ks with
    | nil => rfl
    | cons k ks ih => rw [List.foldl_cons, instantsArrive_unset k h, ih]
  exact hfold _

end

theorem windowEvent_luminaires (s : State) : (windowEvent s).luminaires = s.luminaires := by rw [windowEvent_only_open]

theorem booted_quality (s : State) : (booted true s).quality = s.quality := by
  have h := booted_loaded true s
  unfold OnlyLoaded at h
  rw [h]
  rfl

theorem resolved_quality (s : State) : (resolved s).quality = s.quality := (resolved_only s).sameClock.2.1

theorem restarted_unset {n : Nat} {i : StoredLuminaire} {s : State} (hok : imageOk s.image = true) (hunset : s.quality = .unset)
    (hi : s.image.luminaires.get n = some i) (hmarker : i.openMarker = false) :
    (restarted s).luminaires.get n = some (restored i) := by
  have hq : (booted true s).quality = .unset := (booted_quality s).trans hunset
  unfold restarted
  rw [windowEvent_luminaires, allInstantsArrive_unset ((resolved_quality _).trans hq)]
  unfold resolved
  rw [if_pos hq]
  exact booted_keeps hok hi hmarker

/-! ### A due time that has been reached -/

/-- Luminaire `n` waits for its due time `d`, or has become DUE with the trigger of R61. -/
def Awaits (n d : Nat) (s : State) : Prop :=
  ∃ l, s.luminaires.get n = some l ∧ l.due = d ∧ (l.state = .idle ∨ (l.state = .due ∧ s.trigger = true))

section
variable {n d : Nat} {s t : State}

theorem Awaits.elsewhere (h : Awaits n d s) (hget : t.luminaires.get n = s.luminaires.get n)
    (htrigger : s.trigger = true → t.trigger = true) : Awaits n d t := by
  obtain ⟨l, hl, hdue, hstate⟩ := h
  exact ⟨l, hget.trans hl, hdue, hstate.imp_right fun ⟨hst, ht⟩ => ⟨hst, htrigger ht⟩⟩

/-- A change of `n`'s record that leaves its state and due time. -/
theorem Awaits.changed {f : Luminaire → Luminaire} (h : Awaits n d s) (hget : t.luminaires.get n = (s.luminaires.get n).map f)
    (hf : ∀ l, l.state = .idle ∨ l.state = .due → (f l).state = l.state ∧ (f l).due = l.due)
    (htrigger : s.trigger = true → t.trigger = true) : Awaits n d t := by
  obtain ⟨l, hl, hdue, hstate⟩ := h
  obtain ⟨hsame, hdue'⟩ := hf l (hstate.imp_right And.left)
  refine ⟨f l, by rw [hget, hl]; rfl, hdue'.trans hdue, ?_⟩
  rw [hsame]
  exact hstate.imp_right fun ⟨hst, ht⟩ => ⟨hst, htrigger ht⟩

theorem Awaits.resolvePending (k : Nat) (h : Awaits n d s) : Awaits n d (resolvePending k s) := by
  have htrigger := (resolvePending_carries k s).trigger
  by_cases hk : n = k
  · subst hk
    unfold Machine.resolvePending at *
    split at htrigger
    · rename_i l hl
      split at htrigger
      · rename_i hpending
        rw [if_pos hpending]
        refine h.changed (f := fun l => { l with recharge := some (rechargeFromNow s) }) ?_ (fun l _ => ⟨rfl, rfl⟩) htrigger
        rw [writeItem_luminaires, get_putLum, if_pos rfl, hl]
        rfl
      · rename_i hnot
        rw [if_neg hnot]
        exact h
    · exact h
  · exact h.elsewhere (get_resolvePending_other s hk) htrigger

theorem Awaits.checkOverdue (h : Awaits n d s) : Awaits n d (checkOverdue n s) :=
  h.changed ((get_checkOverdue n n s).trans (if_pos rfl)) (fun l _ => ⟨overdueDone_state s l, overdueDone_due s l⟩)
    (checkOverdue_carries n s).trigger

theorem Awaits.holdOffArrives (hset : s.quality ≠ .unset) (h : Awaits n d s) : Awaits n d (holdOffArrives n s) := by
  refine h.changed ((get_holdOffArrives n n s hset).trans (if_pos rfl)) (fun l _ => ?_) (holdOffArrives_carries n s).trigger
  unfold holdOffDone
  split <;> exact ⟨rfl, rfl⟩

theorem Awaits.rechargeArrives (hset : s.quality ≠ .unset) (h : Awaits n d s) : Awaits n d (rechargeArrives n s) := by
  refine h.changed ((get_rechargeArrives n n s hset).trans (if_pos rfl)) (fun l hl => ?_) (rechargeArrives_carries n s).trigger
  have hnot : l.state ≠ .recharging := by
    rcases hl with h | h <;> rw [h] <;> exact fun h => nomatch h
  unfold rechargeDone
  rw [if_neg fun hc => hnot hc.1]
  exact ⟨rfl, rfl⟩

/-- An IDLE luminaire whose due time arrives becomes DUE with a trigger (R61). -/
theorem Awaits.dueArrives (h : Awaits n d s) : Awaits n d (dueArrives n s) := by
  obtain ⟨l, hl, hdue, hstate⟩ := id h
  unfold Machine.dueArrives
  rw [hl]
  dsimp only
  split
  · rename_i hc
    refine ⟨l.enter .due, ?_, (enter_due l _).trans hdue, .inr ⟨enter_state l _, ?_⟩⟩
    · rw [get_putLum, if_pos rfl]
    · have henters : entersDue (some l) (some (l.enter .due)) = true := by
        unfold entersDue
        rw [Option.any_some, Option.any_some, enter_state, hc.1]
        rfl
      rw [putLum_trigger_eq, hl, henters, Bool.or_true]
  · exact h

theorem Awaits.instantsArrive (k : Nat) (hset : s.quality ≠ .unset) (h : Awaits n d s) : Awaits n d (instantsArrive k s) := by
  by_cases hk : n = k
  · subst hk
    have hset' : (Machine.holdOffArrives n s).quality ≠ .unset := by
      rw [(holdOffArrives_only n s).sameClock.2.1]
      exact hset
    exact (((h.holdOffArrives hset).rechargeArrives hset').dueArrives).checkOverdue
  · refine h.elsewhere ?_ (instantsArrive_carries k s).trigger
    rw [get_instantsArrive _ _ _ hset, if_neg hk]

theorem Awaits.resolved (h : Awaits n d s) : Awaits n d (resolved s) := by
  unfold Machine.resolved
  split
  · exact h
  · exact foldl_keeps (P := Awaits n d) (fun _ k ht => ht.resolvePending k) _ h

theorem Awaits.allInstantsArrive (hset : s.quality ≠ .unset) (h : Awaits n d s) : Awaits n d (allInstantsArrive s) := by
  have hfold := foldl_keeps (P := fun t => t.quality ≠ .unset ∧ Awaits n d t) (f := fun t k => Machine.instantsArrive k t)
    (fun t k ⟨hq, ht⟩ => ⟨by rw [(instantsArrive_only k t).sameClock.2.1]; exact hq, ht.instantsArrive k hq⟩)
    s.luminaires.keys ⟨hset, h⟩
  exact hfold.2

end

section
variable (s : State)

theorem resolved_booted_campus : (resolved (booted true s)).campus = s.campus := by
  have h := booted_loaded true s
  unfold OnlyLoaded at h
  rw [(resolved_only (booted true s)).sameClock.1, h]
  rfl

theorem resolved_booted_quality : (resolved (booted true s)).quality = s.quality :=
  (resolved_quality _).trans (booted_quality s)

theorem restarted_luminaires : (restarted s).luminaires = (allInstantsArrive (resolved (booted true s))).luminaires :=
  windowEvent_luminaires _

theorem restarted_params : (restarted s).params = (resolved (booted true s)).params :=
  (windowEvent_carries _).params.trans (allInstantsArrive_carries _).params

end

/-- With time known nothing that campus time has reached is left, and no recharge until is pending (R42, R211). -/
theorem restarted_settled {n : Nat} {l : Luminaire} {s : State} (hset : s.quality ≠ .unset)
    (hl : (restarted s).luminaires.get n = some l) : l.recharge ≠ some .pending ∧ (∀ h, l.holdOff = some h → s.campus < h) ∧
      (l.state = .idle → s.campus < l.due) ∧
      (∀ x, l.state = .recharging → l.recharge = some (.until x) → s.campus < x) ∧
      (l.watchArmed = true → l.state = .idle ∨ l.state = .due ∨ l.state = .recharging →
        s.campus < l.due + (restarted s).params.overdueGrace * 86400) := by
  have hbooted : (booted true s).quality ≠ .unset := by
    rw [booted_quality]
    exact hset
  have hset' : (resolved (booted true s)).quality ≠ .unset := by
    rw [resolved_booted_quality]
    exact hset
  have hnone : NonePending (resolved (booted true s)) := by
    unfold resolved
    rw [if_neg hbooted]
    exact resolveAllPending_nonePending hbooted
  rw [restarted_luminaires] at hl
  have hsettled := allInstantsArrive_settled _ hset' n l hl
  unfold Settled at hsettled
  rw [resolved_booted_campus, ← restarted_params] at hsettled
  exact ⟨foldl_instantsArrive_nonePending _ hset' hnone n l hl, hsettled⟩

/-- A due time that campus time has reached makes the luminaire DUE, with a trigger (R61, R211). -/
theorem restarted_due {n : Nat} {i : StoredLuminaire} {s : State} (hok : imageOk s.image = true) (hset : s.quality ≠ .unset)
    (hi : s.image.luminaires.get n = some i) (hservice : i.service = .inService) (hmarker : i.openMarker = false)
    (hdue : i.due ≤ s.campus) :
    (restarted s).trigger = true ∧ ((restarted s).luminaires.get n).map Luminaire.state = some .due := by
  have hidle : (restored i).state = .idle := by
    unfold restored
    rw [hservice]
    rfl
  have hawaits : Awaits n i.due (booted true s) := ⟨restored i, booted_keeps hok hi hmarker, rfl, .inl hidle⟩
  have hset' : (resolved (booted true s)).quality ≠ .unset := by
    rw [resolved_booted_quality]
    exact hset
  obtain ⟨l, hl, hsame, hstate⟩ := hawaits.resolved.allInstantsArrive hset'
  rw [← restarted_luminaires] at hl
  obtain ⟨-, -, hwaits, -, -⟩ := restarted_settled hset hl
  rcases hstate with hstate | ⟨hstate, htrigger⟩
  · have hbefore := hwaits hstate
    omega
  · exact ⟨windowEvent_keeps_trigger htrigger, by rw [hl, Option.map_some, hstate]⟩

end Sys2Proof.Machine
end

section
/-! PROOFS. RESTART, from its request to the part's coming up (R205, R211). -/

namespace Sys2Proof.Machine

theorem exec_restart (tag : Byte) (body : List Byte) (s : State) : exec (.restart tag body) s = request 0x90 tag body s := rfl

/-- RESTART is answered at once and waits for its reply to leave (R205). -/
theorem restart_answered {s : State} (tag : Byte) (hs : Serves s) :
    exec (.restart tag []) s = .next { answered s (doneReply tag []) with restartWaiting := true } := by
  have howner : restart [] (atOwner s) = ({ atOwner s with restartWaiting := true }, .done []) := rfl
  have hsend : (atOwner s).sending = none := hs.2.1
  rw [exec_restart, request_done 0x90 tag [] s _ restart _ hs (Nat.zero_le _) (by decide) rfl howner hsend rfl rfl]
  rfl

/-- The restart follows when the reply has left (R211). -/
theorem replySent_restarts {s : State} (hop : s.phase = .operating) (hsending : s.sending.isSome = true)
    (hwaiting : s.restartWaiting = true) : exec .replySent s = .next (settle (restarts (opened s))) := by
  have hleaves : replyLeaves (opened s) = restarts (opened s) := by
    obtain ⟨r, hr⟩ := Option.isSome_iff_exists.mp hsending
    unfold replyLeaves
    rw [if_neg (show ¬ (opened s).sending.isNone = true from fun h => by
      rw [show (opened s).sending = some r from hr] at h
      cases h)]
    exact if_pos hwaiting
  exact (event_operating replyLeaves s hop).trans (congrArg (fun t => Host.Outcome.next (settle t)) hleaves)

/-! ### What comes back from a usable image -/

theorem loadImage_taken {s : State} (h : imageOk s.image = true) :
    loadImage (fresh true s) = takeImage s.image { fresh true s with storeState := .ok } := if_pos h

theorem takeImage_branch (m : Image) (s : State) (b : Fin 8) :
    (takeImage m s).branches[b].state = if m.branchOff[b] then .off else .ready := by
  unfold takeImage startedBranch
  simp

/-- The restarted part holds what the image held (R208, R211). -/
theorem restarted_holds {s : State} (hok : imageOk s.image = true) :
    (restarted s).classes = s.image.classes ∧ (restarted s).windows = s.image.windows ∧
      (restarted s).blackouts = s.image.blackouts ∧ (restarted s).mode = s.image.mode ∧
      (restarted s).params = s.image.params ∧ (restarted s).mask = s.image.mask ∧
      (restarted s).results.take s.image.results.length = s.image.results ∧
      (restarted s).groups.keys = s.image.groups.keys ∧
      (∀ b : Fin 8, (restarted s).branches[b].state = if s.image.branchOff[b] then .off else .ready) ∧
      ∀ n, ((restarted s).luminaires.get n).map Luminaire.steady =
        ((s.image.luminaires.get n).map restored).map Luminaire.steady := by
  have h := restarted_carries s
  rw [loadImage_taken hok] at h
  refine ⟨h.classes, h.windows, h.blackouts, h.mode, h.params, h.mask, ?_, ?_, fun b => ?_, fun n => ?_⟩
  · exact (List.prefix_iff_eq_take.mp h.results).symm
  · exact h.groups.trans (Table.keys_mapValues s.image.groups fun _ cap => (⟨cap, [], 0⟩ : Group))
  · exact (h.states b).trans (takeImage_branch _ _ b)
  · exact (h.records n).trans (congrArg (Option.map Luminaire.steady) (Table.get_mapValues s.image.luminaires (fun _ i => restored i) n))

theorem restarts_windowOpen (s : State) : (restarts s).windowOpen = openNow (restarts s) := by
  have h := restarts_only s
  have hopen := restarted_windowOpen s
  generalize restarts s = u at *
  generalize restarted s = v at *
  rw [openNow_same (s := v) (t := u) (by rw [h]) (by rw [h]) (by rw [h]) (by rw [h]) (by rw [h]), ← hopen, h]

theorem LostWhenFull.eq {s : State} (h : LostWhenFull s) :
    s.noticesLost = (decide (32 ≤ s.outbox.length) && s.noticesLost) := by
  cases hlost : s.noticesLost with
  | false => exact (Bool.and_false _).symm
  | true =>
    rw [decide_eq_true (h hlost)]
    rfl

theorem followAttn_follows (v : State) : (followAttn v).attn = attnLevel (followAttn v) := rfl

theorem restarts_attn (s : State) : (restarts s).attn = attnLevel (restarts s) := by
  rw [restarts_restarted]
  exact followAttn_follows _

/-- The fields that a restart keeps or that come up with their start-up values (R205, R209, R211). -/
theorem restarts_fresh (s : State) : ∃ u, restarts (opened s) = u ∧ u.campus = s.campus ∧ u.quality = s.quality ∧
    u.staleness = s.staleness ∧ u.ownCount = s.ownCount ∧
    u.sched = (if s.emgLine then .emergency else .suspended) ∧ u.resumeTo = .suspended ∧
    u.emgLine = s.emgLine ∧ u.emgKept = s.emgLine ∧
    u.recovery = none ∧ u.slots = [] ∧ u.channels = Vector.replicate 4 {} ∧ u.checkPending = [] ∧
    u.lastServed = 3 ∧ u.receiver = .hunt ∧
    u.held = none ∧ u.service = none ∧ u.sending = none ∧ u.ready = [] ∧ u.restartWaiting = false := by
  have honly := restarts_only (opened s)
  have hfresh := restarted_only (opened s)
  refine ⟨_, rfl, ?_⟩
  generalize restarts (opened s) = u at *
  generalize restarted (opened s) = v at *
  rw [hfresh] at honly
  rw [honly]
  exact ⟨rfl, rfl, rfl, rfl, rfl, rfl, rfl, rfl, rfl, rfl, rfl, rfl, rfl, rfl, rfl, rfl, rfl, rfl, rfl⟩

/-- What a restart leaves as the image, the arrivals and the window left it. -/
theorem restarts_kept (s : State) : (restarts s).luminaires = (restarted s).luminaires ∧
    (restarts s).params = (restarted s).params ∧ (restarts s).trigger = (restarted s).trigger := by
  have honly := restarts_only s
  generalize restarts s = u at *
  generalize restarted s = v at *
  rw [honly]
  exact ⟨rfl, rfl, rfl⟩

theorem restarts_holds {s : State} (hok : imageOk s.image = true) : (restarts s).classes = s.image.classes ∧
    (restarts s).windows = s.image.windows ∧ (restarts s).blackouts = s.image.blackouts ∧ (restarts s).mode = s.image.mode ∧
    (restarts s).params = s.image.params ∧ (restarts s).mask = s.image.mask ∧
    (restarts s).results.take s.image.results.length = s.image.results ∧ (restarts s).groups.keys = s.image.groups.keys ∧
    (∀ b : Fin 8, (restarts s).branches[b].state = if s.image.branchOff[b] then .off else .ready) ∧
    ∀ n, ((restarts s).luminaires.get n).map Luminaire.steady =
      ((s.image.luminaires.get n).map restored).map Luminaire.steady := by
  have hholds := restarted_holds hok
  have honly := restarts_only s
  generalize restarts s = u at *
  generalize restarted s = v at *
  rw [honly]
  exact hholds

/-- Settles O51: time is kept, the volatile fields are fresh, the image comes back, and what campus time has reached arrives. -/
theorem restartKeepsTime : Obligations.RestartKeepsTime := by
  unfold Obligations.RestartKeepsTime
  refine fun s tag => ⟨restart_answered tag, fun hop hsending hwaiting => ?_⟩
  obtain ⟨hluminaires, hparams, htrigger⟩ := restarts_kept (opened s)
  have hholds := @restarts_holds (opened s)
  have hsettled := fun n l => @restarted_settled n l (opened s)
  have hdue := fun n i => @restarted_due n i (opened s)
  have hunset := fun n i => @restarted_unset n i (opened s)
  have hemergency := @restarts_emergency (opened s)
  have hlost := (restarts_lostWhenFull (opened s)).eq
  have hopen := restarts_windowOpen (opened s)
  have hattn := restarts_attn (opened s)
  rw [← hluminaires] at hsettled hdue hunset
  rw [← hparams] at hsettled
  rw [← htrigger] at hdue
  obtain ⟨u, hu, hcampus, hquality, hstaleness, hcount, hsched, hresume, hline, hkept, hrecovery, hslots, hchannels, hpending,
    hserved, hreceiver, hheld, hservice, hsent, hready, hrestart⟩ := restarts_fresh s
  rw [hu] at hholds hsettled hdue hunset hemergency hlost hopen hattn
  refine ⟨u, (replySent_restarts hop hsending hwaiting).trans (by rw [hu]), hcampus, hquality, hstaleness, hcount, hsched,
    hresume, hline, hkept, fun hemg hmask hall => hemergency hemg hmask hall, hrecovery, hslots, hchannels, hpending, hserved,
    hlost, hreceiver, hheld, hservice, hsent, hready, hrestart, hopen, hattn, fun hok => hholds hok,
    fun hset n l hl => hsettled n l hset hl, fun hok hset n i hi hservice hmarker hreached =>
      hdue n i hok hset hi hservice hmarker hreached, fun hok hq n i hi hmarker => hunset n i hok hq hi hmarker⟩

end Sys2Proof.Machine
end

section
/-! PROOFS. How many passes an event makes (R65, R66). -/

namespace Sys2Proof.Machine

/-- The channels with a queued restart. -/
def restartsQueued (s : State) : Finset (Fin 4) := Finset.univ.filter fun c => s.channels[c].restartQueued = true

theorem mem_restartsQueued {s : State} {c : Fin 4} : c ∈ restartsQueued s ↔ s.channels[c].restartQueued = true := by
  simp [restartsQueued]

theorem restartsQueued_le (s : State) : (restartsQueued s).card ≤ 4 := Finset.card_le_univ _

/-- A pass that takes up a trigger. -/
def nextPass (s : State) : State := pass { s with trigger := false }

/-- A pass that is itself a trigger has taken a queued restart. -/
theorem nextPass_takes {s : State} (h : (nextPass s).trigger = true) :
    (restartsQueued (nextPass s)).card < (restartsQueued s).card := by
  obtain ⟨hkept, htaken⟩ := pass_restarts { s with trigger := false }
  obtain ⟨c, hqueued, hgone⟩ := (htaken h).resolve_left Bool.false_ne_true
  refine Finset.card_lt_card ((Finset.ssubset_iff_of_subset fun d hd => ?_).mpr ⟨c, mem_restartsQueued.mpr hqueued, fun hc => ?_⟩)
  · exact mem_restartsQueued.mpr (hkept d (mem_restartsQueued.mp hd))
  · have hstill := mem_restartsQueued.mp hc
    exact Bool.false_ne_true (hgone.symm.trans hstill)

theorem passes_quiet {s : State} (h : s.trigger = false) (fuel : Nat) : passes fuel s = s := by
  cases fuel with
  | zero => rfl
  | succ fuel => exact if_neg (ne_true_of_eq_false h)

theorem passes_triggered {s : State} (h : s.trigger = true) (fuel : Nat) : passes (fuel + 1) s = passes fuel (nextPass s) :=
  if_pos h

theorem rounds_succ (n : Nat) (s : State) : rounds (n + 1) s = rounds n (nextPass s) := rfl

/-- The passes end: after at most one more than the queued restarts (R65, R66). -/
theorem passes_end (m : Nat) {s : State} (hm : (restartsQueued s).card ≤ m) :
    ∃ n, n ≤ m + 1 ∧ (∀ i, i < n → (rounds i s).trigger = true) ∧ (rounds n s).trigger = false ∧
      passes (m + 2) s = rounds n s := by
  cases htrigger : s.trigger with
  | false => exact ⟨0, Nat.zero_le _, fun i hi => absurd hi (Nat.not_lt_zero i), htrigger, passes_quiet htrigger _⟩
  | true =>
    cases hnext : (nextPass s).trigger with
    | false =>
      refine ⟨1, Nat.succ_le_succ (Nat.zero_le m), fun i hi => ?_, hnext, ?_⟩
      · obtain rfl : i = 0 := Nat.lt_one_iff.mp hi
        exact htrigger
      · rw [passes_triggered htrigger, passes_quiet hnext]
        rfl
    | true =>
      have hfewer := nextPass_takes hnext
      cases m with
      | zero => exact absurd (Nat.lt_of_lt_of_le hfewer hm) (Nat.not_lt_zero _)
      | succ m =>
        obtain ⟨n, hn, hbefore, hend, hpasses⟩ := passes_end m (Nat.le_of_lt_succ (Nat.lt_of_lt_of_le hfewer hm))
        refine ⟨n + 1, Nat.succ_le_succ hn, fun i hi => ?_, hend, ?_⟩
        · cases i with
          | zero => exact htrigger
          | succ i => exact hbefore i (Nat.lt_of_succ_lt_succ hi)
        · rw [passes_triggered htrigger, hpasses, rounds_succ]

/-- Without a trigger left, only the flag of a failed write is cleared. -/
theorem finish_quiet {s : State} (h : s.trigger = false) : finish s = { s with writeFailed := false } := by
  unfold finish
  rw [← h]

theorem settle_untriggered {s : State} (h : s.trigger = false) : settle s = { s with writeFailed := false } := by
  rw [settle_of_no_trigger s h, finish_quiet h]

theorem settle_rounds (s : State) : ∃ n, n ≤ 5 ∧ (∀ i, i < n → (rounds i s).trigger = true) ∧ (rounds n s).trigger = false ∧
    settle s = { rounds n s with writeFailed := false } := by
  obtain ⟨n, hn, hbefore, hend, hpasses⟩ := passes_end 4 (restartsQueued_le s)
  refine ⟨n, hn, hbefore, hend, ?_⟩
  unfold settle
  rw [hpasses, finish_quiet hend]

/-- Where no restart is queued a trigger makes one pass. -/
theorem settle_one {s : State} (htrigger : s.trigger = true) (hnone : ∀ c : Fin 4, s.channels[c].restartQueued = false) :
    settle s = { nextPass s with writeFailed := false } := by
  have hempty : (restartsQueued s).card = 0 := by
    rw [Finset.card_eq_zero, Finset.eq_empty_iff_forall_notMem]
    intro c hc
    exact Bool.false_ne_true ((hnone c).symm.trans (mem_restartsQueued.mp hc))
  have hquiet : (nextPass s).trigger = false := by
    refine Bool.eq_false_iff.mpr fun hnext => ?_
    have hfewer := nextPass_takes hnext
    omega
  unfold settle
  rw [passes_triggered htrigger, passes_quiet hquiet, finish_quiet hquiet]

end Sys2Proof.Machine
end

section
/-! PROOFS. What a pass may change (R65, R67, R70, R72, R145). -/

namespace Sys2Proof.Machine

/-! ### Branch queues -/

/-- Of the branches only the queues differ. -/
def OnlyQueues (s t : State) : Prop := ∀ b : Fin 8, t.branches[b] = { s.branches[b] with queue := t.branches[b].queue }

theorem OnlyQueues.refl (s : State) : OnlyQueues s s := fun _ => rfl

theorem OnlyQueues.trans {s t u : State} (h1 : OnlyQueues s t) (h2 : OnlyQueues t u) : OnlyQueues s u := fun b => by
  rw [h2 b, h1 b]

theorem OnlyQueues.same {s t : State} (h : t.branches = s.branches) : OnlyQueues s t := fun b => by rw [h]

theorem OnlyRecords.queues {s t : State} (h : OnlyRecords s t) : OnlyQueues s t := .same (by
  unfold OnlyRecords at h
  rw [h])

theorem OnlyCampaign.queues {s t : State} (h : OnlyCampaign s t) : OnlyQueues s t := .same (by
  unfold OnlyCampaign at h
  rw [h])

theorem enqueue_queues (b : Fin 8) (e : Exchange) (s : State) : OnlyQueues s (enqueue b e s) := by
  intro a
  by_cases ha : a = b
  · subst ha
    cases hworks : s.branches[a].state.works with
    | true => rw [enqueue_at a e s hworks]
    | false => rw [show enqueue a e s = s from if_neg (ne_true_of_eq_false hworks)]
  · rw [enqueue_other b a e s ha]

theorem tellReserved_queues (from? : Option (Fin 4)) (k : Nat) (s : State) : OnlyQueues s (tellReserved from? k s) := by
  cases from? with
  | none => exact .refl s
  | some c => exact OnlyQueues.trans (t := { s with lastServed := c }) (.same rfl) (campaignReserved_only c k _).queues

theorem reserve_queues (n : Nat) (l : Luminaire) (from? : Option (Fin 4)) (s : State) : OnlyQueues s (reserve n l from? s) := by
  unfold reserve
  split
  · exact .refl s
  · rename_i k _
    refine OnlyQueues.trans ?_ (tellReserved_queues from? k _)
    refine OnlyQueues.trans ?_ ((putLum_only n _ _).trans (writeItem_only (.luminaire n) _).records).queues
    exact OnlyQueues.trans (t := { s with slots := s.slots.put k (reservedSlot s n l from?) }) (.same rfl) (enqueue_queues _ _ _)

theorem consider_queues (n : Nat) (from? : Option (Fin 4)) (s : State) : OnlyQueues s (consider n from? s).1 := by
  cases hl : s.luminaires.get n with
  | none =>
    rw [consider_unused hl]
    exact .refl s
  | some l =>
    rw [consider_eq hl]
    cases verdict s n l from? with
    | reserve => exact reserve_queues n l from? s
    | check =>
      exact (OnlyQueues.trans (t := { s with checkPending := s.checkPending ++ [n] }) (.same rfl)
        (enqueue_queues l.branch (readExchange .check l.node n .placement) _)).trans (block_only _ _ _).queues
    | pass r =>
      cases r with
      | none => exact .refl s
      | some r => exact (block_only n r s).queues

theorem blockWaiting_queues (n : Nat) (r : BlockedBy) (s : State) : OnlyQueues s (blockWaiting n r s) := by
  unfold blockWaiting
  split
  · exact (block_only n r s).queues
  · exact .refl s

theorem campaignPart_queues (k : Nat) (done : List (Fin 4)) (s : State) : OnlyQueues s (campaignPart k done s) := by
  induction k generalizing done s with
  | zero => exact .refl s
  | succ k ih =>
    unfold campaignPart
    split
    · exact .refl s
    · rename_i c _
      have hpresent := (present_only c s).queues
      dsimp only
      split
      · exact hpresent.trans (ih _ _)
      · exact (hpresent.trans (blockWaiting_queues _ _ _)).trans (ih _ _)
      · exact (hpresent.trans (consider_queues _ _ _)).trans (ih _ _)

theorem periodicStep_queues (s : State) (n : Nat) : OnlyQueues s (periodicStep s n) := by
  unfold periodicStep
  split
  · split
    · exact (block_only n _ s).queues
    · exact consider_queues n none s
  · exact .refl s

theorem pass_queues (s : State) : OnlyQueues s (pass s) :=
  (campaignPart_queues _ _ s).trans (foldl_only .refl .trans periodicStep_queues _ _)

/-! ### The last-served channel -/

theorem lastServed_campaign {s t : State} (h : OnlyCampaign s t) : t.lastServed = s.lastServed := by
  unfold OnlyCampaign at h
  rw [h]

theorem lastServed_records {s t : State} (h : OnlyRecords s t) : t.lastServed = s.lastServed := by
  unfold OnlyRecords at h
  rw [h]

theorem lastServed_branches {s t : State} (h : OnlyBranches s t) : t.lastServed = s.lastServed := by
  unfold OnlyBranches at h
  rw [h]

theorem tellReserved_lastServed (from? : Option (Fin 4)) (k : Nat) (s : State) :
    (tellReserved from? k s).lastServed = from?.getD s.lastServed := by
  cases from? with
  | none => rfl
  | some c => exact lastServed_campaign (campaignReserved_only c k { s with lastServed := c })

theorem reserve_lastServed (n : Nat) (l : Luminaire) (from? : Option (Fin 4)) {s : State} (hroom : s.slots.length < 48) :
    (reserve n l from? s).lastServed = from?.getD s.lastServed := by
  obtain ⟨k, hk⟩ := lowestFree_of_room s.slots slotCount hroom
  unfold reserve
  rw [hk]
  dsimp only
  rw [tellReserved_lastServed, lastServed_records ((putLum_only n _ _).trans (writeItem_only (.luminaire n) _).records),
    lastServed_branches (enqueue_only _ _ _)]

/-- Only the reservation of a campaign candidate moves the last-served channel (R70). -/
theorem consider_lastServed (n : Nat) (from? : Option (Fin 4)) {s : State} (hroom : s.slots.length < 48) :
    (consider n from? s).1.lastServed = if (consider n from? s).2 = true then from?.getD s.lastServed else s.lastServed := by
  cases hl : s.luminaires.get n with
  | none =>
    rw [consider_unused hl]
    rfl
  | some l =>
    rw [consider_eq hl]
    cases verdict s n l from? with
    | reserve => exact reserve_lastServed n l from? hroom
    | check =>
      exact (lastServed_records (block_only _ _ _)).trans (lastServed_branches
        (s := { s with checkPending := s.checkPending ++ [n] })
        (enqueue_only l.branch (readExchange .check l.node n .placement) _))
    | pass r =>
      cases r with
      | none => rfl
      | some r => exact lastServed_records (block_only n r s)

/-! ### Periodic candidates -/

section
variable {s : State} {n : Nat} {l : Luminaire}

theorem periodicStep_passes (h : (s.luminaires.get n).map Luminaire.state ≠ some .due) : periodicStep s n = s := by
  unfold periodicStep
  cases hl : s.luminaires.get n with
  | none => rfl
  | some l =>
    rw [hl] at h
    refine if_neg fun hdue => h ?_
    rw [Option.any_some, beq_iff_eq] at hdue
    rw [Option.map_some, hdue]

theorem periodicStep_due (hl : s.luminaires.get n = some l) (hdue : l.state = .due) :
    (globalFailure s = none → periodicStep s n = (consider n none s).1) ∧
      ∀ r, globalFailure s = some r → periodicStep s n = block n r s := by
  have hany : ((s.luminaires.get n).any fun l => l.state == .due) = true := by
    rw [hl, Option.any_some, hdue]
    rfl
  unfold periodicStep
  rw [if_pos hany]
  refine ⟨fun hglobal => ?_, fun r hglobal => ?_⟩ <;> rw [hglobal]

end

/-! ### While nothing is placed -/

/-- A pass that reserves nothing and queues no CHECK: a record may be given the reason `r`, and no other field of it, nor the
schedule list, the slots, the branches or the check-pending set, differ. -/
structure Barred (r : BlockedBy) (s t : State) : Prop where
  slots : t.slots = s.slots
  branches : t.branches = s.branches
  checkPending : t.checkPending = s.checkPending
  sched : t.sched = s.sched
  quality : t.quality = s.quality
  schedule : t.schedule = s.schedule
  records : ∀ n l, s.luminaires.get n = some l →
    t.luminaires.get n = some l ∨ t.luminaires.get n = some { l with blockedBy := some r }

section
variable {r : BlockedBy} {s t u : State}

theorem Barred.refl (r : BlockedBy) (s : State) : Barred r s s := ⟨rfl, rfl, rfl, rfl, rfl, rfl, fun _ _ h => .inl h⟩

theorem Barred.trans (h1 : Barred r s t) (h2 : Barred r t u) : Barred r s u := by
  refine ⟨h2.slots.trans h1.slots, h2.branches.trans h1.branches, h2.checkPending.trans h1.checkPending,
    h2.sched.trans h1.sched, h2.quality.trans h1.quality, h2.schedule.trans h1.schedule, fun n l hl => ?_⟩
  rcases h1.records n l hl with ht | ht
  · exact h2.records n l ht
  · exact .inr ((h2.records n _ ht).elim id id)

theorem OnlyCampaign.barred (h : OnlyCampaign s t) : Barred r s t := by
  unfold OnlyCampaign at h
  rw [h]
  exact ⟨rfl, rfl, rfl, rfl, rfl, rfl, fun _ _ hl => .inl hl⟩

theorem block_unused {n : Nat} (hl : s.luminaires.get n = none) : block n r s = s := by
  unfold block modLum
  rw [hl]

theorem block_barred (n : Nat) (r : BlockedBy) (s : State) : Barred r s (block n r s) := by
  cases hl : s.luminaires.get n with
  | none =>
    rw [block_unused hl]
    exact .refl r s
  | some l =>
    obtain ⟨⟨hget, hother, -⟩, honly⟩ := block_moves n l r s hl
    have hschedule : (block n r s).schedule = s.schedule := modLum_schedule n _ s fun _ _ => rfl
    generalize block n r s = t at *
    refine ⟨by rw [honly]; rfl, by rw [honly]; rfl, by rw [honly]; rfl, by rw [honly]; rfl, by rw [honly]; rfl, hschedule,
      fun m x hx => ?_⟩
    by_cases hm : m = n
    · subst hm
      rw [hl] at hx
      cases hx
      exact .inr hget
    · exact .inl ((hother m hm).trans hx)

theorem blockWaiting_barred (n : Nat) (r : BlockedBy) (s : State) : Barred r s (blockWaiting n r s) := by
  unfold blockWaiting
  split
  · exact block_barred n r s
  · exact .refl r s

end

/-- The reason of a part outside ACTIVE, or without a SET clock (R67, R145). -/
def barring (s : State) : BlockedBy := if s.sched ≠ .active then .scheduler else .time

section
variable {s : State}

theorem globalFailure_barring (h : s.sched ≠ .active ∨ s.quality ≠ .set) : globalFailure s = some (barring s) := by
  unfold globalFailure barring
  by_cases hsched : s.sched = .active
  · rw [if_neg (not_not.mpr hsched), if_neg (not_not.mpr hsched), if_pos (h.resolve_left (not_not.mpr hsched))]
  · rw [if_pos hsched, if_pos hsched]

theorem Barred.keeps {t : State} (h : Barred (barring s) s t) (hbarred : s.sched ≠ .active ∨ s.quality ≠ .set) :
    (t.sched ≠ .active ∨ t.quality ≠ .set) ∧ barring t = barring s := by
  unfold barring at *
  rw [h.sched, h.quality]
  exact ⟨hbarred, rfl⟩

theorem campaignPart_barred (k : Nat) (done : List (Fin 4)) (hbarred : s.sched ≠ .active ∨ s.quality ≠ .set) :
    Barred (barring s) s (campaignPart k done s) := by
  induction k generalizing done s with
  | zero => exact .refl _ s
  | succ k ih =>
    have hmore {t : State} (h : Barred (barring s) s t) (xs : List (Fin 4)) : Barred (barring s) s (campaignPart k xs t) := by
      obtain ⟨hbarred', hsame⟩ := h.keeps hbarred
      exact h.trans (hsame ▸ ih xs hbarred')
    unfold campaignPart
    split
    · exact .refl _ s
    · rename_i c _
      have hpresent : Barred (barring s) s (present c s).1 := (present_only c s).barred
      dsimp only
      rw [globalFailure_barring hbarred]
      split
      · exact hmore hpresent _
      · rename_i hglobal
        obtain rfl := Option.some.inj hglobal
        exact hmore (hpresent.trans (blockWaiting_barred _ _ _)) _
      · rename_i hglobal
        cases hglobal

/-- Every DUE luminaire of the list is given the reason (R67, R145). -/
theorem periodicStep_barred (n : Nat) (hbarred : s.sched ≠ .active ∨ s.quality ≠ .set) :
    Barred (barring s) s (periodicStep s n) ∧ ∀ l, s.luminaires.get n = some l → l.state = .due →
      (periodicStep s n).luminaires.get n = some { l with blockedBy := some (barring s) } := by
  have hglobal := globalFailure_barring hbarred
  cases hl : s.luminaires.get n with
  | none =>
    rw [periodicStep_passes (by rw [hl]; exact fun h => nomatch h)]
    exact ⟨.refl _ s, fun l h => nomatch h⟩
  | some l =>
    by_cases hdue : l.state = .due
    · rw [(periodicStep_due hl hdue).2 _ hglobal]
      refine ⟨block_barred _ _ _, fun x hx _ => ?_⟩
      cases hx
      exact (block_moves n l _ s hl).1.1
    · rw [periodicStep_passes (by rw [hl]; exact fun h => hdue (Option.some.inj h))]
      refine ⟨.refl _ s, fun x hx hdue' => ?_⟩
      cases hx
      exact absurd hdue' hdue

theorem periodicSteps_barred (ns : List Nat) (hbarred : s.sched ≠ .active ∨ s.quality ≠ .set) :
    Barred (barring s) s (ns.foldl periodicStep s) ∧ ∀ n ∈ ns, ∀ l, s.luminaires.get n = some l → l.state = .due →
      (ns.foldl periodicStep s).luminaires.get n = some { l with blockedBy := some (barring s) } := by
  induction ns generalizing s with
  | nil => exact ⟨.refl _ s, fun n hn => absurd hn List.not_mem_nil⟩
  | cons k ns ih =>
    obtain ⟨hstep, hblocked⟩ := periodicStep_barred k hbarred
    obtain ⟨hbarred', hsame⟩ := hstep.keeps hbarred
    obtain ⟨hrest, hlater⟩ := ih hbarred'
    rw [hsame] at hrest hlater
    rw [List.foldl_cons]
    refine ⟨hstep.trans hrest, fun n hn l hl hdue => ?_⟩
    by_cases hk : n = k
    · subst hk
      exact (hrest.records n _ (hblocked l hl hdue)).elim id id
    · have hmem := (List.mem_cons.mp hn).resolve_left hk
      rcases hstep.records n l hl with hget | hget
      · exact hlater n hmem l hget hdue
      · exact hlater n hmem { l with blockedBy := some (barring s) } hget hdue

theorem pass_barred (hbarred : s.sched ≠ .active ∨ s.quality ≠ .set) :
    Barred (barring s) s (pass s) ∧ ∀ n ∈ s.schedule, ∀ l, s.luminaires.get n = some l → l.state = .due →
      (pass s).luminaires.get n = some { l with blockedBy := some (barring s) } := by
  have hcampaigns := campaignPart_barred 56 [] hbarred
  obtain ⟨hbarred', hsame⟩ := hcampaigns.keeps hbarred
  obtain ⟨hsteps, hblocked⟩ := periodicSteps_barred (campaignPart 56 [] s).schedule hbarred'
  rw [hsame] at hsteps hblocked
  refine ⟨hcampaigns.trans hsteps, fun n hn l hl hdue => ?_⟩
  rw [← hcampaigns.schedule] at hn
  rcases hcampaigns.records n l hl with hget | hget
  · exact hblocked n hn l hget hdue
  · exact hblocked n hn { l with blockedBy := some (barring s) } hget hdue

end

/-- Settles O4: how many passes an event makes, the rotation and the schedule list of one pass, and what it may change. -/
theorem aPassChangesOnlyPlacementState : Obligations.APassChangesOnlyPlacementState := by
  unfold Obligations.APassChangesOnlyPlacementState
  refine ⟨fun s => settle_untriggered, fun s => settle_one, settle_rounds,
    fun s => ⟨_, campaignPart_offered 56 [] s List.nodup_nil (by rw [List.length_nil]; omega), rfl⟩, fun s => rfl,
    fun s n => ⟨periodicStep_passes, fun hstate => ?_⟩, fun s n from? => consider_lastServed n from?,
    fun s => ⟨?_, pass_queues s⟩, fun s hbarred => ?_⟩
  · obtain ⟨l, hl, hdue⟩ := Option.map_eq_some_iff.mp hstate
    obtain ⟨hconsidered, hblocked⟩ := periodicStep_due hl hdue
    refine ⟨hconsidered, fun x r hx hglobal => ?_⟩
    obtain ⟨⟨hget, hother, -⟩, -⟩ := block_moves n x r s hx
    have hbarred := block_barred n r s
    rw [hblocked r hglobal]
    exact ⟨hget, hbarred.slots, hbarred.branches, hother⟩
  · have honly := pass_only s
    unfold OnlyPass at honly
    generalize pass s = t at *
    rw [honly]
  · obtain ⟨hpass, hblocked⟩ := pass_barred hbarred
    exact ⟨hpass.slots, hpass.branches, hpass.checkPending, fun n l hn hl hdue => hblocked n hn l hl hdue⟩

end Sys2Proof.Machine
end

section
/-! PROOFS. A reservation: its slot, its START, its record, its coverage (R38, R79 to R82). -/

namespace Sys2Proof.Machine

/-- The record of a reserved luminaire (R79). -/
def Luminaire.reserved (l : Luminaire) : Luminaire := { l with state := .starting, blockedBy := none, openMarker := true }

/-- The part with slot `k` reserved, the START queued and the record written, before a campaign is told (R79 to R82). -/
def reservedIn (n k : Nat) (l : Luminaire) (from? : Option (Fin 4)) (s : State) : State :=
  storeRecord n l.reserved (enqueue l.branch (startExchange l.node n k s.classes[l.cls].rated)
    { s with slots := s.slots.put k (reservedSlot s n l from?) })

section
variable {n k : Nat} {l : Luminaire} {from? : Option (Fin 4)} {s : State}

theorem enter_starting (h : l.state ≠ .starting) : { l.enter .starting with openMarker := true } = l.reserved := by
  unfold Luminaire.enter Luminaire.reserved
  rw [if_neg fun he => h he.symm]
  rfl

theorem verdict_reserve_waits (h : verdict s n l from? = .reserve) : l.state = .due ∨ l.state = .idle :=
  ((verdict_reserve_iff s n l from?).mp h).1.imp_right And.right

theorem consider_reserves (hl : s.luminaires.get n = some l) (hv : verdict s n l from? = .reserve)
    (hk : s.slots.lowestFree slotCount = some k) :
    consider n from? s = (tellReserved from? k (reservedIn n k l from? s), true) := by
  have hnot : l.state ≠ .starting := by
    rcases verdict_reserve_waits hv with h | h <;> rw [h] <;> exact fun h => nomatch h
  rw [consider_eq hl, hv]
  change (reserve n l from? s, true) = _
  unfold reserve
  rw [hk]
  dsimp only
  rw [enter_starting hnot]
  rfl

/-- What a reservation has come to before a campaign is told (R79 to R82). -/
structure ReservedIn (n k : Nat) (l : Luminaire) (from? : Option (Fin 4)) (s w : State) : Prop where
  slots : w.slots = s.slots.put k (reservedSlot s n l from?)
  branches : w.branches = s.branches.set l.branch { s.branches[l.branch] with
    queue := s.branches[l.branch].queue ++ [startExchange l.node n k s.classes[l.cls].rated] }
  moves : RecordMoves n (some l.reserved) s w
  touches : Touches (withRecords { s with slots := w.slots, branches := w.branches } w) w
  quiet : writeFails s = false → Quiet s w

/-- A record's write that lands raises nothing. -/
theorem storeRecord_quiet (n : Nat) (l : Luminaire) {s : State} (h : writeFails s = false) : Quiet s (storeRecord n l s) := by
  have htables := putLum_tables n (some l) s
  unfold OnlyTables withRecords at htables
  unfold storeRecord
  generalize putLum n (some l) s = t at *
  have hlands : writeFails t = false := by
    rw [htables]
    exact h
  rw [writeItem_lands _ _ hlands, htables]
  exact ⟨rfl, rfl, rfl, rfl⟩

/-- The part with slot `k` reserved and the START in a reserved place (R79, R80). -/
def startQueued (n k : Nat) (l : Luminaire) (from? : Option (Fin 4)) (s : State) : State :=
  modBranch l.branch (fun br => { br with queue := br.queue ++ [startExchange l.node n k s.classes[l.cls].rated] })
    { s with slots := s.slots.put k (reservedSlot s n l from?) }

theorem reservedIn_eq (hv : verdict s n l from? = .reserve) :
    reservedIn n k l from? s = storeRecord n l.reserved (startQueued n k l from? s) := by
  obtain ⟨-, -, -, hready, -⟩ := (verdict_reserve_iff s n l from?).mp hv
  have hworks : s.branches[l.branch].state.works = true := by
    rw [hready]
    rfl
  exact congrArg (storeRecord n l.reserved) (enqueue_ready (b := l.branch)
    (s := { s with slots := s.slots.put k (reservedSlot s n l from?) }) hworks)

theorem reservedIn_reserved (hv : verdict s n l from? = .reserve) : ReservedIn n k l from? s (reservedIn n k l from? s) := by
  have honly := storeRecord_only n l.reserved (startQueued n k l from? s)
  have hmoves := storeRecord_recordMoves n l.reserved (startQueued n k l from? s)
  have hquiet (h : writeFails s = false) := storeRecord_quiet n l.reserved (s := startQueued n k l from? s) h
  unfold OnlyRecords at honly
  rw [reservedIn_eq hv]
  generalize storeRecord n l.reserved (startQueued n k l from? s) = w at *
  refine ⟨by rw [honly]; rfl, by rw [honly]; rfl, hmoves.of_base rfl rfl, ?_, hquiet⟩
  unfold Touches withRecords
  rw [honly]
  rfl

/-- No group of a reserved luminaire is above its cap (R38). -/
theorem ReservedIn.covered {w : State} (h : ReservedIn n k l from? s w) (hl : s.luminaires.get n = some l)
    (hv : verdict s n l from? = .reserve) : ∀ g ∈ l.groups, ∀ r, w.groups.get g = some r → r.dark ≤ r.cap := by
  obtain ⟨-, -, -, -, -, -, hcoverage, -⟩ := (verdict_reserve_iff s n l from?).mp hv
  obtain ⟨-, -, hgroups⟩ := h.moves
  intro g hg r hr
  obtain ⟨hnone, hsome⟩ := hgroups g
  cases hold : s.groups.get g with
  | none =>
    rw [hnone hold] at hr
    cases hr
  | some x =>
    obtain ⟨x', hx', hcap, hdark, -⟩ := hsome x hold
    obtain rfl := Option.some.inj (hr.symm.trans hx')
    have hbefore := hcoverage g hg x hold
    have hnew : darkIn (some l.reserved) g = true := by
      unfold darkIn
      rw [Option.any_some, Bool.and_eq_true]
      exact ⟨List.contains_iff_mem.mpr hg, rfl⟩
    have hwas : darkIn (s.luminaires.get n) g = l.dark := by
      unfold darkIn
      rw [hl, Option.any_some, List.contains_iff_mem.mpr hg, Bool.true_and]
    rw [hdark, hcap, hnew, hwas]
    cases hd : l.dark <;> rw [hd] at hbefore <;> simp at hbefore ⊢ <;> omega

/-- A periodic reservation (R79 to R82). -/
theorem periodic_reserves (hl : s.luminaires.get n = some l) (hv : verdict s n l none = .reserve)
    (hk : s.slots.lowestFree slotCount = some k) : ∃ u, consider n none s = (u, true) ∧ ReservedIn n k l none s u :=
  ⟨_, consider_reserves hl hv hk, reservedIn_reserved hv⟩

end

end Sys2Proof.Machine
end

section
/-! PROOFS. The campaign of a reserved candidate (R69, R82, R121, R129 to R133). -/

namespace Sys2Proof.Machine

/-! ### The other channels -/

/-- No channel but `c` differs. -/
def OnlyChannel (c : Fin 4) (s t : State) : Prop := ∀ d : Fin 4, d ≠ c → t.channels[d] = s.channels[d]

namespace OnlyChannel

theorem refl {c : Fin 4} (s : State) : OnlyChannel c s s := fun _ _ => rfl

theorem trans {c : Fin 4} {s t u : State} (h1 : OnlyChannel c s t) (h2 : OnlyChannel c t u) : OnlyChannel c s u :=
  fun d hd => (h2 d hd).trans (h1 d hd)

theorem same {c : Fin 4} {s t : State} (h : t.channels = s.channels) : OnlyChannel c s t := fun d _ => by rw [h]

theorem mod (c : Fin 4) (f : Channel → Channel) (s : State) : OnlyChannel c s (modChan c f s) :=
  fun d hd => modChan_other c d f s hd

theorem notice (c : Fin 4) (b : NoticeBody) (s : State) : OnlyChannel c s (raise b s) := .same (by
  rw [show raise b s = _ from raise_only b s])

end OnlyChannel

section
variable (c : Fin 4) (s : State)

open OnlyChannel

theorem checkWatch_onlyChannel : OnlyChannel c s (checkWatch c s) := by
  unfold checkWatch
  exact (mod c _ s).trans (foldl_only refl trans (fun t _ => notice c _ t) _ _)

theorem campaignDone_onlyChannel : OnlyChannel c s (campaignDone c s) := by
  have hdone := (mod c (fun ch => { ch with state := .done }) s).trans
    (notice c (.done c s.channels[c].run s.channels[c].skipped s.channels[c].unstarted) _)
  unfold campaignDone
  dsimp only
  split
  · exact ((hdone.trans (mod c _ _)).trans (notice c _ _)).trans (same rfl)
  · exact hdone

theorem drainedDone_onlyChannel : OnlyChannel c s (drainedDone c s) := by
  unfold drainedDone
  dsimp only
  split
  · exact campaignDone_onlyChannel c s
  · exact refl s

theorem endOfList_onlyChannel (last cursor : Nat) : OnlyChannel c s (endOfList c last cursor s) :=
  ((mod c _ s).trans (checkWatch_onlyChannel c _)).trans (drainedDone_onlyChannel c _)

theorem finishEntry_onlyChannel : OnlyChannel c s (finishEntry c s) := by
  unfold finishEntry
  dsimp only
  split
  · exact endOfList_onlyChannel c s _ _
  · split
    · exact (mod c _ s).trans (checkWatch_onlyChannel c _)
    · split <;> exact mod c _ s

theorem halt_onlyChannel (r : HaltReason) : OnlyChannel c s (halt c r s) := (mod c _ s).trans (notice c _ _)

theorem reachMember_onlyChannel : OnlyChannel c s (reachMember c s) := by
  unfold reachMember
  dsimp only
  split
  · exact (mod c _ s).trans (finishEntry_onlyChannel c _)
  · exact mod c _ s

theorem examineTest_onlyChannel (n : Nat) : OnlyChannel c s (examineTest c n s) := by
  unfold examineTest
  split
  · exact halt_onlyChannel c s _
  · split
    · exact halt_onlyChannel c s _
    · exact refl s

theorem markTakenUp_onlyChannel : OnlyChannel c s (markTakenUp c s) := by
  unfold markTakenUp
  dsimp only
  split
  · exact (mod c _ s).trans (notice c _ _)
  · exact mod c _ s

theorem takeUpOne_onlyChannel : OnlyChannel c s (takeUpOne c s) := by
  unfold takeUpOne
  dsimp only
  split
  · exact endOfList_onlyChannel c s _ _
  · refine (markTakenUp_onlyChannel c s).trans ?_
    split
    · exact examineTest_onlyChannel c _ _
    · split
      · exact halt_onlyChannel c _ _
      · exact (mod c _ _).trans (reachMember_onlyChannel c _)
    · exact (notice c _ _).trans (finishEntry_onlyChannel c _)

theorem takeUpAll_onlyChannel (fuel : Nat) : OnlyChannel c s (takeUpAll fuel c s) := by
  induction fuel generalizing s with
  | zero => exact refl s
  | succ fuel ih =>
    unfold takeUpAll
    split
    · exact (takeUpOne_onlyChannel c s).trans (ih _)
    · exact refl s

theorem campaignReserved_onlyChannel (k : Nat) : OnlyChannel c s (campaignReserved c k s) := by
  have hdrawn := mod c (fun ch => { ch with inFlight := ch.inFlight ++ [(k, s.channels[c].cursor)] }) s
  unfold campaignReserved
  dsimp only
  split
  · exact ((hdrawn.trans (mod c _ _)).trans (reachMember_onlyChannel c _)).trans (takeUpAll_onlyChannel c _ 140)
  · exact (hdrawn.trans (finishEntry_onlyChannel c _)).trans (takeUpAll_onlyChannel c _ 140)

end

/-! ### The finish watch and the end of the list with a test in flight -/

section
variable {c : Fin 4} {x : Channel} {ns : List NoticeBody} {trig : Bool} {s t : State}

/-- An entry with a test in flight stays watched (R133). -/
theorem checkWatch_kept (h : Became c x ns trig s t) (hwatch : ∀ e ∈ x.finishWatch, x.holdsTestOf e = true) :
    Became c x ns trig s (checkWatch c t) := by
  have hended : (x.finishWatch.filter fun e => !x.holdsTestOf e) = [] :=
    List.filter_eq_nil_iff.mpr fun e he => by
      rw [hwatch e he]
      exact Bool.false_ne_true
  have hkept : x.finishWatch.filter x.holdsTestOf = x.finishWatch := List.filter_eq_self.mpr hwatch
  unfold checkWatch
  dsimp only
  rw [h.channel, hended]
  refine h.mod ?_
  rw [hkept]

theorem drainedDone_drains (h : Became c x ns trig s t) (hflight : x.inFlight ≠ []) :
    Became c x ns trig s (drainedDone c t) := by
  have hnot : drainedDone c t = t := if_neg (by
    rw [h.channel]
    exact fun hboth => hflight hboth.2)
  rw [hnot]
  exact h

/-- The end of the list with a test of its last entry in flight: the campaign drains (R137). -/
theorem endOfList_drains (h : Became c x ns trig s t) (cursor : Nat) (hwatch : x.finishWatch = [])
    (hheld : x.holdsTestOf x.cursor = true) (hflight : x.inFlight ≠ []) :
    Became c { x with
        state := .draining, cursor := cursor, takenUp := false, atPosition := false
        finishWatch := if x.atPosition then [x.cursor] else [] } ns trig s (endOfList c x.cursor cursor t) := by
  unfold endOfList
  refine drainedDone_drains (checkWatch_kept (h.mod ?_) fun e he => ?_) hflight
  · rw [hwatch]
    rfl
  · cases hposition : x.atPosition with
    | true =>
      rw [hposition] at he
      rw [List.mem_singleton.mp he]
      exact hheld
    | false =>
      rw [hposition] at he
      cases he

/-! ### A TEST that has finished drawing -/

/-- The end of the list: the entry is flagged last, or no entry follows it (R133, R137). -/
theorem finishEntry_ends {e : Entry} (h : Became c x ns trig s t) (hentry : x.entries[x.cursor]? = some e)
    (hends : e.last = true ∨ 63 ≤ x.cursor ∨ x.entries.length ≤ x.cursor + 1) :
    finishEntry c t = endOfList c x.cursor (x.cursor + 1) t := by
  unfold finishEntry Channel.current
  dsimp only
  rw [h.channel, hentry]
  exact if_pos hends

/-- An entry follows: PAUSED at the stop position, HELD with a hold, else on to the next entry (R133). -/
theorem finishEntry_goes {e : Entry} (h : Became c x ns trig s t) (hentry : x.entries[x.cursor]? = some e)
    (hlast : e.last = false) (hcursor : x.cursor < 63) (hmore : x.cursor + 1 < x.entries.length) (hwatch : x.finishWatch = [])
    (hheld : x.holdsTestOf x.cursor = true) : Became c (if x.atPosition then
        { x with
          cursor := x.cursor + 1, takenUp := false, state := .paused, atPosition := false, finishWatch := [x.cursor]
          heldEntry := if e.hold then some x.cursor else x.heldEntry }
      else if e.hold then { x with cursor := x.cursor + 1, takenUp := false, state := .held, heldEntry := some x.cursor }
      else { x with cursor := x.cursor + 1, takenUp := false }) ns trig s (finishEntry c t) := by
  have hnot : ¬ ((some e).any Entry.last = true ∨ 63 ≤ x.cursor ∨ x.entries.length ≤ x.cursor + 1) := by
    rw [Option.any_some, hlast]
    simp only [Bool.false_eq_true, false_or]
    omega
  unfold finishEntry Channel.current
  dsimp only
  rw [h.channel, hentry, if_neg hnot, Option.any_some, hheld, Bool.and_true, hwatch]
  by_cases hposition : x.atPosition = true
  · rw [if_pos hposition, if_pos hposition]
    refine checkWatch_kept (h.mod rfl) fun e' he' => ?_
    rw [List.mem_singleton.mp he']
    exact hheld
  · rw [if_neg hposition, if_neg hposition]
    by_cases hhold : e.hold = true
    · rw [if_pos hhold, if_pos hhold]
      exact h.mod rfl
    · rw [if_neg hhold, if_neg hhold]
      exact h.mod rfl

/-! ### A GROUP-TEST goes on -/

/-- The first member from the cursor on that is not skipped (R129). -/
theorem reachMember_reaches {j : Nat} (h : Became c x ns trig s t)
    (hskipped : ((x.snapshot.drop x.member).takeWhile (skips s)).length = j) (hj : x.member + j < x.snapshot.length) :
    Became c { x with member := x.member + j, skipped := min (x.skipped + j) 255 } ns trig s (reachMember c t) := by
  have hskips : skips t = skips s := by
    funext n
    unfold skips
    rw [h.luminaires]
  unfold reachMember
  dsimp only
  rw [h.channel, hskips, hskipped, if_neg (Nat.not_le.mpr hj)]
  exact h.mod rfl

end

end Sys2Proof.Machine
end

section
/-! PROOFS. Reservations, periodic and of a campaign, put together (R38, R69, R79 to R82, R131 to R133). -/

namespace Sys2Proof.Machine

/-! ### The campaign presents -/

/-- A TEST entry that is taken up presents its luminaire (R131). -/
theorem present_test {s : State} {c : Fin 4} {e : Entry} {n : Nat} {l : Luminaire} (hrunning : s.channels[c].state = .running)
    (htaken : s.channels[c].takenUp = true) (hentry : s.channels[c].entries[s.channels[c].cursor]? = some e)
    (hkind : e.kind = .test n) (hl : s.luminaires.get n = some l) (hservice : l.state ≠ .outOfService) :
    present c s = (s, some n) := by
  have hsame : reexamine c s = s := by
    unfold reexamine Channel.current examineTest
    dsimp only
    rw [if_pos ⟨hrunning, htaken⟩, hentry, Option.map_some, hkind]
    dsimp only
    rw [hl]
    exact if_neg hservice
  have hcandidate : currentCandidate s.channels[c] = some n := by
    unfold currentCandidate
    rw [if_pos ⟨hrunning, htaken⟩, hentry, Option.map_some, hkind]
  unfold present
  dsimp only
  rw [hsame, Bool.and_not_self, if_neg Bool.false_ne_true, hcandidate]

/-! ### The campaign is told -/

/-- The channel with the test in slot `k` in flight (R132). -/
def Channel.drawn (ch : Channel) (k : Nat) : Channel := { ch with inFlight := ch.inFlight ++ [(k, ch.cursor)] }

section
variable {c : Fin 4} {k : Nat} {e : Entry} {v : State}

theorem drawn_holds (ch : Channel) (k : Nat) : (ch.drawn k).holdsTestOf ch.cursor = true := by
  unfold Channel.drawn Channel.holdsTestOf
  simp

theorem drawn_flies (ch : Channel) (k : Nat) : (ch.drawn k).inFlight ≠ [] :=
  List.append_ne_nil_of_right_ne_nil _ (List.cons_ne_nil _ _)

/-- The part with the test in slot `k` in channel `c`'s in-flight list. -/
def joined (c : Fin 4) (k : Nat) (v : State) : State :=
  modChan c (fun ch => { ch with inFlight := ch.inFlight ++ [(k, v.channels[c].cursor)] }) v

theorem joined_became (c : Fin 4) (k : Nat) (v : State) : Became c (v.channels[c].drawn k) [] false v (joined c k v) :=
  (Became.refl c v).mod rfl

theorem campaignReserved_test {m : Nat} (hentry : v.channels[c].entries[v.channels[c].cursor]? = some e)
    (hkind : e.kind = .test m) : campaignReserved c k v = takeUp c (finishEntry c (joined c k v)) := by
  unfold campaignReserved Channel.current
  dsimp only
  rw [hentry, Option.map_some, hkind]
  rfl

theorem campaignReserved_group {g : Nat} (hentry : v.channels[c].entries[v.channels[c].cursor]? = some e)
    (hkind : e.kind = .groupTest g) : campaignReserved c k v =
      takeUp c (reachMember c (modChan c (fun ch => { ch with member := ch.member + 1 }) (joined c k v))) := by
  unfold campaignReserved Channel.current
  dsimp only
  rw [hentry, Option.map_some, hkind]
  rfl

/-- A GROUP-TEST goes on to its next member that is not skipped (R129). -/
theorem told_group {g j m : Nat} (htaken : v.channels[c].takenUp = true)
    (hentry : v.channels[c].entries[v.channels[c].cursor]? = some e) (hkind : e.kind = .groupTest g)
    (hm : v.channels[c].snapshot[v.channels[c].member + 1 + j]? = some m) (hstop : skips v m = false)
    (hbefore : ∀ i, i < j → ∀ y, v.channels[c].snapshot[v.channels[c].member + 1 + i]? = some y → skips v y = true) :
    (campaignReserved c k v).channels[c] = { v.channels[c].drawn k with
      member := v.channels[c].member + 1 + j, skipped := min (v.channels[c].skipped + j) 255 } := by
  have hnext := (joined_became c k v).mod (f := fun ch => { ch with member := ch.member + 1 }) rfl
  have hskipped : ((v.channels[c].snapshot.drop (v.channels[c].member + 1)).takeWhile (skips v)).length = j :=
    takeWhile_length (by rw [List.getElem?_drop]; exact hm) hstop fun i hi y hy =>
      hbefore i hi y (by rw [List.getElem?_drop] at hy; exact hy)
  have hroom : v.channels[c].member + 1 + j < v.channels[c].snapshot.length := (List.getElem?_eq_some_iff.mp hm).1
  have hreached := reachMember_reaches hnext hskipped hroom
  rw [campaignReserved_group hentry hkind, takeUp_settled hreached (.inr htaken)]
  exact hreached.channel

section
variable {m : Nat} (hentry : v.channels[c].entries[v.channels[c].cursor]? = some e) (hkind : e.kind = .test m)
  (hwatch : v.channels[c].finishWatch = [])

include hentry hkind hwatch

/-- The last TEST of the list: the campaign drains (R133, R137). -/
theorem told_ends (hends : e.last = true ∨ v.channels[c].cursor = 63 ∨ v.channels[c].entries.length = v.channels[c].cursor + 1) :
    (campaignReserved c k v).channels[c] = { v.channels[c].drawn k with
      cursor := v.channels[c].cursor + 1, takenUp := false, state := .draining, atPosition := false
      finishWatch := if v.channels[c].atPosition then [v.channels[c].cursor] else [] } := by
  have hjoined := joined_became c k v
  have hdrains := endOfList_drains hjoined (v.channels[c].cursor + 1) hwatch (drawn_holds _ k) (drawn_flies _ k)
  have hfinish : finishEntry c (joined c k v) = endOfList c v.channels[c].cursor (v.channels[c].cursor + 1) (joined c k v) :=
    finishEntry_ends (x := v.channels[c].drawn k) hjoined hentry (hends.imp_right (Or.imp Eq.ge Eq.le))
  rw [campaignReserved_test hentry hkind, hfinish]
  exact (congrArg (fun t : State => t.channels[c]) (takeUp_settled hdrains (.inl fun h => nomatch h))).trans hdrains.channel

variable (hlast : e.last = false) (hcursor : v.channels[c].cursor < 63)
  (hmore : v.channels[c].cursor + 1 < v.channels[c].entries.length)

include hlast hcursor hmore

theorem told_pauses (hposition : v.channels[c].atPosition = true) :
    (campaignReserved c k v).channels[c] = { v.channels[c].drawn k with
      cursor := v.channels[c].cursor + 1, takenUp := false, state := .paused, atPosition := false
      finishWatch := [v.channels[c].cursor]
      heldEntry := if e.hold then some v.channels[c].cursor else v.channels[c].heldEntry } := by
  have hgoes := finishEntry_goes (joined_became c k v) hentry hlast hcursor hmore hwatch (drawn_holds _ k)
  have hpaused := hgoes.as (if_pos hposition)
  rw [campaignReserved_test hentry hkind, takeUp_settled hpaused (.inl fun h => nomatch h)]
  exact hpaused.channel

theorem told_holds (hposition : v.channels[c].atPosition = false) (hhold : e.hold = true) :
    (campaignReserved c k v).channels[c] = { v.channels[c].drawn k with
      cursor := v.channels[c].cursor + 1, takenUp := false, state := .held, heldEntry := some v.channels[c].cursor } := by
  have hgoes := finishEntry_goes (joined_became c k v) hentry hlast hcursor hmore hwatch (drawn_holds _ k)
  have hheld := (hgoes.as (if_neg (ne_true_of_eq_false hposition))).as (if_pos hhold)
  rw [campaignReserved_test hentry hkind, takeUp_settled hheld (.inl fun h => nomatch h)]
  exact hheld.channel

/-- The next entry, a TEST of a luminaire in service, is taken up (R126, R127). -/
theorem told_goesOn {e' : Entry} {m' : Nat} {x : Luminaire} (hrunning : v.channels[c].state = .running)
    (hposition : v.channels[c].atPosition = false) (hhold : e.hold = false)
    (hentry' : v.channels[c].entries[v.channels[c].cursor + 1]? = some e') (hkind' : e'.kind = .test m')
    (hx : v.luminaires.get m' = some x) (hservice : x.state ≠ .outOfService)
    (hstop : v.channels[c].stopPosition ≠ some (v.channels[c].cursor + 1)) :
    (campaignReserved c k v).channels[c] = { v.channels[c].drawn k with cursor := v.channels[c].cursor + 1, takenUp := true } := by
  have hgoes := finishEntry_goes (joined_became c k v) hentry hlast hcursor hmore hwatch (drawn_holds _ k)
  have hnext := (hgoes.as (if_neg (ne_true_of_eq_false hposition))).as (if_neg (ne_true_of_eq_false hhold))
  rw [campaignReserved_test hentry hkind]
  exact (takeUp_test hnext hrunning rfl hentry' hkind' hx hservice hstop).channel

end

end

/-! ### Both together -/

section
variable {n k : Nat} {l : Luminaire} {s : State}

/-- A reserved luminaire is skipped by no GROUP-TEST, as before its reservation (R129). -/
theorem skips_reserved {w : State} (hmoves : RecordMoves n (some l.reserved) s w) (hl : s.luminaires.get n = some l)
    (hservice : l.state ≠ .outOfService) (m : Nat) : skips w m = skips s m := by
  obtain ⟨hnew, hother, -⟩ := hmoves
  by_cases hm : m = n
  · rw [hm, skips_used hnew, skips_used hl, decide_eq_false hservice]
    rfl
  · unfold skips
    rw [hother m hm]

/-- A luminaire in service stays in service when it, or another, is reserved. -/
theorem reserved_inService {w : State} (hmoves : RecordMoves n (some l.reserved) s w) {m : Nat} {x : Luminaire}
    (hx : s.luminaires.get m = some x) (hservice : x.state ≠ .outOfService) :
    ∃ y, w.luminaires.get m = some y ∧ y.state ≠ .outOfService := by
  obtain ⟨hnew, hother, -⟩ := hmoves
  by_cases hm : m = n
  · exact ⟨l.reserved, hm ▸ hnew, fun h => nomatch h⟩
  · exact ⟨x, (hother m hm).trans hx, hservice⟩

/-- The part of a campaign's reservation as the campaign is told of it. -/
def toldOf (n k : Nat) (l : Luminaire) (c : Fin 4) (s : State) : State := { reservedIn n k l (some c) s with lastServed := c }

theorem campaign_reserves {c : Fin 4} (hl : s.luminaires.get n = some l) (hv : verdict s n l (some c) = .reserve)
    (hk : s.slots.lowestFree slotCount = some k) :
    consider n (some c) s = (campaignReserved c k (toldOf n k l c s), true) := consider_reserves hl hv hk

theorem toldOf_reserved {c : Fin 4} (hv : verdict s n l (some c) = .reserve) :
    (toldOf n k l c s).channels = s.channels ∧ RecordMoves n (some l.reserved) s (toldOf n k l c s) := by
  have h := reservedIn_reserved (k := k) hv
  have hchannels : (reservedIn n k l (some c) s).channels = s.channels := by
    rw [show reservedIn n k l (some c) s = _ from h.touches]
    rfl
  exact ⟨hchannels, h.moves⟩

/-- What a reservation of a campaign candidate comes to beside its channel (R79 to R82). -/
theorem campaign_reserved {c : Fin 4} (hv : verdict s n l (some c) = .reserve) :
    ∃ u, campaignReserved c k (toldOf n k l c s) = u ∧ u.lastServed = c ∧
      u.slots = s.slots.put k (reservedSlot s n l (some c)) ∧
      u.branches = s.branches.set l.branch { s.branches[l.branch] with
        queue := s.branches[l.branch].queue ++ [startExchange l.node n k s.classes[l.cls].rated] } ∧
      RecordMoves n (some l.reserved) s u ∧ ∀ d : Fin 4, d ≠ c → u.channels[d] = s.channels[d] := by
  have hcore := reservedIn_reserved (k := k) hv
  have honly := campaignReserved_only c k (toldOf n k l c s)
  have hothers := campaignReserved_onlyChannel c (toldOf n k l c s) k
  obtain ⟨hchannels, hmoves⟩ := toldOf_reserved (k := k) hv
  unfold OnlyCampaign at honly
  refine ⟨_, rfl, by rw [honly]; rfl, ?_, ?_, hmoves.congr (by rw [honly]) (by rw [honly]), fun d hd => ?_⟩
  · rw [honly]
    exact hcore.slots
  · rw [honly]
    exact hcore.branches
  · rw [hothers d hd, hchannels]

end

/-- Settles O6: what a TEST presents, what the reservation of a campaign candidate comes to, and that of a periodic one. -/
theorem aReservationKeepsCoverage : Obligations.AReservationKeepsCoverage := by
  unfold Obligations.AReservationKeepsCoverage
  refine ⟨fun s c e n l hrunning htaken hentry hkind hl hservice => present_test hrunning htaken hentry hkind hl hservice,
    fun s n l k c e hl hv hk => ?_, fun s n l k hl hv hk => ?_⟩
  · intro ch drawn done hrunning htaken hwatch hentry hnotMark
    obtain ⟨u, hu, hserved, hslots, hbranches, hmoves, hothers⟩ := campaign_reserved (k := k) hv
    obtain ⟨hchannels, htold⟩ := toldOf_reserved (k := k) hv
    have hconsidered := campaign_reserves hl hv hk
    have hservice : l.state ≠ .outOfService := by
      rcases verdict_reserve_waits hv with h | h <;> rw [h] <;> exact fun h => nomatch h
    have hch : ch = (toldOf n k l c s).channels[c] := by rw [hchannels]
    unfold reservedSlot originOf at hslots
    rw [← hchannels] at hslots
    generalize toldOf n k l c s = v at *
    clear_value ch
    subst hch hu
    refine ⟨_, hconsidered, hserved, hslots, hbranches, hmoves, hothers, fun g j m x hgroup hm hx hin hbefore => ?_,
      fun m htest => ⟨fun hends => told_ends hentry htest hwatch hends, fun hlast hcursor hmore =>
        ⟨fun hposition => told_pauses hentry htest hwatch hlast hcursor hmore hposition, fun hposition hhold =>
          told_holds hentry htest hwatch hlast hcursor hmore hposition hhold,
          fun e' m' x hposition hhold hentry' hkind' hx hin hstop => ?_⟩⟩⟩
    · refine told_group htaken hentry hgroup hm ?_ fun i hi y hy => ?_
      · rw [skips_reserved htold hl hservice, skips_used hx]
        exact decide_eq_false hin
      · rw [skips_reserved htold hl hservice]
        cases hz : s.luminaires.get y with
        | none => exact skips_missing hz
        | some z =>
          rw [skips_used hz]
          exact decide_eq_true (hbefore i hi y hy z hz)
    · obtain ⟨y, hy, hin'⟩ := reserved_inService htold hx hin
      exact told_goesOn hentry htest hwatch hlast hcursor hmore hrunning hposition hhold hentry' hkind' hy hin' hstop
  · have h := reservedIn_reserved (k := k) hv
    exact ⟨_, consider_reserves hl hv hk, h.slots, h.branches, h.moves, h.covered hl hv, h.touches, h.quiet⟩

end Sys2Proof.Machine
end
